-- ==== Sys2Proof/Word.lean ====
section
/-! DEFINITION. The word types of the block: a byte of host or device memory, the 16-, 32-
and 64-bit words of its registers, descriptors and wire formats (R11: all little-endian). -/

namespace Sys2Proof

/-- One byte of a descriptor, a record or a packet. -/
abbrev Byte := BitVec 8
/-- A 16-bit field such as a generation number or an epoch. -/
abbrev Half := BitVec 16
/-- A 32-bit register or an FP32 pattern. -/
abbrev Word := BitVec 32
/-- A 64-bit register; a 32-bit register stands in the low half. -/
abbrev Long := BitVec 64

end Sys2Proof
end

