-- ==== Sys2Proof/Config.lean ====
section
/-! DEFINITION. What one part of the family fixes (Table 0.1, R2) and the values the spec leaves
open: each is an opaque constant with no body, so no proof can see a value of it. -/

namespace Sys2Proof

/-- The parts of the family (R2). -/
inductive Part where
  | cn1b08 | cn2b16 | cn4b32 | cn4p64
  deriving DecidableEq, Repr

/-- The packages of a CN4-P64; the other parts have package A alone. -/
inductive Pkg where
  | a | b
  deriving DecidableEq, Repr

/-- DIES of Table 0.1. -/
def Part.dies : Part → Nat
  | .cn1b08 => 1 | .cn2b16 => 2 | .cn4b32 => 4 | .cn4p64 => 4

/-- Enabled cores per die (Table 0.1). -/
def coresPerDie : Nat := 36

/-- Cores per package. -/
def Part.cores (p : Part) : Nat := p.dies * coresPerDie

/-- ME_PER_CORE of Table 0.1. -/
def mePerCore : Nat := 12

/-- VE_PER_CORE of Table 0.1. -/
def Part.vePerCore : Part → Nat
  | .cn1b08 => 4 | _ => 2

/-- MUs per core (Table 0.2). -/
def muPerCore : Nat := 3

/-- STACKS of Table 0.1. -/
def Part.stackCount (p : Part) : Nat := p.dies * 8

/-- PORTS of Table 0.1. -/
def Part.ports (p : Part) : Nat := p.dies * 4

/-- Stream contexts of a package that courses may take (R60). -/
def Part.courseContexts (p : Part) : Nat := p.dies * 261120

/-- The power level with index `i`, in tenths of a kilowatt (Table 0.1). For the CN4-P64 the
levels are those of the module, both packages together. -/
def Part.levelDeciKw : Part → Nat → Nat
  | .cn1b08, 0 => 7 | .cn1b08, 1 => 9 | .cn1b08, _ => 11
  | .cn2b16, 0 => 13 | .cn2b16, 1 => 17 | .cn2b16, _ => 21
  | .cn4b32, 0 => 24 | .cn4b32, 1 => 32 | .cn4b32, _ => 40
  | .cn4p64, 0 => 49 | .cn4p64, 1 => 65 | .cn4p64, _ => 82

/-- The part number as IDENTITY gives it (Table 15.10). -/
def Part.name : Part → String
  | .cn1b08 => "CN1-B08" | .cn2b16 => "CN2-B16" | .cn4b32 => "CN4-B32" | .cn4p64 => "CN4-P64"

/-- Free value: TIME of an error log entry, always-on cycles since reset (Table 17.4). The model
has no clock, so the `n`-th stamp is left open. -/
opaque Config.logTime : Nat → Long

/-- Free value: the PCIe Routing ID of a function (R417 builds the requester id on it). -/
opaque Config.routingId : Nat → Half

/-- Free value: the firmware version that IDENTITY reports (Table 15.10). -/
opaque Config.firmwareVersion : Long

/-- Free value: TYPE and TAG in the record of a descriptor that a bus error kept from being read (R401
gives the record, and the device has read neither). -/
opaque Config.unreadDescriptor : Nat → List Byte

/-- Free value: the STATUS of a PLACEMENT_REPORT that names no running or held course (no rule gives it). -/
opaque Config.absentCourseStatus : Nat → Half

/-- Free value: the 64 bytes of a state record (R461 digests it, no rule lays it out), from its outer scale, history,
VALID and clean count. -/
opaque Config.stateRecord : Nat → List Nat → Bool → Nat → List Byte

/-- Free value: the bytes of a sparse expert's block in another device's shard, by tensor, generation and block (R380 adds them up,
and no rule says how the requester learns them). -/
opaque Config.remoteBlockBytes : Nat → Nat → Nat → Nat

/-- Free value: the 64-byte key pair that Iluny draws for the polder of a create count (R474). -/
opaque Config.polderKey : Nat → List Byte

/-- Free value: the package's sealing key (R475). -/
opaque Config.sealingKey : List Byte

/-- Free value: the class code of a logged event that Table 17.5 does not list. -/
opaque Config.openClass : Nat → Half

/-- Free value: whether a quotient that R422 holds in steps of 1/128 is rounded up (no rule states the rounding). -/
opaque Config.roundsUp : Nat → Nat → Bool

/-- Free value: k of R422 where no core energy was accounted in the window before, before its clamp. -/
opaque Config.openCalib : Nat → Nat

/-- Free value: N of R430, in µJ, in a window whose rail telemetry is missing (R45). -/
opaque Config.unmeasuredNonCore : Nat → Nat

/-- Free value: a core's allowance in pJ where every projection of R430 is 0. -/
opaque Config.openAllowance : Nat → Nat → Nat

/-- Free value: the core rail voltage in mV that SLEEP lowers to (Table 16.8 gives none). -/
opaque Config.sleepMv : Nat

/-- Free value: the certificate chain of a slot (R487), whose bytes the spec does not give. -/
opaque Config.certChain : Nat → List Byte

/-- Free value: the SHA-384 digests of the firmware images, 0 of Iluny and 1 of the control cluster (Table 18.6). -/
opaque Config.firmwareDigest : Nat → List Byte

/-- Free value: the silicon revision in bits 31:28 of IDCODE (R523). -/
opaque Config.siliconRevision : BitVec 4

/-- Free value: the straps ADDR[2:0] of the module as the board sets them (R521). -/
opaque Config.addrStraps : BitVec 3

/-- Free value: the retirement map of a module that was mated live (R519). -/
opaque Config.mateRetired : Nat → List Nat

/-- Free value: a byte of the control region as the debug window shows it. The spec does not give the layout of the control
tables (R25, R397). -/
opaque Config.controlByte : Nat → Nat → BitVec 8

/-- Free value: the payload of a STEP_DONE, REPEAT or GIVE_UP behind its subtype byte (R360 to R362 name what it carries, no rule
lays it out), by subtype and what it carries. -/
opaque Config.roundBody : Nat → List Nat → List Byte

/-- Free value: the UDP source port towards a peer (R343: path entropy). -/
opaque Config.udpEntropy : Nat → Half

/-- Free value: whether an RNG value that FP32 does not hold stands as the FP32 number above it (R277). -/
opaque Config.rngUp : Nat → Bool

end Sys2Proof
end

