-- ==== Sys2Proof/Machine/FMap.lean ====
section
/-! DEFINITION. Sparse tables in one canonical form: a list of key and value pairs with the keys
strictly rising and no entry equal to what an unlisted key reads as. Equal tables are equal lists.
Every table of State (registers, rings, queues, tensors, tile elements, stack lines) has this form. -/

namespace Sys2Proof.Machine

/-- A table from natural-number keys; `d k` is what an unlisted key `k` reads as. -/
abbrev FMap (α : Type) := List (Nat × α)

/-- The value at a key. -/
def FMap.get {α : Type} (d : Nat → α) : FMap α → Nat → α
  | [], k => d k
  | (j, v) :: m, k => if k = j then v else FMap.get d m k

/-- Insert in rising key order, replacing an equal key. -/
def FMap.insert {α : Type} : FMap α → Nat → α → FMap α
  | [], k, v => [(k, v)]
  | (j, w) :: m, k, v =>
    if k < j then (k, v) :: (j, w) :: m
    else if k = j then (k, v) :: m
    else (j, w) :: FMap.insert m k v

/-- Remove a key. -/
def FMap.erase {α : Type} : FMap α → Nat → FMap α
  | [], _ => []
  | (j, w) :: m, k => if k = j then FMap.erase m k else (j, w) :: FMap.erase m k

/-- Write a key; writing what an unlisted key reads as removes the entry. -/
def FMap.set {α : Type} [DecidableEq α] (d : Nat → α) (m : FMap α) (k : Nat) (v : α) : FMap α :=
  if v = d k then FMap.erase m k else FMap.insert m k v

/-- Change the value at a key. -/
def FMap.update {α : Type} [DecidableEq α] (d : Nat → α) (m : FMap α) (k : Nat) (f : α → α) :
    FMap α :=
  FMap.set d m k (f (FMap.get d m k))

/-- Write several keys in order. -/
def FMap.setMany {α : Type} [DecidableEq α] (d : Nat → α) (m : FMap α) : List (Nat × α) → FMap α
  | [] => m
  | (k, v) :: kvs => FMap.setMany d (FMap.set d m k v) kvs

/-- Keep the entries whose key and value satisfy `p`; the others read as unlisted. -/
def FMap.keep {α : Type} (p : Nat → α → Bool) (m : FMap α) : FMap α :=
  m.filter (fun kv => p kv.1 kv.2)

/-- The keys of a list rise strictly above `b`. -/
def FMap.rising {α : Type} : Option Nat → FMap α → Bool
  | _, [] => true
  | b, (j, _) :: m =>
    (match b with
      | none => true
      | some i => decide (i < j)) && FMap.rising (some j) m

/-- The canonical form. -/
def FMap.wf {α : Type} [DecidableEq α] (d : Nat → α) (m : FMap α) : Bool :=
  FMap.rising none m && m.all (fun kv => decide (kv.2 ≠ d kv.1))

end Sys2Proof.Machine
end

