-- ==== Sys2Proof/Machine/Tiles.lean ====
section
/-! DEFINITION. Tiles: the header of Table 2.7 and the payload of a dense tile or of a sparse block, as
plain data. Elements and scales are element codes (bit patterns of the tile's format). -/

namespace Sys2Proof.Machine

/-- The tile header's fields (R65, Table 2.7). EXT_ROWS and EXT_COLS hold the extent minus 1. -/
structure TileHdr where
  tensor : Nat := 0
  index : Nat := 0
  extRows : Nat := 63
  extCols : Nat := 63
  format : Nat := 0
  scaleBlk : Nat := 0
  gen : Nat := 0
  epoch : Nat := 0
  poison : Bool := false
  longSum : Bool := false
  deriving DecidableEq, Repr

/-- One stored position of a sparse block: where it lies, its KEEP and NEW bits and its value code. -/
structure SpElem where
  row : Nat
  col : Nat
  keep : Bool := false
  new : Bool := false
  code : Nat
  deriving DecidableEq, Repr

/-- A tile. A dense tile lists its non-zero element codes by position 64 × row + column; a sparse block
lists its records in record order, with its block form (Table 6.1). Scales are E8M0 codes in block order. `tags` are the
positions of elements delivered with the poison tag (R43, R161). -/
structure Tile where
  hdr : TileHdr := {}
  elems : FMap Nat := []
  scales : List Nat := []
  form : Nat := 0
  recs : List SpElem := []
  tags : List Nat := []
  deriving DecidableEq, Repr

/-- Valid rows of a tile (R68). -/
def Tile.rows (t : Tile) : Nat := t.hdr.extRows + 1

/-- Valid columns of a tile (R68). -/
def Tile.cols (t : Tile) : Nat := t.hdr.extCols + 1

/-- The element code at a row and column of a dense tile; unlisted positions hold the zero pattern. -/
def Tile.at (t : Tile) (r c : Nat) : Nat := FMap.get (fun _ => 0) t.elems (64 * r + c)

/-- The header as its two 64-bit words (Table 2.7), word 1 above word 0. -/
def TileHdr.toNat (h : TileHdr) : Nat :=
  h.tensor % 2 ^ 24 + (h.index % 2 ^ 40) * 2 ^ 24 + (h.extRows % 64) * 2 ^ 64
    + (h.extCols % 64) * 2 ^ 70 + (h.format % 32) * 2 ^ 76 + (h.scaleBlk % 8) * 2 ^ 81
    + (h.gen % 2 ^ 16) * 2 ^ 84 + (h.epoch % 2 ^ 16) * 2 ^ 100
    + (if h.poison then 2 ^ 116 else 0) + (if h.longSum then 2 ^ 117 else 0)

/-- The header that two 64-bit words give; bits 127:118 are ignored (Table 2.7). -/
def TileHdr.ofNat (v : Nat) : TileHdr where
  tensor := v % 2 ^ 24
  index := (v >>> 24) % 2 ^ 40
  extRows := (v >>> 64) % 64
  extCols := (v >>> 70) % 64
  format := (v >>> 76) % 32
  scaleBlk := (v >>> 81) % 8
  gen := (v >>> 84) % 2 ^ 16
  epoch := (v >>> 100) % 2 ^ 16
  poison := v.testBit 116
  longSum := v.testBit 117

end Sys2Proof.Machine
end

