-- ==== Sys2Proof/Syntax.lean ====
section
/-! DEFINITION. The commands of the block with their operands. What the spec leaves to the host's memory,
to the placer, to a peer, to a sensor or to the moment of an event comes in as operands. -/

namespace Sys2Proof

open Sys2Proof.Machine

/-- An order that reaches the resolver in the same control cycle as the command and contradicts it
(R416): whether it stops, its master (0 Iluny, 1 PF, 2 pair partner, 3 VF, 4 peer), its requester id
(R417), and its ring number among the rings of one function. -/
structure Order where
  stop : Bool
  master : Nat
  requester : Nat
  ring : Nat
  deriving DecidableEq, Repr

/-- The ring of a COURSE_SUBMIT, and an order of the same control cycle that contradicts it: one that stops a course which would hold
the submitted one behind it (Table 15.16). -/
structure SubmitOrder where
  ring : Nat
  against : Option Order := none
  deriving DecidableEq, Repr

/-- What Iluny reads each 1 ms: the module input power in W, and the air-side temperature in °C (R434, R535). -/
structure IlunyReading where
  watts : Nat
  air : Nat
  deriving DecidableEq, Repr

/-- JTAG instructions (R523). -/
inductive JtagIr where
  | bypass | idcode | sample | extest | vendor
  deriving DecidableEq, Repr

/-- A VE instruction's fields (Table 10.2), without its opcode. -/
structure VeIns where
  typ : Nat := 0
  vl : Nat := 128
  d : Nat := 0
  a : Nat := 0
  b : Nat := 0
  c : Nat := 0
  msk : Nat := 0
  imm : Nat := 0
  deriving DecidableEq, Repr

/-- A Dunnath header's fields (Table 13.4), without LEN's payload: TYPE stands in the message. -/
structure DnHdr where
  ver : Nat := 2
  veto : Bool := false
  rescaled : Bool := false
  last : Bool := false
  retx : Bool := false
  attempt : Nat := 0
  channel : Nat := 0
  device : Bool := false
  leg : Nat := 0
  session : Nat := 0
  psn : Nat := 0
  ackPsn : Nat := 0
  credit : Nat := 0
  epoch : Nat := 0
  gen : Nat := 0
  len : Nat := 0
  xctx : Nat := 0
  deriving DecidableEq, Repr

/-- What an expert CTRL payload names (Table 14.4). -/
structure ExpertKey where
  operand : Nat
  expert : Nat
  course : Nat
  station : Nat
  deriving DecidableEq, Repr

/-- What a step-round message carries (R360): the function, the course and its step and attempt; `final` tells the
round at the course's end from an agreement of probe values (R262); veto, and by tensor amax with overflow, and the
probe's amax. -/
structure StepRound where
  func : Nat
  course : Nat
  step : Nat
  attempt : Nat
  final : Bool
  veto : Bool := false
  weir : List (Nat × Nat × Bool) := []
  probe : List (Nat × Nat) := []
  deriving DecidableEq, Repr

/-- What a REPEAT or a GIVE_UP names (R361, R362). -/
structure StepName where
  func : Nat
  course : Nat
  step : Nat
  attempt : Nat
  deriving DecidableEq, Repr

/-- The payload of exchange DATA (13.6, 13.7): a tile of values as they travel, FP32 or encoded with its scales; the `lo` of each
where pairs travel; on the pre-pass its bytes, one for each scale block. -/
structure XLoad where
  x : Tile := {}
  pair : Bool := false
  lo : FMap Nat := []
  bytes : List Nat := []
  deriving DecidableEq, Repr

/-- The message of a Dunnath packet by TYPE and CTRL subtype (Tables 13.5 and 14.4). A DATA packet that does not end
its tile is a `frag`; the last one stands for the tile it completes. A CREDIT that opens an exchange channel names the
course, station and port of the instance that its sender runs there. -/
inductive NetMsg where
  | frag
  | part (course station port : Nat) (veto : Bool) (x : XLoad)
  | block (k : ExpertKey) (x : Tile)
  | rows (k : ExpertKey) (x : Tile)
  | answer (k : ExpertKey) (x : Tile)
  | ack
  | nak (psn : Nat)
  | credit (instance_ : Option (Nat × Nat × Nat))
  | openReq (ver : Nat)
  | openAck (ver : Nat)
  | closeReq
  | stepDone (m : StepRound)
  | repeatStep (m : StepName)
  | giveUp (m : StepName)
  | fetch (k : ExpertKey)
  | ship (k : ExpertKey)
  | answerEnd (k : ExpertKey)
  | cancel (k : ExpertKey)
  | deny (k : ExpertKey)
  | reply (code psn : Nat)
  deriving DecidableEq, Repr

/-- A ready tile task of a core as the scheduler classes it (R431): the engine cycles that its throughput model gives, and the
counts of Table 16.1's items (R421). -/
structure ReadyTask where
  course : Nat
  station : Nat
  tile : Nat
  cycles : Nat := 0
  counts : List Nat := []
  deriving DecidableEq, Repr

/-- A tile task as the placer hands it to the core sequencer (R82, R452): its course, station and tile, the reaches of
a split part, its engine and journal slot, the event line of its DMA transfer, the system channel (die and number) of one with
host memory (R289), and the output tiles of its band (R206); the counts of Table 16.1's
items in the order of the table (R421); and what the reads of CM and DM that it needs meet (R314): words corrected,
words delivered poisoned, a stream whose context is among these, the journal word; `now` is the core's cycle count; `cycles` are its
engine cycles, and `ready` the core's other ready tasks, among which the scheduler picks (R431). -/
structure TaskOrder where
  course : Nat
  station : Nat
  tile : Nat
  reachFirst : Nat := 0
  reachCount : Nat := 0
  engine : Nat
  core : Nat
  index : Nat
  slot : Nat
  line : Option Nat := none
  sys : Option (Nat × Nat) := none
  band : List Nat := []
  counts : List Nat := []
  cycles : Nat := 0
  ready : List ReadyTask := []
  ce : Nat := 0
  ue : Nat := 0
  context : Option Nat := none
  journal : Bool := false
  now : Nat := 0
  deriving DecidableEq, Repr

/-- A frame's SecTAG (R339): its secure channel and association, its packet number, and whether its integrity check holds. -/
structure SecTag where
  sc : Nat
  an : Nat
  pn : Nat
  intact : Bool := true
  deriving DecidableEq, Repr

/-- A frame that a port drops: its sub-port and its SecTAG where it has one (R339), and the FEC codewords that the port has
corrected and could not correct since the last such event (Table 13.11). -/
structure FrameDrop where
  sub : Nat := 0
  tag : Option SecTag := none
  corrected : Nat := 0
  uncorrected : Nat := 0
  deriving DecidableEq, Repr

/-- What a read of CM or DM meets (R314): words corrected, words that cannot be, and the time in core cycles. -/
structure SramErr where
  ce : Nat := 0
  ue : Nat := 0
  now : Nat := 0
  deriving DecidableEq, Repr

/-- What the other package of a redundant pair sends for a commit (R462 to R464): its digests by tensor and unit, those
formed again after the replays, and whether it has hardware evidence. -/
structure PairDigests where
  first : List (Nat × Nat × Nat) := []
  again : List (Nat × Nat × Nat) := []
  evidence : Bool := false
  deriving DecidableEq, Repr

/-- The commands of the block: one constructor per row of the table of operations and events. -/
inductive Instr where
  /-- COURSE_SUBMIT (R406): A fetched COURSE_SUBMIT is checked, its structures are copied, contexts are allocated and an interim completion record is written, or the course is refused with one record. -/
  | courseSubmit (o : SubmitOrder)
  /-- TENSOR_DEFINE (R33): A fetched TENSOR_DEFINE checks the tensor description, or defines a view, reserves the stack home and fills it, or completes with NOSPACE or a refusal. -/
  | tensorDefine (ring : Nat) (stackIds : List Nat) (base : Nat)
  /-- TENSOR_RELEASE (R79): A fetched TENSOR_RELEASE releases a tensor, is deferred while a course names it, or completes DESC_INVALID for an undefined id. -/
  | tensorRelease (ring : Nat)
  /-- TENSOR_RELEASE_DEFERRED (R79): A deferred release takes effect once the last course naming the tensor has completed, and its completion record is written. -/
  | tensorReleaseDeferred (id : Nat)
  /-- STEP_COMMIT (R447): A STEP_COMMIT flips maps and flags, increments generation numbers and writes the commit word, or is held or refused under the step machine. -/
  | stepCommit (ring : Nat) (against : Option Order) (peer : PairDigests)
  /-- STEP_ABORT (R451): A STEP_ABORT stops the step's running courses, clears written maps and discards the generation written, returning the step machine to IDLE. -/
  | stepAbort (ring : Nat) (against : Option Order)
  /-- FENCE_DESC (R404): A FENCE descriptor holds its ring's fetch until every earlier descriptor of its scope has completed, then completes. -/
  | fenceDesc (ring : Nat)
  /-- MESH (R341): A CONFIG_APPLY MESH item installs the job's mesh, closing and reopening Dunnath sessions, or is refused. -/
  | mesh (ring : Nat)
  /-- MACSEC_SA (R339): A CONFIG_APPLY MACSEC_SA item installs or removes a MACsec secure association key on a port. -/
  | macsecSa (ring : Nat)
  /-- ROCE_QP (R348): A CONFIG_APPLY ROCE_QP item binds or unbinds a RoCEv2 queue pair to a landing tensor. -/
  | roceQp (ring : Nat)
  /-- CANCEL_BATCH (R386): A CANCEL_BATCH item advances a course's epoch, stops its stations, sends CANCEL to peers and completes the course with STALE_EPOCH. -/
  | cancelBatch (ring : Nat) (against : Option Order)
  /-- POLDER_CREATE (R474): A POLDER_CREATE item draws a key pair, increments the create count, loads key slots and sets the polder's measurement and POLDER_FUNCS. -/
  | polderCreate (ring : Nat)
  /-- POLDER_DESTROY (R476): A POLDER_DESTROY item zeroises the key slots, releases allotted cores and erases the polder, or is refused with CFG_BUSY. -/
  | polderDestroy (ring : Nat)
  /-- POWER_HINT (R437): A POWER_HINT records a ring's wake-latency tolerance for the next choice of power state. -/
  | powerHint (ring : Nat)
  /-- QUERY_IDENTITY (R410): A QUERY of kind IDENTITY writes the identity structure into the host buffer. -/
  | queryIdentity (ring : Nat)
  /-- QUERY_CAPACITY (R410): A QUERY of kind CAPACITY writes free stack bytes, reserved bytes, free contexts and running courses into the host buffer. -/
  | queryCapacity (ring : Nat)
  /-- QUERY_ERROR_LOG (R457): A QUERY of kind ERROR_LOG writes the log header and the held entries, oldest first, into the host buffer. -/
  | queryErrorLog (ring : Nat)
  /-- PLACEMENT_REPORT (R86): A PLACEMENT_REPORT descriptor requests a snapshot of a course's placement for a host buffer. -/
  | placementReport (ring : Nat)
  /-- PLACEMENT_SNAPSHOT (R86): At the course's next tile boundary the device writes the placement report with its station, tensor and warning entries. -/
  | placementSnapshot (course station : Nat)
  /-- SQ_TAIL (R396): A write of a submission ring's doorbell opens its sluice so that descriptors up to the tail are fetched, or is ignored as a doorbell fault. -/
  | sqTail (func page value : Nat)
  /-- CQ_HEAD (R396): A write of a completion ring's doorbell releases consumed records, or is ignored as a doorbell fault. -/
  | cqHead (func page value : Nat)
  /-- DESC_FETCH (R399): The host interface engines fetch the next descriptor of a ring in fetch order. -/
  | descFetch (bytes : List Byte) (blocks : List (List Byte))
  /-- DESC_FETCH_BUS_ERROR (R401): A host read of a descriptor or its structure meets a bus error, completing the descriptor BUS_ERROR and halting the ring's fetch. -/
  | descFetchBusError (cause : Nat) (bytes : Option (List Byte))
  /-- COMPLETION_RECORD_RESUME (R402): A held completion record is written once its full completion ring has room, and held fetches resume. -/
  | completionRecordResume (cq : Nat)
  /-- COURSE_RELEASE_HELD (R60): A held course starts once enough stream contexts are free or the conflicting course has completed, in fetch order. -/
  | courseReleaseHeld (course : Nat)
  /-- COURSE_COMPLETE (R406): Once every stream is drained or a halt has stopped the course, gauge and route records are written and the course's completion record is written. -/
  | courseComplete (course : Nat)
  /-- COMMIT (R413): A write to COMMIT snapshots and checks the named groups' shadows, refusing all or scheduling their application. -/
  | commit (func mask : Nat) (against : Option Order)
  /-- COMMIT_GROUP_APPLY (R413): At its boundary a committed group's shadow copy is copied into its active copy, with busy idle-only fields kept. -/
  | commitGroupApply (func group : Nat)
  /-- FEATURES_OK (R411): A write of 1 to FEATURES_OK starts the evaluation of the driver's accepted feature set. -/
  | featuresOk
  /-- FEATURES_EVALUATE (R411): Within 1,000 control cycles the device confirms the feature set or refuses it, naming the lowest offending bit. -/
  | featuresEvaluate
  /-- DMA_HALTED_CLEAR (R312): Writing 1 to HALTED of a DMA channel clears its error latches and returns it to service. -/
  | dmaHaltedClear (sys : Bool) (unit ch : Nat) (relatched : Option (Nat × Bool × Nat))
  /-- SQ_HALTED_CLEAR (R401): Writing 1 to HALTED of SQ_STAT resumes fetch of the ring at HEAD. -/
  | sqHaltedClear (ring : Nat)
  /-- ISOLATED_CLEAR (R366): Writing 1 to ISOLATED returns an isolated port to service. -/
  | isolatedClear (port : Nat)
  /-- ILUNY_CAP_RELEASE (R434): Writing 1 to ILUNY_CAP releases Iluny's power-level cap at the next window. -/
  | ilunyCapRelease
  /-- REG_WRITE (R395): A host register write without behaviour of its own changes writable fields by their access codes, stages 64-bit halves, or is a host access fault. -/
  | regWrite (func off size value : Nat)
  /-- DEBUG_WINDOW_ACCESS (R397): An access to the debug window reads the mapped tables when open, or returns 0 and is logged when closed. -/
  | debugWindowAccess (write : Bool) (off : Nat)
  /-- RESUME_RESTORE (R471): Applied RESUME = RESTORE reinstates the image's polders, restores LAST_COMMIT, holds tensor states pending and marks the image CONSUMED. -/
  | resumeRestore
  /-- RESUME_DISCARD (R471): Applied RESUME = DISCARD marks the resume image CONSUMED and restores nothing. -/
  | resumeDiscard
  /-- MIRROR_MODE_ENTER (R460): Applied FAULT_CTL.MIRROR on a CN4-P64 puts the pair into mirror mode. -/
  | mirrorModeEnter
  /-- PAIR_DESC_FORWARD (R391): In mirror mode a descriptor fetched on package A arrives on package B over the pair link and runs there. -/
  | pairDescForward (func ring : Nat) (bytes : List Byte) (blocks : List (List Byte))
  /-- PAIR_COMMIT_FORWARD (R515): In mirror mode a commit of a forwarded group that package A applied arrives at package B and is applied at B's boundary. -/
  | pairCommitForward (group : Nat) (values : List (Nat × Long))
  /-- TQ_NOP (R41): A NOP command word to a tile queue's command port has no effect. -/
  | tqNop (core q word : Nat)
  /-- TQ_DROP_REMAINDER (R42): DROP_REMAINDER discards the rest of the tile under read, including a pending second segment. -/
  | tqDropRemainder (core q word : Nat) (same : Bool)
  /-- TQ_RESERVED_COMMAND (R41): A reserved tile-queue command is ignored and a reserved-command fault is logged. -/
  | tqReservedCommand (core q word : Nat)
  /-- TQ_HEADER_WRITE (R36): A producer writes a segment header and payload into the next empty bank of a tile queue, or stalls until it empties. -/
  | tqHeaderWrite (core q : Nat) (header : Option (Nat × Nat)) (words : List Nat)
  /-- TQ_HEADER_READ (R37): A consumer reads the header and payload of the next full bank, checking parity, or stalls until it fills. -/
  | tqHeaderRead (core q n : Nat) (damage : List (Nat × Nat)) (producer consumer : Option Nat)
  /-- TASK_ISSUE (R21): The core sequencer writes a journal entry and issues a ready tile task to an engine, subject to issue gating and journal room. -/
  | taskIssue (o : TaskOrder)
  /-- TASK_RETIRE (R112): A tile task retires, merging its flags into its engine and course and marking its journal entry DONE. -/
  | taskRetire (j : Nat)
  /-- JOURNAL_ENTRY_RETIRE (R453): A DONE journal entry retires once every tile it produced has reached a home or a retired consumer. -/
  | journalEntryRetire (j : Nat)
  /-- TASK_REPLAY (R454): An abandoned task and its needed producers are rerun from the journal on engines the placer chooses, or halt with POISON after the third replay. -/
  | taskReplay (j engine core index : Nat)
  /-- ENGINE_HANG (R44): An engine holding an issued task completes no handshake for 2^25 core cycles and its tasks are replayed. -/
  | engineHang (engine core index now : Nat)
  /-- SLAB_START (R146): An ME starts a slab once its operand pair and zero marks are in place, issuing its slots. -/
  | slabStart (core me j opened : Nat) (fault : Option (Nat × Nat × Nat))
  /-- REACH_FOLD (R149): At a reach end or after the last window a bank folds its accumulator into the long-sum array over 16 core cycles. -/
  | reachFold (core me : Nat) (b : Bool) (fault : Option Nat) (now : Nat)
  /-- BANK_DRAIN (R151): A finished bank is drained through the store path, converting, scaling and emitting the output tile. -/
  | bankDrain (core me : Nat) (b : Bool) (fault : Option Nat) (now : Nat)
  /-- STATION_MOVE (R82): The placer revises a station's core, engines or buffers at a tile boundary. -/
  | stationMove (course station core me ve mu ports : Nat) (split : Bool) (bufs : List (Nat × Nat × Nat × Nat))
  /-- STATION_THERMAL_MOVE (R432): A core HOT or hotter for 100 windows has its highest-energy station moved to the coolest suitable core. -/
  | stationThermalMove (core target : Nat)
  /-- LOAD_TASK (R293): A LOAD task emits tiles of its range from a tensor, a host image or a fill value. -/
  | loadTask (j : Nat) (image : List Byte)
  /-- STORE_TASK (R296): A STORE task writes tiles to a tensor, a host image or compares them, with compression and berm. -/
  | storeTask (j : Nat)
  /-- GATHER_TASK (R308): A GATHER task emits copies of the source tiles named in its coordinate list in list order. -/
  | gatherTask (j : Nat)
  /-- SCATTER_ACC_TASK (R309): A SCATTER_ACC task folds or overwrites held destination tiles in ascending list position. -/
  | scatterAccTask (j : Nat)
  /-- MATMUL_TASK (R160): A MATMUL task computes one output tile or a range of reaches of it in the reference order. -/
  | matmulTask (j : Nat)
  /-- SPMM_TASK (R194): An SPMM task computes an output tile of the sparse forward product. -/
  | spmmTask (j : Nat) (band : List Nat) (mu : Option Nat)
  /-- SPMM_T_TASK (R200): An SPMM_T task computes an output tile of the transposed sparse product through the merge unit's re-sort. -/
  | spmmTTask (j : Nat) (band : List Nat) (mu : Option Nat)
  /-- SDDMM_TASK (R202): An SDDMM task computes values at mask and candidate positions of one block. -/
  | sddmmTask (j : Nat)
  /-- SPSP_TASK (R205): An SPSP task multiplies two sparse operands by merging the occupancy with the records. -/
  | spspTask (j : Nat) (band : List Nat) (mu : Option Nat)
  /-- VEC_TASK (R269): A VEC task sweeps its tiles through the VE program for the given passes. -/
  | vecTask (j : Nat)
  /-- ATTEND_TASK (R281): An ATTEND task computes softmax attention for its query rows over the key tiles. -/
  | attendTask (j : Nat)
  /-- REDUCE_TASK (R138): A REDUCE task reduces its inputs across ports or along a dimension by its kind. -/
  | reduceTask (j : Nat)
  /-- EXCHANGE_INSTANCE (R352): An exchange instance starts on its channel after the previous one has left and combines chunks in the fixed order. -/
  | exchangeInstance (course station port die : Nat)
  /-- EXCHANGE_ACCUMULATE (R363): In an accumulation step an EXCHANGE with EVERY_N above 1 folds its partials into the accumulator and sends nothing. -/
  | exchangeAccumulate (course station port die : Nat)
  /-- ROUTE_DISPATCH (R372): A DISPATCH forms gate scores, selects experts under capacity and copies token rows into the dispatch layout. -/
  | routeDispatch (j : Nat)
  /-- ROUTE_COMBINE (R376): A COMBINE forms each token's weighted sum of its experts' outputs. -/
  | routeCombine (j : Nat)
  /-- ROUTE_REDISPATCH (R377): A REDISPATCH writes token rows, optionally weighted, into the dispatch layout. -/
  | routeRedispatch (j : Nat)
  /-- UPDATE_TASK (R241): An UPDATE task runs the optimizer sequence over its positions and writes master values, moments and the compute copy. -/
  | updateTask (j : Nat)
  /-- CLIP_TASK (R249): An UPDATE with OPT CLIP turns per-sample squared norms into clip factors. -/
  | clipTask (j : Nat)
  /-- HIST_TASK (R221): A HIST task bins eligible keys into one 4,096-bin histogram per scope unit. -/
  | histTask (j : Nat)
  /-- PRUNE_TASK (R230): A PRUNE task recounts keys, selects exactly k positions per unit and removes them from the mask. -/
  | pruneTask (j : Nat)
  /-- REGROW_TASK (R231): A REGROW task selects exactly k absent positions per unit and adds them with their initial values. -/
  | regrowTask (j : Nat)
  /-- RNG_TASK (R248): An RNG task fills its output tile with counter-based random values. -/
  | rngTask (j : Nat)
  /-- GAUGE_TASK (R251): A GAUGE task passes tiles through and records gauge statistics. -/
  | gaugeTask (j : Nat)
  /-- FENCE_STATION (R59): A FENCE station consumes its inputs and closes once every input stream is drained. -/
  | fenceStation (course station : Nat)
  /-- PROBE_RUN (R262): In a probe step the converting tasks run first in probe form, the amax is agreed and the tasks run again with S_p. -/
  | probeRun (course tensor : Nat)
  /-- VE_NOP (R272): The VE NOP instruction does nothing for one issue cycle. -/
  | veNop (core ve ctx : Nat) (ins : VeIns)
  /-- ADD (R272): The VE ADD instruction adds two operands with one rounding. -/
  | veAdd (core ve ctx : Nat) (ins : VeIns)
  /-- SUB (R272): The VE SUB instruction subtracts two operands with one rounding. -/
  | veSub (core ve ctx : Nat) (ins : VeIns)
  /-- MUL (R272): The VE MUL instruction multiplies two operands with one rounding. -/
  | veMul (core ve ctx : Nat) (ins : VeIns)
  /-- FMA (R272): The VE FMA instruction forms A × B + C with one rounding. -/
  | veFma (core ve ctx : Nat) (ins : VeIns)
  /-- MIN (R273): The VE MIN instruction takes the lesser operand with −0 below +0. -/
  | veMin (core ve ctx : Nat) (ins : VeIns)
  /-- MAX (R273): The VE MAX instruction takes the greater operand with −0 below +0. -/
  | veMax (core ve ctx : Nat) (ins : VeIns)
  /-- CMP (R273): The VE CMP instruction writes a mask register from a comparison condition. -/
  | veCmp (core ve ctx : Nat) (ins : VeIns)
  /-- SEL (R273): The VE SEL instruction selects A or B per element by a mask. -/
  | veSel (core ve ctx : Nat) (ins : VeIns)
  /-- MOVS (R274): The VE MOVS instruction moves A with a sign operation. -/
  | veMovs (core ve ctx : Nat) (ins : VeIns)
  /-- SPLIT (R274): The VE SPLIT instruction splits a value into mantissa and exponent. -/
  | veSplit (core ve ctx : Nat) (ins : VeIns)
  /-- JOIN (R274): The VE JOIN instruction forms A × 2^B with one rounding. -/
  | veJoin (core ve ctx : Nat) (ins : VeIns)
  /-- PERM (R275): The VE PERM instruction permutes lanes, delivering the fill and setting RANGE for indices at or beyond VL. -/
  | vePerm (core ve ctx : Nat) (ins : VeIns)
  /-- RED (R276): The VE RED instruction reduces lanes or rows, or folds into or reads a reduction slot. -/
  | veRed (core ve ctx : Nat) (ins : VeIns)
  /-- LDQ (R271): The VE LDQ instruction loads a step's elements from an input tile queue. -/
  | veLdq (core ve ctx : Nat) (ins : VeIns)
  /-- STQ (R271): The VE STQ instruction converts and stores a step's elements to an output tile queue. -/
  | veStq (core ve ctx : Nat) (ins : VeIns)
  /-- VE_RNG (R277): The VE RNG instruction writes dropout random values in (0, 1). -/
  | veRng (core ve ctx : Nat) (ins : VeIns)
  /-- RCP (R279): FUNC RCP runs the reciprocal sequence. -/
  | veRcp (core ve ctx : Nat) (ins : VeIns)
  /-- RSQ (R279): FUNC RSQ runs the reciprocal square root sequence. -/
  | veRsq (core ve ctx : Nat) (ins : VeIns)
  /-- EXP (R279): FUNC EXP runs the exponential sequence. -/
  | veExp (core ve ctx : Nat) (ins : VeIns)
  /-- LOG (R279): FUNC LOG runs the logarithm sequence. -/
  | veLog (core ve ctx : Nat) (ins : VeIns)
  /-- TANH (R279): FUNC TANH runs the hyperbolic tangent sequence. -/
  | veTanh (core ve ctx : Nat) (ins : VeIns)
  /-- SIGMOID (R279): FUNC SIGMOID runs the sigmoid sequence. -/
  | veSigmoid (core ve ctx : Nat) (ins : VeIns)
  /-- SILU (R279): FUNC SILU runs x·σ(x). -/
  | veSilu (core ve ctx : Nat) (ins : VeIns)
  /-- SILU_D (R279): FUNC SILU_D runs the derivative of SILU. -/
  | veSiluD (core ve ctx : Nat) (ins : VeIns)
  /-- GELU_SIG (R279): FUNC GELU_SIG runs x·σ(1.702x). -/
  | veGeluSig (core ve ctx : Nat) (ins : VeIns)
  /-- GELU_SIG_D (R279): FUNC GELU_SIG_D runs the derivative of GELU_SIG. -/
  | veGeluSigD (core ve ctx : Nat) (ins : VeIns)
  /-- GELU_TANH (R279): FUNC GELU_TANH runs the tanh form of GELU. -/
  | veGeluTanh (core ve ctx : Nat) (ins : VeIns)
  /-- GELU_TANH_D (R279): FUNC GELU_TANH_D runs the derivative of GELU_TANH. -/
  | veGeluTanhD (core ve ctx : Nat) (ins : VeIns)
  /-- DMA_TRANSFER_DONE (R310): A DMA transfer's last byte is accepted at its destination and the waiting station's event line is pulsed. -/
  | dmaTransferDone (j now : Nat)
  /-- DMA_BUS_ERROR (R312): A channel meets a bus error, stops, latches address and cause, halts and halts its station's stream with BUS_ERROR. -/
  | dmaBusError (j : Nat) (sys : Bool) (unit ch addr : Nat) (write : Bool) (cause : Nat)
  /-- SPILL (R315): The spillway displaces a working copy, discarding it or writing it to its home, with the poison mark if poisoned. -/
  | spill (course stream tile : Nat) (err : SramErr)
  /-- STACK_READ_RETURN (R324): A stack line read returns and is decoded through the poison directory, mark, correction or uncorrectable path. -/
  | stackReadReturn (stack line : Nat) (damage : List (Nat × Byte)) (j : Option Nat)
  /-- STACK_WRITE (R319): A stack controller accepts a write into its write queue and acknowledges it. -/
  | stackWrite (stack line : Nat) (data : List Byte) (poisoned : Bool)
  /-- HEAL_WRITE (R328): A queued heal write of a corrected line issues, or is dropped if a newer write to the line is queued. -/
  | healWrite (stack : Nat)
  /-- SCRUB_READ (R327): The patrol scrub reads the next line at its pace and rewrites or marks it as decoded. -/
  | scrubRead (stack : Nat) (damage : List (Nat × Byte)) (odecc : Nat)
  /-- STACK_TRAINING_DONE (R318): A controller finishes training its stack at bin A, B or C, or retires the stack. -/
  | stackTrainingDone (stack bin : Nat)
  /-- STACK_ZEROING_DONE (R320): A controller finishes writing every line of its stack with zero data and valid check bytes. -/
  | stackZeroingDone (stack : Nat)
  /-- STACK_TEMP_READ (R321): A stack's temperature and refresh-rate indication are read and passed to the levee every 32 µs. -/
  | stackTempRead (stack temp mult : Nat)
  /-- STACK_TEMP_MISSING (R321): After four missing stack readings the levee treats the stack as at its throttle limit and logs it. -/
  | stackTempMissing (stack : Nat)
  /-- LEVEE_WINDOW (R430): At each 10 µs window boundary the levee calibrates, classes cores thermally, sets clock steps and divides the allowance. -/
  | leveeWindow (measured : Option (Nat × Nat)) (temps : List (Nat × Nat)) (spans : List (Nat × List Nat))
  /-- SENSOR_MISSING (R45): A thermal sensor silent for ten windows is treated as reading its throttle limit and is logged. -/
  | sensorMissing (sensor : Nat)
  /-- TELEMETRY_MISSING (R45): Missing rail telemetry for a window makes the levee budget it from estimates raised by one quarter and log it. -/
  | telemetryMissing
  /-- VOLTAGE_ACK (R428): A regulator's voltage acknowledgement reaches the levee and a waiting frequency raise takes effect. -/
  | voltageAck (die mv : Nat)
  /-- RAIL_FAULT (R429): A voltage request unacknowledged within 50 µs is a rail fault, logged and handled by direction. -/
  | railFault (die : Nat)
  /-- ILUNY_POWER_READ (R434): Iluny reads the module input power each millisecond and caps the level after two readings over the guard. -/
  | ilunyPowerRead (r : IlunyReading)
  /-- THERMAL_TRIP (R435): A die sensor at 120 °C or a stack at 105 °C trips the device, saving the freeboard and powering down. -/
  | thermalTrip (stack : Bool) (unit temp : Nat)
  /-- CORE_IDLE_G_ENTER (R436): A core idle for 256 core cycles enters IDLE-G. -/
  | coreIdleGEnter (core : Nat)
  /-- CORE_IDLE_G_EXIT (R436): A core leaves IDLE-G 24 core cycles after a task becomes ready. -/
  | coreIdleGExit (core : Nat)
  /-- IDLE_HOLD_EXPIRE (R437): After IDLE_HOLD_US of device idleness the control cluster chooses the deepest allowed power state. -/
  | idleHoldExpire
  /-- POWER_STATE_ENTER (R438): Processor 0 writes TARGET and executes WAIT, and the always-on island runs the entry sequence. -/
  | powerStateEnter (target : Nat) (pending : Bool) (cut : Option Nat)
  /-- WAKE_TLP (R441): A PCIe TLP to any function wakes the device from a power state. -/
  | wakeTlp (same : Bool)
  /-- WAKE_PIN (R441): WAKE# asserted by the board wakes the device. -/
  | wakePin (same : Bool)
  /-- WAKE_MAC_FRAME (R441): An Ethernet frame to the device's own MAC wakes the device and is consumed. -/
  | wakeMacFrame (port : Nat) (same : Bool)
  /-- WAKE_FRAME (R441): A wake frame with EtherType 0x88B5 and the wake pattern wakes the device and is consumed. -/
  | wakeFrame (port : Nat) (broadcast : Bool) (payload : List Byte) (same : Bool)
  /-- POWER_STATE_EXIT_DONE (R440): The exit from a power state completes and the first descriptor fetch can issue. -/
  | powerStateExitDone
  /-- POWER_EXIT_TIMEOUT (R440): An exit not complete within twice its latency raises a device fault. -/
  | powerExitTimeout
  /-- HEARTBEAT_WRITE (R29): The active control cluster writes its heartbeat to Iluny. -/
  | heartbeatWrite
  /-- HEARTBEAT_MISSED (R29): No heartbeat for 1 ms makes Iluny reset the die-0 cluster, release the mirror and log a takeover. -/
  | heartbeatMissed
  /-- TAKEOVER_COMPLETE (R29): The mirror cluster has rebuilt placer and scheduler state, replayed in-flight tasks and resumed. -/
  | takeoverComplete
  /-- DATA (R345): A received Dunnath DATA packet is ordered, acknowledged and delivered to its exchange or expert consumer. -/
  | dnData (port peer : Nat) (hdr : DnHdr) (msg : NetMsg) (quiet : Bool)
  /-- ACK (R345): A received ACK retires acknowledged packets from the retransmission set. -/
  | dnAck (port peer : Nat) (hdr : DnHdr) (quiet : Bool)
  /-- NAK (R345): A received NAK makes the sender retransmit the named packet at once on another port. -/
  | dnNak (port peer : Nat) (hdr : DnHdr) (psn : Nat) (quiet : Bool)
  /-- CREDIT (R346): A received CREDIT packet grants further send credit. -/
  | dnCredit (port peer : Nat) (hdr : DnHdr) (instance_ : Option (Nat × Nat × Nat)) (quiet : Bool)
  /-- OPEN (R344): A received OPEN opens a session at the lower of the offered versions and is answered with OPEN_ACK. -/
  | dnOpen (port peer : Nat) (hdr : DnHdr) (version : Nat) (quiet : Bool)
  /-- OPEN_ACK (R344): A received OPEN_ACK completes a session open with its chosen version and initial credit. -/
  | dnOpenAck (port peer : Nat) (hdr : DnHdr) (version : Nat) (quiet : Bool)
  /-- CLOSE (R344): A received CLOSE closes the session. -/
  | dnClose (port peer : Nat) (hdr : DnHdr) (quiet : Bool)
  /-- STEP_DONE (R360): A received STEP_DONE contributes veto, weir and probe values to the step round. -/
  | netStepDone (port peer : Nat) (hdr : DnHdr) (msg : StepRound) (quiet : Bool)
  /-- REPEAT (R361): A received REPEAT abandons the step's in-flight work and reruns the step course at the next ATTEMPT, or is answered with GIVE_UP. -/
  | netRepeat (port peer : Nat) (hdr : DnHdr) (msg : StepName) (quiet : Bool) (against : Option Order)
  /-- GIVE_UP (R362): A received GIVE_UP completes the step course with TIMEOUT without waiting for the timer. -/
  | netGiveUp (port peer : Nat) (hdr : DnHdr) (msg : StepName) (quiet : Bool)
  /-- FETCH (R384): An owner receiving FETCH sends the expert's blocks in the generation read. -/
  | exFetch (port peer : Nat) (hdr : DnHdr) (key : ExpertKey) (quiet : Bool)
  /-- SHIP (R384): An owner receiving SHIP computes the output rows of the shipped expert rows and sends them back. -/
  | exShip (port peer : Nat) (hdr : DnHdr) (key : ExpertKey) (quiet : Bool)
  /-- ANSWER_END (R384): A received ANSWER_END completes a fetched or shipped expert answer, or is dropped as stale. -/
  | exAnswerEnd (port peer : Nat) (hdr : DnHdr) (key : ExpertKey) (quiet : Bool)
  /-- CANCEL (R387): An owner receiving CANCEL abandons tasks it serves for the course under older epochs. -/
  | exCancel (port peer : Nat) (hdr : DnHdr) (key : ExpertKey) (quiet : Bool)
  /-- DENY (R381): A received DENY makes the placer use the other expert scheme or halt the stream with POLICY_DENIED. -/
  | exDeny (port peer : Nat) (hdr : DnHdr) (key : ExpertKey) (quiet : Bool)
  /-- REPLY (R364): A received REPLY is logged and never answered. -/
  | dnReply (port peer : Nat) (hdr : DnHdr) (code psn : Nat) (quiet : Bool)
  /-- DUNNATH_VIOLATION (R364): A Dunnath packet breaking a check is dropped, counted and logged, and answered with a rate-limited REPLY. -/
  | dunnathViolation (port peer : Nat) (hdr : DnHdr) (msg : NetMsg) (raw : List Byte) (quiet : Bool)
  /-- VIOL_WINDOW (R366): Each 1 ms violation window ends and the per-port violation count restarts. -/
  | violWindow
  /-- RETRANSMIT_TIMEOUT (R345): An unacknowledged packet is retransmitted 64 µs after its last transmission, closing the session after 7 retries. -/
  | retransmitTimeout (peer psn : Nat)
  /-- ACK_TIMER (R345): The receiver sends a cumulative ACK after 2 µs or 16 packets. -/
  | ackTimer (peer : Nat)
  /-- NAK_TIMER (R345): A sequence gap persisting 8 µs makes the receiver send a NAK. -/
  | nakTimer (peer : Nat)
  /-- STEP_TIMEOUT (R361): An awaited contribution not arriving within STEP_TIMEOUT_US repeats the step, gives up, or completes a plain course with TIMEOUT. -/
  | stepTimeout (course : Nat)
  /-- RDMA_WRITE (R348): A RoCEv2 RDMA WRITE places its bytes at the named offset of the bound landing tensor. -/
  | roceWrite (port peer qp psn part key offset : Nat) (bytes : List Byte) (ecn : Bool)
  /-- SEND (R348): A RoCEv2 SEND places its bytes sequentially into the bound landing tensor. -/
  | roceSend (port peer qp psn part : Nat) (bytes : List Byte) (ecn : Bool)
  /-- ETH_FRAME_DROPPED (R338): A received frame of an unsupported kind, or failing MACsec checks, is dropped. -/
  | ethFrameDropped (port : Nat) (drop : FrameDrop)
  /-- PORT_LINK_UP (R337): A port's sub-port link comes up after training. -/
  | portLinkUp (port sub : Nat)
  /-- PORT_LINK_DOWN (R345): A port's link goes down and its unacknowledged packets are retransmitted on other ports. -/
  | portLinkDown (port sub : Nat)
  /-- ETH_REFCLK_LOSS (R524): A missing or out-of-tolerance ETH_REFCLK takes the die's port links down. -/
  | ethRefclkLoss (die : Nat) (back : Bool)
  /-- PAIR_LINK_LOSS (R464): Loss of the pair link fences package B. -/
  | pairLinkLoss
  /-- MGMT_LINK_LOSS (R30): Loss of the management link between the Iluny instances is logged and package B is treated as faulted. -/
  | mgmtLinkLoss
  /-- IDE_STREAM_FAILURE (R489): An IDE stream failing integrity or torn down drops the failing TLPs and refuses later polder host transfers. -/
  | ideStreamFailure (stream : Nat)
  /-- SAG_DETECT (R465): The 54 V input below 45.0 V for 1 µs stops issue and starts the freeboard save. -/
  | sagDetect
  /-- FREEBOARD_SAVE_DONE (R466): The save engine writes the last freeboard section and the header with CRC and VALID. -/
  | freeboardSaveDone (whole : Bool)
  /-- NOR_COPY (R468): After 2 s on auxiliary power Iluny copies the freeboard into the older NOR slot. -/
  | norCopy (whole : Bool)
  /-- AUX_SUPPLY_LOSS (R528): The auxiliary supply below 3.0 V for 10 µs stops issue and releases every rail without a save. -/
  | auxSupplyLoss
  /-- REF25M_LOSS (R524): Loss of REF25M while running is detected within 20 µs and treated as a thermal trip. -/
  | ref25mLoss
  /-- INPUT_OVERVOLTAGE (R535): A 54 V input above 56.0 V is logged and the level is capped to index 0 until it returns. -/
  | inputOvervoltage (above : Bool)
  /-- ILUNY_READY (R529): Iluny leaves power-on reset, verifies images, reads the retirement map and runs the resume search. -/
  | ilunyReady
  /-- MAIN_ENABLE (R529): Once the input has held 48 V for 100 ms the main input is enabled and rails are sequenced. -/
  | mainEnable
  /-- MCTP_RESTART (R469): A restart over MCTP brings a tripped or stopped module up again. -/
  | mctpRestart (railFails : Bool)
  /-- PERST_ASSERT (R531): PERST# asserted for 100 µs resets the package, stopping courses and retraining stacks. -/
  | perstAssert (us : Nat)
  /-- PERST_DEASSERT (R530): Deassertion of PERST# starts PCIe link training within 20 ms. -/
  | perstDeassert (early : Bool) (width : Nat) (pairUp : Bool)
  /-- HOT_RESET (R517): A PCIe hot reset resets the package as PERST# does. -/
  | hotReset
  /-- FLR_PF (R393): An FLR of the PF stops every function's work, releases tensors, closes the mesh and resets feature set and commit groups. -/
  | flrPf
  /-- FLR_VF (R393): An FLR of a VF stops its courses, discards next generations, releases its tensors and disables its rings. -/
  | flrVf (vf : Nat)
  /-- MODULE_MATE_LIVE (R519): A module mated with a supply present is logged at Iluny's next start. -/
  | moduleMateLive (seen main : Bool)
  /-- GET_VERSION (R487): Iluny answers an SPDM GET_VERSION request. -/
  | getVersion (conn : Nat)
  /-- GET_CAPABILITIES (R487): Iluny answers an SPDM GET_CAPABILITIES request. -/
  | getCapabilities (conn : Nat)
  /-- NEGOTIATE_ALGORITHMS (R487): Iluny answers an SPDM NEGOTIATE_ALGORITHMS request. -/
  | negotiateAlgorithms (conn : Nat) (offered : Bool)
  /-- GET_DIGESTS (R487): Iluny answers an SPDM GET_DIGESTS request. -/
  | getDigests (conn : Nat)
  /-- GET_CERTIFICATE (R487): Iluny returns a certificate chain from a slot. -/
  | getCertificate (conn slot : Nat)
  /-- CHALLENGE (R487): Iluny answers an SPDM CHALLENGE. -/
  | spdmChallenge (conn slot : Nat)
  /-- GET_MEASUREMENTS (R488): Iluny returns the requested measurement blocks with SHA-384 digests. -/
  | getMeasurements (conn index : Nat) (signed : Bool)
  /-- KEY_EXCHANGE (R487): Iluny answers an SPDM KEY_EXCHANGE to open a session. -/
  | keyExchange (conn : Nat)
  /-- FINISH (R487): Iluny answers an SPDM FINISH. -/
  | spdmFinish (session : Nat)
  /-- SPDM_HEARTBEAT (R487): Iluny answers an SPDM HEARTBEAT. -/
  | spdmHeartbeat (session : Nat)
  /-- KEY_UPDATE (R487): Iluny answers an SPDM KEY_UPDATE. -/
  | keyUpdate (session : Nat)
  /-- END_SESSION (R487): Iluny ends an SPDM session. -/
  | endSession (session : Nat)
  /-- IDE_KM (R489): A VENDOR_DEFINED_REQUEST for IDE_KM establishes PCIe IDE keys. -/
  | ideKm (session stream : Nat) (ranges : List (Nat × Nat))
  /-- LIFECYCLE_TRANSITION (R491): A signed transition token moves the package from PRODUCTION to RETURNED, or is refused. -/
  | lifecycleTransition (session : Nat) (genuine mine : Bool)
  /-- SPDM_UNSUPPORTED (R487): A request outside the SPDM subset is answered with UnsupportedRequest. -/
  | spdmUnsupported (conn : Nat)
  /-- CONTROL_CLUSTER_FAULT (R27): On a part without a standby cluster, a fault of the control cluster is a device fault of class CONTROL_CLUSTER reported to the host. -/
  | controlClusterFault
  /-- HOST_ENGINE_FAULT (R29): A fault of the host interface engines or the PCIe controller is a device fault of class HOST_ENGINES. -/
  | hostEngineFault
  /-- ROCEV2_MALFORMED_REQUEST (R364): A received RoCEv2 packet outside the supported subset is answered with the NAK RoCEv2 prescribes and counted and logged as a malformed header. -/
  | rocev2MalformedRequest (port peer qp psn : Nat)
  /-- MAIN_INPUT_RETURN (R465): The 54 V input returning after a loss starts, or restarts, the 100 ms qualification at 48.0 V before the main input may be enabled. -/
  | mainInputReturn
  /-- JTAG_INSTRUCTION (R523): A JTAG instruction shifted in on the IEEE 1149.1 port runs as BYPASS, IDCODE, SAMPLE/PRELOAD or EXTEST, and any other acts as BYPASS in PRODUCTION. -/
  | jtagInstruction (ir : JtagIr)
  deriving DecidableEq, Repr

end Sys2Proof
end

