-- ==== Sys2Proof/Decode.lean ====
section
/-! DEFINITION. Commands from words. The table of operations and events gives no row any bits, so no table word
spells a command; the command word of a tile queue spells one of three (R41). -/

namespace Sys2Proof

/-- The command that a word of the table's bits spells: no row has bits, so none. -/
def decodeTableWord (_nbits _w : Nat) : Option Instr := none

/-- The command that a word written to the command port of tile queue q spells: bits 3:0 pick it, and bits 31:4 are ignored
(R41, Table 1.6). `same` says that the word comes in the cycle in which a segment's last word is read (R42). -/
def tqCommandOf (core q word : Nat) (same : Bool) : Instr :=
  if word % 16 = 0 then .tqNop core q word
  else if word % 16 = 1 then .tqDropRemainder core q word same
  else .tqReservedCommand core q word

end Sys2Proof
end

