-- ==== Sys2Proof/Machine/Bits.lean ====
section
/-! DEFINITION. Bit fields of registers, little-endian bytes, and saturating counters (R11: bit 0 is
the least significant bit, a field is written high:low, multi-byte values are little-endian). -/

namespace Sys2Proof.Machine

/-- Bits hi:lo of a natural number. -/
def bitsOf (v hi lo : Nat) : Nat := (v >>> lo) % 2 ^ (hi + 1 - lo)

/-- Bits hi:lo of a register value. -/
def getF (v : Long) (hi lo : Nat) : Nat := bitsOf v.toNat hi lo

/-- The mask with ones in bits hi:lo. -/
def maskF (hi lo : Nat) : Long := BitVec.ofNat 64 ((2 ^ (hi + 1 - lo) - 1) <<< lo)

/-- A register value with bits hi:lo replaced by `x` (taken modulo the field's width). -/
def setF (v : Long) (hi lo x : Nat) : Long :=
  (v &&& ~~~ maskF hi lo) ||| (BitVec.ofNat 64 (x <<< lo) &&& maskF hi lo)

/-- One bit of a register value. -/
def getBit (v : Long) (i : Nat) : Bool := v.getLsbD i

/-- A register value with one bit set or cleared. -/
def setBit (v : Long) (i : Nat) (b : Bool) : Long := setF v i i (if b then 1 else 0)

/-- The largest value of a field. -/
def maxF (hi lo : Nat) : Nat := 2 ^ (hi + 1 - lo) - 1

/-- Add to a counter field that saturates at all ones. -/
def addF (v : Long) (hi lo n : Nat) : Long := setF v hi lo (min (maxF hi lo) (getF v hi lo + n))

/-- Add one to a counter field that saturates at all ones. -/
def incF (v : Long) (hi lo : Nat) : Long := addF v hi lo 1

/-- The little-endian value of a byte list. -/
def leNat : List Byte → Nat
  | [] => 0
  | b :: bs => b.toNat + 256 * leNat bs

/-- The little-endian value of `n` bytes at an offset; bytes beyond the list read 0. -/
def leAt (bs : List Byte) (off n : Nat) : Nat := leNat ((bs.drop off).take n)

/-- Bits hi:lo of the byte list read as one little-endian number. -/
def leBits (bs : List Byte) (hi lo : Nat) : Nat :=
  bitsOf (leAt bs (lo / 8) (hi / 8 - lo / 8 + 1)) (hi - 8 * (lo / 8)) (lo - 8 * (lo / 8))

/-- `n` little-endian bytes of a number. -/
def toLe : Nat → Nat → List Byte
  | 0, _ => []
  | n + 1, v => BitVec.ofNat 8 (v % 256) :: toLe n (v / 256)

/-- Every byte from `off` up to but not including `stop` is 0. -/
def zeroIn (bs : List Byte) (off stop : Nat) : Bool :=
  ((bs.drop off).take (stop - off)).all (fun b => b == 0)

/-- Bytes cut or padded with zeros to a length. -/
def fitBytes (n : Nat) (bs : List Byte) : List Byte := bs.take n ++ List.replicate (n - bs.length) 0

/-- The ceiling of a quotient. -/
def ceilDiv (a b : Nat) : Nat := (a + b - 1) / b

/-- Round up to a multiple of `b`. -/
def roundUp (a b : Nat) : Nat := ceilDiv a b * b

/-- The least `i` below `n` with `p i`. -/
def findBelow (p : Nat → Bool) (n : Nat) : Option Nat := (List.range n).find? p

/-- Insert into a rising list without repeats. -/
def insertNat (x : Nat) : List Nat → List Nat
  | [] => [x]
  | y :: ys => if x < y then x :: y :: ys else if x = y then y :: ys else y :: insertNat x ys

/-- The distinct members of a list in rising order. -/
def sortNat : List Nat → List Nat
  | [] => []
  | x :: xs => insertNat x (sortNat xs)

end Sys2Proof.Machine
end

