-- ==== Sys2Proof/Machine/Registers.lean ====
section
/-! DEFINITION. The set-up registers (chapter 20): every register kind with its width, its fields by
access code, commit group and marking (Table 20.13), its reset value, and where it lies in BAR0 of the
PF and of a VF (Tables 20.1 to 20.15). -/

namespace Sys2Proof.Machine

/-- The registers of the map; an instance is a kind with up to two indexes. -/
inductive RegKind where
  | identity | mapId | devFeatures | drvFeatures | featuresCtl | commit | commitStatus | vfRingMap
  | sqBase | cqBase | sqCtl | cqCtl | sqStat | cqStat
  | sramErr | dieTemp | xeFlags
  | powerCtl | wakeTolerance | keepBanks | wakeCtl | wakePatternLo | wakePatternHi | pwrStat
  | leveeCtl | leveeStat | gaugeRing | gaugePtr | gaugeCtl | gaugeStatus | netCtl | netXstat
  | expertCtl | expertStat | faultCtl | pairStat | errlogStat | stepStat | lastCommit | resumeStat
  | wardenStat | lifecycle | resumeStep | resumeSeed | polderFuncs | polderStat
  | stackStat | stackCtl | memErr | memUeAddr
  | portCtl | portStat | portCnt | portViol
  | coreStat | tqCount | meStat | meFlags | veFlags | ueFlags
  | dmaStat | dmaErrAddr | sysDmaStat | sysDmaErrAddr
  | vfId | confFeatures
  deriving DecidableEq, Repr

/-- A register: its kind, and the indexes of its instance (for a core block the core and the queue,
engine or channel; for a ring the global ring number). -/
structure Reg where
  kind : RegKind
  i : Nat := 0
  j : Nat := 0
  deriving DecidableEq, Repr

/-- Access codes (Table 0.5). -/
inductive Access where
  | rw | ro | wo | rw1c | rws
  deriving DecidableEq, Repr

/-- A field of a register: bits hi:lo, its access code and whether it is marked idle-only. Bits that no
field names are RSV. -/
structure Field where
  hi : Nat
  lo : Nat
  acc : Access
  idle : Bool := false
  deriving DecidableEq, Repr

/-- The fields of each kind, from the register tables of the chapters. -/
def RegKind.fields : RegKind → List Field
  | .identity => [⟨31, 0, .ro, false⟩]
  | .mapId => [⟨31, 16, .ro, false⟩, ⟨15, 0, .ro, false⟩]
  | .devFeatures => [⟨31, 0, .ro, false⟩]
  | .drvFeatures => [⟨31, 0, .rw, false⟩]
  | .featuresCtl => [⟨17, 16, .ro, false⟩, ⟨15, 8, .ro, false⟩, ⟨1, 1, .ro, false⟩, ⟨0, 0, .rw, false⟩]
  | .commit => [⟨31, 0, .wo, false⟩]
  | .commitStatus =>
    [⟨31, 31, .ro, false⟩, ⟨30, 30, .rw1c, false⟩, ⟨23, 16, .ro, false⟩, ⟨7, 0, .ro, false⟩]
  | .vfRingMap => [⟨19, 8, .rws, true⟩, ⟨6, 0, .rws, true⟩]
  | .sqBase => [⟨63, 12, .rws, true⟩]
  | .cqBase => [⟨63, 12, .rws, true⟩]
  | .sqCtl => [⟨31, 31, .rws, false⟩, ⟨30, 30, .rws, true⟩, ⟨27, 16, .rws, true⟩, ⟨4, 0, .rws, true⟩]
  | .cqCtl => [⟨31, 31, .rws, false⟩, ⟨30, 29, .rws, false⟩, ⟨26, 16, .rws, true⟩, ⟨4, 0, .rws, true⟩]
  | .sqStat => [⟨63, 63, .rw1c, false⟩, ⟨31, 16, .ro, false⟩, ⟨15, 0, .ro, false⟩]
  | .cqStat => [⟨32, 32, .ro, false⟩, ⟨31, 16, .ro, false⟩, ⟨15, 0, .ro, false⟩]
  | .sramErr => [⟨31, 16, .ro, false⟩, ⟨15, 0, .ro, false⟩]
  | .dieTemp => [⟨63, 0, .ro, false⟩]
  | .xeFlags | .meFlags | .veFlags | .ueFlags =>
    [⟨4, 4, .rw1c, false⟩, ⟨3, 3, .rw1c, false⟩, ⟨2, 2, .rw1c, false⟩, ⟨1, 1, .rw1c, false⟩,
     ⟨0, 0, .rw1c, false⟩]
  | .powerCtl => [⟨23, 16, .rws, false⟩, ⟨10, 8, .rws, false⟩, ⟨1, 0, .rws, false⟩]
  | .wakeTolerance => [⟨31, 0, .rws, false⟩]
  | .keepBanks => [⟨63, 0, .rws, false⟩]
  | .wakeCtl =>
    [⟨31, 16, .rws, false⟩, ⟨3, 3, .rws, false⟩, ⟨2, 2, .rws, false⟩, ⟨1, 1, .rws, false⟩,
     ⟨0, 0, .rws, false⟩]
  | .wakePatternLo => [⟨63, 0, .rws, false⟩]
  | .wakePatternHi => [⟨63, 0, .rws, false⟩]
  | .pwrStat => [⟨31, 16, .ro, false⟩, ⟨6, 4, .ro, false⟩, ⟨2, 0, .ro, false⟩]
  | .leveeCtl => [⟨31, 24, .rws, false⟩, ⟨23, 16, .rws, false⟩, ⟨15, 8, .rws, false⟩, ⟨7, 0, .rws, false⟩]
  | .leveeStat =>
    [⟨63, 63, .rw1c, false⟩, ⟨62, 61, .ro, false⟩, ⟨55, 48, .ro, false⟩, ⟨47, 40, .ro, false⟩,
     ⟨39, 32, .ro, false⟩, ⟨31, 0, .ro, false⟩]
  | .gaugeRing => [⟨63, 12, .rws, true⟩, ⟨4, 0, .rws, true⟩]
  | .gaugePtr => [⟨51, 32, .rw, false⟩, ⟨19, 0, .ro, false⟩]
  | .gaugeCtl => [⟨31, 31, .rws, false⟩, ⟨30, 16, .rws, false⟩, ⟨15, 0, .rws, false⟩]
  | .gaugeStatus => [⟨16, 16, .rw1c, false⟩, ⟨15, 0, .ro, false⟩]
  | .netCtl => [⟨63, 48, .rws, true⟩, ⟨47, 32, .rws, false⟩, ⟨19, 0, .rws, false⟩]
  | .netXstat => [⟨63, 32, .ro, false⟩, ⟨31, 16, .ro, false⟩, ⟨15, 0, .ro, false⟩]
  | .expertCtl => [⟨11, 8, .rws, false⟩, ⟨7, 0, .rws, false⟩]
  | .expertStat => [⟨63, 32, .ro, false⟩, ⟨31, 0, .ro, false⟩]
  | .faultCtl => [⟨2, 1, .rws, true⟩, ⟨0, 0, .rws, true⟩]
  | .pairStat =>
    [⟨31, 31, .ro, false⟩, ⟨30, 30, .ro, false⟩, ⟨29, 29, .ro, false⟩, ⟨28, 28, .ro, false⟩,
     ⟨15, 0, .ro, false⟩]
  | .errlogStat => [⟨31, 16, .ro, false⟩, ⟨12, 0, .ro, false⟩]
  | .stepStat => [⟨63, 61, .ro, false⟩, ⟨60, 59, .ro, false⟩, ⟨47, 0, .ro, false⟩]
  | .lastCommit => [⟨63, 63, .ro, false⟩, ⟨47, 0, .ro, false⟩]
  | .resumeStat => [⟨31, 31, .ro, false⟩, ⟨30, 29, .ro, false⟩, ⟨28, 28, .ro, false⟩, ⟨15, 0, .ro, false⟩]
  | .wardenStat => [⟨63, 32, .ro, false⟩, ⟨28, 24, .ro, false⟩, ⟨15, 8, .ro, false⟩]
  | .lifecycle => [⟨7, 0, .ro, false⟩]
  | .resumeStep => [⟨63, 63, .ro, false⟩, ⟨47, 0, .ro, false⟩]
  | .resumeSeed => [⟨63, 0, .ro, false⟩]
  | .polderFuncs => [⟨63, 0, .rws, false⟩]
  | .polderStat =>
    [⟨31, 31, .ro, false⟩, ⟨30, 29, .ro, false⟩, ⟨28, 28, .ro, false⟩, ⟨23, 16, .ro, false⟩,
     ⟨15, 0, .ro, false⟩]
  | .stackStat => [⟨31, 31, .ro, false⟩, ⟨30, 29, .ro, false⟩, ⟨23, 16, .ro, false⟩, ⟨15, 14, .ro, false⟩]
  | .stackCtl => [⟨9, 8, .rws, false⟩, ⟨7, 0, .rws, false⟩]
  | .memErr => [⟨63, 48, .ro, false⟩, ⟨47, 32, .ro, false⟩, ⟨31, 16, .ro, false⟩, ⟨15, 0, .ro, false⟩]
  | .memUeAddr => [⟨63, 63, .rw1c, false⟩, ⟨40, 36, .ro, false⟩, ⟨35, 0, .ro, false⟩]
  | .portCtl => [⟨8, 8, .rws, false⟩, ⟨7, 4, .rws, true⟩, ⟨0, 0, .rws, false⟩]
  | .portStat => [⟨31, 31, .rw1c, false⟩, ⟨7, 0, .ro, false⟩]
  | .portCnt => [⟨63, 40, .ro, false⟩, ⟨39, 20, .ro, false⟩, ⟨19, 0, .ro, false⟩]
  | .portViol =>
    [⟨59, 48, .ro, false⟩, ⟨47, 36, .ro, false⟩, ⟨35, 24, .ro, false⟩, ⟨23, 12, .ro, false⟩,
     ⟨11, 0, .ro, false⟩]
  | .coreStat =>
    [⟨31, 31, .ro, false⟩, ⟨28, 24, .ro, false⟩, ⟨21, 20, .ro, false⟩, ⟨12, 8, .ro, false⟩,
     ⟨0, 0, .ro, false⟩]
  | .tqCount =>
    [⟨28, 28, .rw1c, false⟩, ⟨27, 27, .rw1c, false⟩, ⟨26, 16, .ro, false⟩, ⟨14, 4, .ro, false⟩,
     ⟨3, 3, .ro, false⟩, ⟨2, 2, .ro, false⟩, ⟨1, 0, .ro, false⟩]
  | .meStat =>
    [⟨23, 16, .ro, false⟩, ⟨15, 8, .ro, false⟩, ⟨7, 7, .ro, false⟩, ⟨4, 3, .ro, false⟩,
     ⟨2, 1, .ro, false⟩, ⟨0, 0, .ro, false⟩]
  | .dmaStat | .sysDmaStat =>
    [⟨31, 31, .rw1c, false⟩, ⟨30, 30, .ro, false⟩, ⟨27, 24, .ro, false⟩, ⟨15, 0, .ro, false⟩]
  | .dmaErrAddr | .sysDmaErrAddr => [⟨63, 0, .ro, false⟩]
  | .vfId => [⟨31, 26, .ro, false⟩, ⟨19, 8, .ro, false⟩, ⟨6, 0, .ro, false⟩]
  | .confFeatures => [⟨31, 0, .ro, false⟩]

/-- Is the register 64 bits wide? -/
def RegKind.wide : RegKind → Bool
  | .sqBase | .cqBase | .sqStat | .cqStat | .dieTemp | .keepBanks | .wakePatternLo | .wakePatternHi
  | .leveeStat | .gaugeRing | .gaugePtr | .netCtl | .netXstat | .expertStat | .stepStat
  | .lastCommit | .wardenStat | .resumeStep | .resumeSeed | .polderFuncs | .memErr | .memUeAddr
  | .portCnt | .portViol | .dmaErrAddr | .sysDmaErrAddr => true
  | _ => false

/-- The commit group of the kind's RWS fields (Table 15.14), where it has any. -/
def RegKind.group : RegKind → Option Nat
  | .vfRingMap | .sqBase | .cqBase | .sqCtl | .cqCtl => some 0
  | .powerCtl | .wakeTolerance | .keepBanks | .wakeCtl | .wakePatternLo | .wakePatternHi => some 1
  | .leveeCtl => some 2
  | .gaugeRing | .gaugeCtl => some 3
  | .stackCtl => some 4
  | .portCtl | .netCtl => some 5
  | .expertCtl => some 6
  | .faultCtl => some 7
  | .polderFuncs => some 8
  | _ => none

/-- Some field can be changed by a write (R14, R395). -/
def RegKind.writable (k : RegKind) : Bool :=
  k.fields.any (fun f => f.acc == .rw || f.acc == .wo || f.acc == .rw1c || f.acc == .rws)

/-- The mask of the fields with a given access code. -/
def RegKind.mask (k : RegKind) (a : Access) : Long :=
  (k.fields.filter (fun f => f.acc == a)).foldl (fun m f => m ||| maskF f.hi f.lo) 0

/-- The reset values of the register tables. Fields that State computes from other state (ring heads,
core state, the error log's count and so on) are not stored here; their registers' stored part is 0. -/
def Reg.resetValue (r : Reg) : Long :=
  match r.kind with
  | .commitStatus => 0x00FF0000
  | .dieTemp => 0xFFFFFFFFFFFFFFFF
  | .powerCtl => 0x00320400
  | .wakeTolerance => 150000
  | .wakeCtl => 0x0001000F
  | .leveeCtl => 0xEB695F55
  | .leveeStat => 0x0000008000000000
  | .gaugeCtl => 0xC0000100
  | .netCtl => 0x1D4C040000004E20
  | .expertCtl => 0x00000808
  | .stackCtl => 0x00000018
  | .portCtl => 0x00000050
  | _ => 0

/-- The offset of a die's block in BAR0 of the PF (R509). -/
def dieBase (d : Nat) : Nat := 0x1000000 + 0x400000 * d

/-- The offset of a core's block (R509, R19: core 36d + i is local core i of die d). -/
def coreBase (c : Nat) : Nat := dieBase (c / coresPerDie) + 0x100000 + 0x10000 * (c % coresPerDie)

/-- Where the registers of VF BAR0 that the PF does not map are kept: above BAR0's 64 MiB. -/
def vfKeyBase (v : Nat) : Nat := 0x4000000 + 0x10000 * v

/-- The key of a register in State's register tables: its offset in BAR0 of the PF, or, for a register
that only a VF maps, its offset in that VF's BAR0 above `vfKeyBase`. -/
def Reg.key (r : Reg) : Nat :=
  match r.kind with
  | .identity => 0x000 + 4 * r.i
  | .mapId => 0x040
  | .devFeatures => 0x100 + 4 * r.i
  | .drvFeatures => 0x120 + 4 * r.i
  | .featuresCtl => 0x140
  | .commit => if r.i = 0 then 0x200 else vfKeyBase r.i + 0x100
  | .commitStatus => if r.i = 0 then 0x204 else vfKeyBase r.i + 0x104
  | .vfRingMap => 0x400 + 4 * r.i
  | .sqBase => 0x40000 + 0x40 * r.i
  | .cqBase => 0x40000 + 0x40 * r.i + 0x08
  | .sqCtl => 0x40000 + 0x40 * r.i + 0x10
  | .cqCtl => 0x40000 + 0x40 * r.i + 0x14
  | .sqStat => 0x40000 + 0x40 * r.i + 0x18
  | .cqStat => 0x40000 + 0x40 * r.i + 0x20
  | .sramErr => dieBase r.i
  | .dieTemp => dieBase r.i + 0x08
  | .xeFlags => dieBase r.i + 0x10
  | .powerCtl => 0x1010000
  | .wakeTolerance => 0x1010004
  | .keepBanks => 0x1010008
  | .wakeCtl => 0x1010010
  | .wakePatternLo => 0x1010018
  | .wakePatternHi => 0x1010020
  | .pwrStat => 0x1010028
  | .leveeCtl => 0x1010040
  | .leveeStat => 0x1010048
  | .gaugeRing => 0x1010080
  | .gaugePtr => 0x1010088
  | .gaugeCtl => 0x1010090
  | .gaugeStatus => 0x1010094
  | .netCtl => 0x10100C0
  | .netXstat => 0x10100C8
  | .expertCtl => 0x1010100
  | .expertStat => 0x1010108
  | .faultCtl => 0x1010140
  | .pairStat => 0x1010144
  | .errlogStat => 0x1010148
  | .stepStat => if r.i = 0 then 0x1010150 else vfKeyBase r.i + 0x200
  | .lastCommit => if r.i = 0 then 0x1010158 else vfKeyBase r.i + 0x208
  | .resumeStat => 0x1010160
  | .wardenStat => 0x1010180
  | .lifecycle => 0x1010188
  | .resumeStep => 0x1010400 + 8 * r.i
  | .resumeSeed => 0x1010600 + 8 * r.i
  | .polderFuncs => 0x1010800 + 8 * (r.i - 1)
  | .polderStat => 0x1010880 + 4 * (r.i - 1)
  | .stackStat => dieBase (r.i / 8) + 0x20000 + 0x100 * (r.i % 8)
  | .stackCtl => dieBase (r.i / 8) + 0x20000 + 0x100 * (r.i % 8) + 0x04
  | .memErr => dieBase (r.i / 8) + 0x20000 + 0x100 * (r.i % 8) + 0x08
  | .memUeAddr => dieBase (r.i / 8) + 0x20000 + 0x100 * (r.i % 8) + 0x10
  | .portCtl => dieBase (r.i / 4) + 0x30000 + 0x100 * (r.i % 4)
  | .portStat => dieBase (r.i / 4) + 0x30000 + 0x100 * (r.i % 4) + 0x04
  | .portCnt => dieBase (r.i / 4) + 0x30000 + 0x100 * (r.i % 4) + 0x08
  | .portViol => dieBase (r.i / 4) + 0x30000 + 0x100 * (r.i % 4) + 0x10
  | .sysDmaStat => dieBase (r.i / 32) + 0x40000 + 0x20 * (r.i % 32)
  | .sysDmaErrAddr => dieBase (r.i / 32) + 0x40000 + 0x20 * (r.i % 32) + 0x08
  | .coreStat => coreBase r.i
  | .tqCount => coreBase r.i + 0x100 + 4 * r.j
  | .meStat => coreBase r.i + 0x200 + 8 * r.j
  | .meFlags => coreBase r.i + 0x204 + 8 * r.j
  | .veFlags => coreBase r.i + 0x300 + 4 * r.j
  | .ueFlags => coreBase r.i + 0x320
  | .dmaStat => coreBase r.i + 0x400 + 0x20 * r.j
  | .dmaErrAddr => coreBase r.i + 0x408 + 0x20 * r.j
  | .vfId => vfKeyBase r.i
  | .confFeatures => vfKeyBase r.i + 0x20 + 4 * r.j

/-- What part of a register an offset names. -/
inductive RegHalf where
  | whole  -- the register's first byte
  | high   -- bits 63:32 of a 64-bit register
  deriving DecidableEq, Repr

/-- A register of 32 or 64 bits at local offset 0; its high half at 4. -/
def atReg (k : RegKind) (i j rel : Nat) : Option (Reg × RegHalf) :=
  if rel = 0 then some (⟨k, i, j⟩, .whole)
  else if rel = 4 ∧ k.wide then some (⟨k, i, j⟩, .high) else none

/-- The ring registers of Table 20.3. -/
def ringRegAt (n rel : Nat) : Option (Reg × RegHalf) :=
  if rel < 0x08 then atReg .sqBase n 0 rel
  else if rel < 0x10 then atReg .cqBase n 0 (rel - 0x08)
  else if rel = 0x10 then atReg .sqCtl n 0 0
  else if rel = 0x14 then atReg .cqCtl n 0 0
  else if rel < 0x18 then none
  else if rel < 0x20 then atReg .sqStat n 0 (rel - 0x18)
  else if rel < 0x28 then atReg .cqStat n 0 (rel - 0x20)
  else none

/-- The global block (Table 20.2). -/
def globalRegAt (o : Nat) : Option (Reg × RegHalf) :=
  if o % 4 ≠ 0 then none
  else if o < 0x040 then atReg .identity (o / 4) 0 0
  else if o = 0x040 then atReg .mapId 0 0 0
  else if o < 0x100 then none
  else if o < 0x120 then atReg .devFeatures ((o - 0x100) / 4) 0 0
  else if o < 0x140 then atReg .drvFeatures ((o - 0x120) / 4) 0 0
  else if o = 0x140 then atReg .featuresCtl 0 0 0
  else if o = 0x200 then atReg .commit 0 0 0
  else if o = 0x204 then atReg .commitStatus 0 0 0
  else if 0x404 ≤ o ∧ o < 0x500 then atReg .vfRingMap ((o - 0x400) / 4) 0 0
  else none

/-- The device registers (Table 20.8), by offset from 0x101_0000. -/
def deviceRegAt (o : Nat) : Option (Reg × RegHalf) :=
  if o = 0x000 then atReg .powerCtl 0 0 0
  else if o = 0x004 then atReg .wakeTolerance 0 0 0
  else if o < 0x008 then none
  else if o < 0x010 then atReg .keepBanks 0 0 (o - 0x008)
  else if o = 0x010 then atReg .wakeCtl 0 0 0
  else if o < 0x018 then none
  else if o < 0x020 then atReg .wakePatternLo 0 0 (o - 0x018)
  else if o < 0x028 then atReg .wakePatternHi 0 0 (o - 0x020)
  else if o = 0x028 then atReg .pwrStat 0 0 0
  else if o = 0x040 then atReg .leveeCtl 0 0 0
  else if o < 0x048 then none
  else if o < 0x050 then atReg .leveeStat 0 0 (o - 0x048)
  else if o < 0x080 then none
  else if o < 0x088 then atReg .gaugeRing 0 0 (o - 0x080)
  else if o < 0x090 then atReg .gaugePtr 0 0 (o - 0x088)
  else if o = 0x090 then atReg .gaugeCtl 0 0 0
  else if o = 0x094 then atReg .gaugeStatus 0 0 0
  else if o < 0x0C0 then none
  else if o < 0x0C8 then atReg .netCtl 0 0 (o - 0x0C0)
  else if o < 0x0D0 then atReg .netXstat 0 0 (o - 0x0C8)
  else if o = 0x100 then atReg .expertCtl 0 0 0
  else if o < 0x108 then none
  else if o < 0x110 then atReg .expertStat 0 0 (o - 0x108)
  else if o = 0x140 then atReg .faultCtl 0 0 0
  else if o = 0x144 then atReg .pairStat 0 0 0
  else if o = 0x148 then atReg .errlogStat 0 0 0
  else if o < 0x150 then none
  else if o < 0x158 then atReg .stepStat 0 0 (o - 0x150)
  else if o < 0x160 then atReg .lastCommit 0 0 (o - 0x158)
  else if o = 0x160 then atReg .resumeStat 0 0 0
  else if o < 0x180 then none
  else if o < 0x188 then atReg .wardenStat 0 0 (o - 0x180)
  else if o = 0x188 then atReg .lifecycle 0 0 0
  else if o < 0x400 then none
  else if o < 0x600 then atReg .resumeStep ((o - 0x400) / 8) 0 (o % 8)
  else if o < 0x800 then atReg .resumeSeed ((o - 0x600) / 8) 0 (o % 8)
  else if o < 0x880 then atReg .polderFuncs ((o - 0x800) / 8 + 1) 0 (o % 8)
  else if o < 0x8C0 ∧ o % 4 = 0 then atReg .polderStat ((o - 0x880) / 4 + 1) 0 0
  else none

/-- A core's block (Table 20.11), by offset in the block. -/
def coreRegAt (part : Part) (c o : Nat) : Option (Reg × RegHalf) :=
  if o % 4 ≠ 0 then none
  else if o = 0 then atReg .coreStat c 0 0
  else if 0x100 ≤ o ∧ o < 0x1C0 then atReg .tqCount c ((o - 0x100) / 4) 0
  else if 0x200 ≤ o ∧ o < 0x260 then
    (if o % 8 = 0 then atReg .meStat c ((o - 0x200) / 8) 0 else atReg .meFlags c ((o - 0x200) / 8) 0)
  else if 0x300 ≤ o ∧ o < 0x300 + 4 * part.vePerCore then atReg .veFlags c ((o - 0x300) / 4) 0
  else if o = 0x320 then atReg .ueFlags c 0 0
  else if 0x400 ≤ o ∧ o < 0x600 then
    (let ch := (o - 0x400) / 0x20
     let rel := o % 0x20
     if rel = 0 then atReg .dmaStat c ch 0
     else if 8 ≤ rel ∧ rel < 0x10 then atReg .dmaErrAddr c ch (rel - 8) else none)
  else none

/-- A die's block (Tables 20.4, 20.7, 20.9, 20.10), by offset in the block. -/
def dieRegAt (part : Part) (d o : Nat) : Option (Reg × RegHalf) :=
  if o < 0x10000 then
    (if o = 0 then atReg .sramErr d 0 0
     else if 0x08 ≤ o ∧ o < 0x10 then atReg .dieTemp d 0 (o - 0x08)
     else if o = 0x10 then atReg .xeFlags d 0 0 else none)
  else if o < 0x20000 then (if d = 0 then deviceRegAt (o - 0x10000) else none)
  else if o < 0x20800 then
    (let s := 8 * d + (o - 0x20000) / 0x100
     let rel := o % 0x100
     if rel = 0 then atReg .stackStat s 0 0
     else if rel = 4 then atReg .stackCtl s 0 0
     else if 0x08 ≤ rel ∧ rel < 0x10 then atReg .memErr s 0 (rel - 0x08)
     else if 0x10 ≤ rel ∧ rel < 0x18 then atReg .memUeAddr s 0 (rel - 0x10) else none)
  else if o < 0x30000 then none
  else if o < 0x30400 then
    (let p := 4 * d + (o - 0x30000) / 0x100
     let rel := o % 0x100
     if rel = 0 then atReg .portCtl p 0 0
     else if rel = 4 then atReg .portStat p 0 0
     else if 0x08 ≤ rel ∧ rel < 0x10 then atReg .portCnt p 0 (rel - 0x08)
     else if 0x10 ≤ rel ∧ rel < 0x18 then atReg .portViol p 0 (rel - 0x10) else none)
  else if o < 0x40000 then none
  else if o < 0x40400 then
    (let c := 32 * d + (o - 0x40000) / 0x20
     let rel := o % 0x20
     if rel = 0 then atReg .sysDmaStat c 0 0
     else if 0x08 ≤ rel ∧ rel < 0x10 then atReg .sysDmaErrAddr c 0 (rel - 0x08) else none)
  else if 0x100000 ≤ o ∧ o < 0x100000 + 0x10000 * coresPerDie then
    coreRegAt part (coresPerDie * d + (o - 0x100000) / 0x10000) (o % 0x10000)
  else none

/-- The register at an offset of BAR0 of the PF below the shadow alias (R503). -/
def pfRegAt (part : Part) (o : Nat) : Option (Reg × RegHalf) :=
  if o < 0x1000 then globalRegAt o
  else if 0x40000 ≤ o ∧ o < 0x80000 then ringRegAt ((o - 0x40000) / 0x40) (o % 0x40)
  else if 0x1000000 ≤ o ∧ o < dieBase part.dies then
    dieRegAt part ((o - 0x1000000) / 0x400000) (o % 0x400000)
  else none

/-- The register at an offset of BAR0 of VF `v` below its shadow alias (Table 20.15). `base` and `count`
are the active fields of the VF's VF_RING_MAP: its ring k is global ring base + k (R398). -/
def vfRegAt (v base count o : Nat) : Option (Reg × RegHalf) :=
  if o = 0 then atReg .vfId v 0 0
  else if 0x20 ≤ o ∧ o < 0x40 ∧ o % 4 = 0 then atReg .confFeatures v ((o - 0x20) / 4) 0
  else if o = 0x100 then atReg .commit v 0 0
  else if o = 0x104 then atReg .commitStatus v 0 0
  else if 0x200 ≤ o ∧ o < 0x208 then atReg .stepStat v 0 (o - 0x200)
  else if 0x208 ≤ o ∧ o < 0x210 then atReg .lastCommit v 0 (o - 0x208)
  else if 0x210 ≤ o ∧ o < 0x218 then atReg .resumeStep v 0 (o - 0x210)
  else if 0x218 ≤ o ∧ o < 0x220 then atReg .resumeSeed v 0 (o - 0x218)
  else if 0x1000 ≤ o ∧ o < 0x1000 + 0x40 * (min count 64) then
    ringRegAt (base + (o - 0x1000) / 0x40) (o % 0x40)
  else none

end Sys2Proof.Machine
end

