-- ==== Sys2Proof/Machine/Flags.lean ====
section
/-! DEFINITION. Exact binary numbers, the five sticky flags (R111) and the one rounding of a conversion or
an operation (R105, R107, R109). -/

namespace Sys2Proof.Machine

/-- A flag set, bits as in Table 3.11. -/
abbrev Flags := Nat

/-- OVERFLOW. -/
def flOvf : Flags := 1
/-- UNDERFLOW. -/
def flUnf : Flags := 2
/-- INEXACT. -/
def flInx : Flags := 4
/-- INVALID. -/
def flInv : Flags := 8
/-- RANGE. -/
def flRange : Flags := 16

/-- A flag where a condition holds. -/
def flIf (c : Bool) (f : Flags) : Flags := if c then f else 0

/-- A value as every engine reads it: a NaN, an infinity, or a signed finite number m × 2^e (a zero keeps
its sign, R89). -/
inductive Val where
  | nan
  | inf (neg : Bool)
  | fin (neg : Bool) (m : Nat) (e : Int)
  deriving DecidableEq, Repr

/-- +0. -/
def Val.zero : Val := .fin false 0 0

/-- The value is a zero of either sign. -/
def Val.isZero : Val → Bool
  | .fin _ m _ => decide (m = 0)
  | _ => false

/-- The value is a NaN. -/
def Val.isNan : Val → Bool
  | .nan => true
  | _ => false

/-- The value is an infinity. -/
def Val.isInf : Val → Bool
  | .inf _ => true
  | _ => false

/-- The value is finite. -/
def Val.isFin : Val → Bool
  | .fin _ _ _ => true
  | _ => false

/-- The sign bit; a NaN has sign 0. -/
def Val.neg : Val → Bool
  | .nan => false
  | .inf n => n
  | .fin n _ _ => n

/-- The value with its sign replaced. -/
def Val.withSign (n : Bool) : Val → Val
  | .nan => .nan
  | .inf _ => .inf n
  | .fin _ m e => .fin n m e

/-- An exact number: an integer times a power of two. -/
structure Dy where
  m : Int
  e : Int
  deriving DecidableEq, Repr

/-- The integer of an exact number on a finer exponent. -/
def Dy.scaled (a : Dy) (e : Int) : Int := a.m * 2 ^ (a.e - e).toNat

/-- The exact sum. -/
def Dy.add (a b : Dy) : Dy :=
  let e := min a.e b.e
  ⟨a.scaled e + b.scaled e, e⟩

/-- The exact product. -/
def Dy.mul (a b : Dy) : Dy := ⟨a.m * b.m, a.e + b.e⟩

/-- The exact difference. -/
def Dy.sub (a b : Dy) : Dy := a.add ⟨-b.m, b.e⟩

/-- Exact comparison. -/
def Dy.le (a b : Dy) : Bool := decide ((b.sub a).m ≥ 0)

/-- Exact strict comparison. -/
def Dy.lt (a b : Dy) : Bool := decide ((b.sub a).m > 0)

/-- Zero. -/
def Dy.zero : Dy := ⟨0, 0⟩

/-- The number behind a finite value (0 for the others). -/
def Val.dy : Val → Dy
  | .fin n m e => ⟨if n then -(m : Int) else m, e⟩
  | _ => Dy.zero

/-- How a conversion rounds: to nearest even, or stochastically with a random word (R105, R107). -/
inductive Rounding where
  | nearest
  | stochastic (r : Nat)
  deriving DecidableEq, Repr

/-- Round away from the truncated value `n` with remainder `rem` of `2^sh`? -/
def roundsUp (mode : Rounding) (n rem sh : Nat) : Bool :=
  match mode with
  | .nearest => decide (2 ^ sh < 2 * rem ∨ (2 * rem = 2 ^ sh ∧ n % 2 = 1))
  | .stochastic r => decide (r < rem * 2 ^ 32 / 2 ^ sh)

/-- A magnitude rounded to a binary format with an unbounded exponent range: its code (exponent field and
mantissa, without sign), whether it is inexact, and whether it is tiny before rounding. -/
structure Rounded where
  code : Nat
  inexact : Bool
  tiny : Bool
  deriving DecidableEq, Repr

/-- Round m × 2^e to a format of M mantissa bits and exponent bias `bias`, subnormals included. The code of
a magnitude is linear in the value between powers of two, so one formula covers every case. -/
def roundMag (M : Nat) (bias : Int) (mode : Rounding) (m : Nat) (e : Int) : Rounded :=
  if m = 0 then ⟨0, false, false⟩
  else
    let top : Int := (Nat.log2 m : Int) + e
    let qmin : Int := 1 - bias - M
    let u : Int := max (top - M) qmin
    let base := (u - qmin).toNat * 2 ^ M
    let tiny := decide (top < 1 - bias)
    if u ≤ e then ⟨base + m * 2 ^ (e - u).toNat, false, tiny⟩
    else
      let sh := (u - e).toNat
      let n := m / 2 ^ sh
      let rem := m % 2 ^ sh
      ⟨base + n + (if roundsUp mode n rem sh then 1 else 0), decide (rem ≠ 0), tiny⟩

/-- The FP32 pattern of a sign and a magnitude code. -/
def fp32Code (neg : Bool) (mag : Nat) : Nat := mag + (if neg then 2 ^ 31 else 0)

/-- The default NaN (Table 3.2). -/
def fp32Nan : Nat := 0x7FC00000

/-- +Inf. -/
def fp32Inf : Nat := 0x7F800000

/-- Round an exact magnitude to FP32 to nearest even, with its flags (Table 3.8, R109). -/
def rn32Mag (neg : Bool) (m : Nat) (e : Int) : Nat × Flags :=
  let r := roundMag 23 127 .nearest m e
  if fp32Inf ≤ r.code then (fp32Code neg fp32Inf, flOvf ||| flInx)
  else (fp32Code neg r.code, flIf r.inexact flInx ||| flIf (r.inexact && r.tiny) flUnf)

/-- Round an exact number to FP32; an exact zero is +0. -/
def rn32 (a : Dy) : Nat × Flags := rn32Mag (decide (a.m < 0)) a.m.natAbs a.e

/-- The value of an FP32 pattern (R87, Table 3.2). -/
def val32 (c : Nat) : Val :=
  let neg := c.testBit 31
  let e := (c >>> 23) % 256
  let f := c % 2 ^ 23
  if e = 255 then (if f = 0 then .inf neg else .nan)
  else if e = 0 then .fin neg f (-149)
  else .fin neg (2 ^ 23 + f) ((e : Int) - 150)

/-- The FP32 pattern of a value, rounded once. -/
def ofVal32 : Val → Nat × Flags
  | .nan => (fp32Nan, 0)
  | .inf n => (fp32Code n fp32Inf, 0)
  | .fin n m e => rn32Mag n m e

/-- IEEE 754 addition of two FP32 patterns, rounded once (R122). -/
def add32 (a b : Nat) : Nat × Flags :=
  match val32 a, val32 b with
  | .nan, _ => (fp32Nan, 0)
  | _, .nan => (fp32Nan, 0)
  | .inf n, .inf n' => if n = n' then (fp32Code n fp32Inf, 0) else (fp32Nan, flInv)
  | .inf n, _ => (fp32Code n fp32Inf, 0)
  | _, .inf n => (fp32Code n fp32Inf, 0)
  | .fin n m e, .fin n' m' e' =>
    let d := (Val.fin n m e).dy.add (Val.fin n' m' e').dy
    if d.m = 0 then (fp32Code (n && n') 0, 0) else rn32 d

/-- The pattern with its sign bit flipped. -/
def neg32 (a : Nat) : Nat := if a.testBit 31 then a - 2 ^ 31 else a + 2 ^ 31

/-- IEEE 754 subtraction of two FP32 patterns. A NaN operand gives the default NaN. -/
def sub32 (a b : Nat) : Nat × Flags := add32 a (neg32 b)

/-- IEEE 754 multiplication of two FP32 patterns, rounded once. -/
def mul32 (a b : Nat) : Nat × Flags :=
  match val32 a, val32 b with
  | .nan, _ => (fp32Nan, 0)
  | _, .nan => (fp32Nan, 0)
  | .inf n, v => if v.isZero then (fp32Nan, flInv) else (fp32Code (n != v.neg) fp32Inf, 0)
  | v, .inf n => if v.isZero then (fp32Nan, flInv) else (fp32Code (n != v.neg) fp32Inf, 0)
  | .fin n m e, .fin n' m' e' => rn32Mag (n != n') (m * m') (e + e')

/-- A × B + C with one rounding (IEEE 754 fused multiply-add). 0 × Inf is invalid also when C is a NaN
operand of none, and a NaN operand gives the default NaN without a flag. -/
def fma32 (a b c : Nat) : Nat × Flags :=
  match val32 a, val32 b, val32 c with
  | .nan, _, _ => (fp32Nan, 0)
  | _, .nan, _ => (fp32Nan, 0)
  | _, _, .nan => (fp32Nan, 0)
  | .fin n m e, .fin n' m' e', .fin nc mc ec =>
    let p : Dy := (Val.fin (n != n') (m * m') (e + e')).dy
    let d := p.add (Val.fin nc mc ec).dy
    if d.m = 0 then (fp32Code ((n != n') && nc) 0, 0) else rn32 d
  | .fin _ _ _, .fin _ _ _, .inf nc => (fp32Code nc fp32Inf, 0)
  | va, vb, vc =>
    if va.isZero || vb.isZero then (fp32Nan, flInv)
    else
      let np := va.neg != vb.neg
      match vc with
      | .inf nc => if np = nc then (fp32Code np fp32Inf, 0) else (fp32Nan, flInv)
      | _ => (fp32Code np fp32Inf, 0)

/-- Is the pattern a NaN? -/
def isNan32 (c : Nat) : Bool := (val32 c).isNan

/-- Is the pattern an infinity? -/
def isInf32 (c : Nat) : Bool := (val32 c).isInf

/-- Is the pattern finite? -/
def isFin32 (c : Nat) : Bool := (val32 c).isFin

/-- IEEE order of two values that are not NaNs: a < b. -/
def Val.lt : Val → Val → Bool
  | .nan, _ => false
  | _, .nan => false
  | .inf n, .inf n' => n && !n'
  | .inf n, .fin _ _ _ => n
  | .fin _ _ _, .inf n => !n
  | a, b => a.dy.lt b.dy

/-- IEEE equality: −0 equals +0, a NaN equals nothing (R89). -/
def Val.eqv : Val → Val → Bool
  | .nan, _ => false
  | _, .nan => false
  | .inf n, .inf n' => n == n'
  | .inf _, .fin _ _ _ => false
  | .fin _ _ _, .inf _ => false
  | a, b => decide ((a.dy.sub b.dy).m = 0)

end Sys2Proof.Machine
end

