-- ==== Sys2Proof/Machine/Operands.lean ====
section
/-! DEFINITION. Element formats (3.1), block scales (3.2), outer scales (3.3) and the conversion rule
(3.4): reading an element as a value, and writing a value, a block or a line of values in a format. -/

namespace Sys2Proof.Machine

/-- How a format encodes infinities and NaNs (Table 3.2). -/
inductive Specials where
  | ieee   -- exponent all ones
  | e4m3   -- 0x7F and 0xFF are NaN; no infinity
  | none   -- neither
  deriving DecidableEq, Repr

/-- An arithmetic element format (Table 3.1): width, exponent and mantissa bits, bias, emax. -/
structure Fmt where
  bits : Nat
  expBits : Nat
  man : Nat
  bias : Nat
  emax : Nat
  specials : Specials
  deriving DecidableEq, Repr

/-- FP32. -/
def fmtFp32 : Fmt := ⟨32, 8, 23, 127, 127, .ieee⟩

/-- The arithmetic formats by format code (Table 3.1). -/
def fmtOf : Nat → Option Fmt
  | 0x00 => some fmtFp32
  | 0x01 => some ⟨16, 8, 7, 127, 127, .ieee⟩
  | 0x02 => some ⟨16, 5, 10, 15, 15, .ieee⟩
  | 0x03 => some ⟨8, 4, 3, 7, 8, .e4m3⟩
  | 0x04 => some ⟨8, 5, 2, 15, 15, .ieee⟩
  | 0x05 => some ⟨6, 3, 2, 3, 4, .none⟩
  | 0x06 => some ⟨6, 2, 3, 1, 2, .none⟩
  | 0x07 => some ⟨4, 2, 1, 1, 2, .none⟩
  | _ => none

/-- Bits per element of a dense format code (Table 2.8). -/
def codeBits : Nat → Nat
  | 0x00 => 32 | 0x01 => 16 | 0x02 => 16 | 0x03 => 8 | 0x04 => 8 | 0x05 => 6 | 0x06 => 6 | 0x07 => 4
  | 0x08 => 8 | 0x09 => 32 | _ => 32

/-- The sign bit's place. -/
def Fmt.signBit (f : Fmt) : Nat := f.bits - 1

/-- The largest finite magnitude code. -/
def Fmt.maxMag (f : Fmt) : Nat :=
  match f.specials with
  | .ieee => (2 ^ f.expBits - 1) * 2 ^ f.man - 1
  | .e4m3 => 2 ^ f.signBit - 2
  | .none => 2 ^ f.signBit - 1

/-- The magnitude code of an infinity, in a format that has one. -/
def Fmt.infMag (f : Fmt) : Nat := (2 ^ f.expBits - 1) * 2 ^ f.man

/-- The default NaN of a format (Table 3.2); 0 for the formats without one. -/
def Fmt.nan (f : Fmt) : Nat :=
  match f.specials with
  | .ieee => f.infMag + 2 ^ (f.man - 1)
  | .e4m3 => 2 ^ f.signBit - 1
  | .none => 0

/-- A code with a sign. -/
def Fmt.withSign (f : Fmt) (neg : Bool) (mag : Nat) : Nat := mag + (if neg then 2 ^ f.signBit else 0)

/-- The finite value of a magnitude code (R87). -/
def Fmt.magVal (f : Fmt) (neg : Bool) (mag : Nat) : Val :=
  let e := mag / 2 ^ f.man
  let m := mag % 2 ^ f.man
  let q : Int := 1 - (f.bias : Int) - (f.man : Int)
  if e = 0 then .fin neg m q else .fin neg (2 ^ f.man + m) (q + (e : Int) - 1)

/-- The value of an element code (R87, R88). -/
def Fmt.decode (f : Fmt) (c : Nat) : Val :=
  let neg := c.testBit f.signBit
  let mag := c % 2 ^ f.signBit
  match f.specials with
  | .ieee =>
    if f.infMag ≤ mag then (if mag = f.infMag then .inf neg else .nan) else f.magVal neg mag
  | .e4m3 => if mag = 2 ^ f.signBit - 1 then .nan else f.magVal neg mag
  | .none => f.magVal neg mag

/-- The value multiplied by 2^k, exactly. -/
def Val.shift (v : Val) (k : Int) : Val :=
  match v with
  | .fin n m e => .fin n m (e + k)
  | v => v

/-- An element under a block scale: scale code 0xFF makes it a NaN (Table 3.3). -/
def scaledVal (f : Fmt) (c scale : Nat) : Val :=
  if scale = 0xFF then .nan else (f.decode c).shift ((scale : Int) - 127)

/-- The exponent of an outer scale S, an FP32 power of two (R100). -/
def outerExp (s : Nat) : Int := (((s >>> 23) % 256 : Nat) : Int) - 127

/-- What a conversion without block scales does with an overflow or an infinity in a format that has no
infinity: clamp, or write a NaN (OPTIONS bit 1, Table 3.8). -/
def Fmt.overflow (f : Fmt) (nanOnOvf neg : Bool) : Nat :=
  match f.specials with
  | .ieee => f.withSign neg f.infMag
  | .e4m3 => if nanOnOvf then f.nan else f.withSign neg f.maxMag
  | .none => f.withSign neg f.maxMag

/-- Convert a value without block scales (R103 to R110): the element code and the flags. -/
def Fmt.convert (f : Fmt) (mode : Rounding) (nanOnOvf : Bool) (v : Val) : Nat × Flags :=
  match v with
  | .nan => (f.nan, 0)
  | .inf n =>
    match f.specials with
    | .ieee => (f.withSign n f.infMag, 0)
    | _ => (f.overflow nanOnOvf n, flOvf ||| flInx)
  | .fin n m e =>
    let near := roundMag f.man f.bias .nearest m e
    let maxV := (f.magVal false f.maxMag).dy
    let above := match mode with
      | .nearest => decide (f.maxMag < near.code)
      | .stochastic _ => maxV.lt ⟨m, e⟩
    if above then (f.overflow nanOnOvf n, flOvf ||| flInx)
    else
      let r := roundMag f.man f.bias mode m e
      (f.withSign n r.code, flIf r.inexact flInx ||| flIf (r.inexact && r.tiny) flUnf)

/-- Convert one element of a block after division by the block scale: above the largest finite value it is
clamped, with inexact and no other flag (R97). -/
def Fmt.convertClamp (f : Fmt) (mode : Rounding) (v : Val) : Nat × Flags :=
  match v with
  | .nan => (f.nan, 0)
  | .inf n => (f.withSign n (if f.specials = .ieee then f.infMag else f.maxMag), 0)
  | .fin n m e =>
    let near := roundMag f.man f.bias .nearest m e
    let maxV := (f.magVal false f.maxMag).dy
    let above := match mode with
      | .nearest => decide (f.maxMag < near.code)
      | .stochastic _ => maxV.lt ⟨m, e⟩
    if above then (f.withSign n f.maxMag, flInx)
    else
      let r := roundMag f.man f.bias mode m e
      (f.withSign n r.code, flIf r.inexact flInx ||| flIf (r.inexact && r.tiny) flUnf)

/-- The greater of two exact magnitudes. -/
def maxDy (a b : Dy) : Dy := if a.lt b then b else a

/-- The largest magnitude among the finite values of a list (R96). -/
def amaxOf (vs : List Val) : Dy :=
  vs.foldl (fun a v => match v with | .fin _ m e => maxDy a ⟨m, e⟩ | _ => a) Dy.zero

/-- The smallest k with amax ≤ largest finite × 2^k, at or above a starting exponent. -/
def roundUpExp (f : Fmt) (amax : Dy) (k : Int) : Nat → Int
  | 0 => k
  | n + 1 =>
    if amax.le ((f.magVal false f.maxMag).shift k).dy then k else roundUpExp f amax (k + 1) n

/-- The scale code of a block from its amax (R96). -/
def scaleCode (f : Fmt) (roundUp : Bool) (amax : Dy) : Nat :=
  if amax.m = 0 then 0x7F
  else
    let top : Int := (Nat.log2 amax.m.natAbs : Int) + amax.e
    let k := if roundUp then roundUpExp f amax (top - f.emax - 1) 3 else top - f.emax
    (max k (-127) + 127).toNat

/-- The source values of a block force the whole block to NaN, and with which flags (Table 3.5). -/
def blockNan (f : Fmt) (vs : List Val) : Option Flags :=
  match f.specials with
  | .ieee => Option.none
  | .e4m3 => if vs.any Val.isInf then some (flOvf ||| flInx) else Option.none
  | .none =>
    if vs.any Val.isInf then some (flOvf ||| flInx)
    else if vs.any Val.isNan then some 0 else Option.none

/-- Write a block: its scale code, its element codes and the flags (R96 to R98). Each value comes with its
rounding mode. -/
def convertBlock (f : Fmt) (roundUp : Bool) (vs : List (Val × Rounding)) : Nat × List Nat × Flags :=
  let vals := vs.map (·.1)
  match blockNan f vals with
  | some fl => (0xFF, vs.map (fun _ => 0), fl)
  | none =>
    let sc := scaleCode f roundUp (amaxOf vals)
    let cs := vs.map (fun v => f.convertClamp v.2 (v.1.shift (127 - (sc : Int))))
    (sc, cs.map (·.1), cs.foldl (fun a c => a ||| c.2) 0)

/-- B of a scale-block code (Table 3.4); 0 without block scales. -/
def blockLen : Nat → Nat
  | 1 => 16 | 2 => 32 | 3 => 64 | 4 => 128 | _ => 0

/-- A format code and a scale-block code go together (R67). -/
def scaleBlkOk (format blk : Nat) : Bool :=
  match format with
  | 0x03 | 0x04 => decide (blk ≤ 4)
  | 0x05 | 0x06 | 0x07 => decide (1 ≤ blk ∧ blk ≤ 4)
  | _ => decide (blk = 0)

/-- The window size of an operand (Table 4.1). -/
def operandWindow (format blk : Nat) : Nat :=
  match format with
  | 0x00 => 1
  | 0x01 | 0x02 => 2
  | _ => if blk = 1 then 16 else 32

end Sys2Proof.Machine
end

