-- ==== Sys2Proof/Machine/RefOrder.lean ====
section
/-! DEFINITION. The reference order of operations (chapter 4): terms, windows, the accumulator, reaches, the
long accumulator, and the combination of partials by chain or tree. -/

namespace Sys2Proof.Machine

/-- A term of a sum of products: the two operand values, or a null term (R116). -/
abbrev Term := Option (Val × Val)

/-- The term of two operands that are present: null when either is a zero (R116). -/
def mkTerm (x y : Val) : Term := if x.isZero || y.isZero then none else some (x, y)

/-- The value 1.0, the second operand of a reduction of values (R115). -/
def valOne : Val := .fin false 1 0

/-- What a window has gathered: whether any term is non-null, the NaN and infinite terms, and the exact
sum of the finite ones. -/
structure WinAcc where
  any : Bool := false
  nan : Bool := false
  pinf : Bool := false
  ninf : Bool := false
  f : Dy := Dy.zero
  deriving DecidableEq, Repr

/-- Add a term to a window (R119 step 1). -/
def WinAcc.add (w : WinAcc) (t : Term) : WinAcc :=
  match t with
  | none => w
  | some (x, y) =>
    let w := { w with any := true }
    if x.isNan || y.isNan then { w with nan := true }
    else if x.isInf || y.isInf then
      if x.neg == y.neg then { w with pinf := true } else { w with ninf := true }
    else { w with f := w.f.add (x.dy.mul y.dy) }

/-- What a window gives when it closes: its sum of R119 and its flags, none for a skipped window (R120). -/
def WinAcc.sum (w : WinAcc) : Option (Nat × Flags) :=
  if !w.any then none
  else
    let (rf, fl) := rn32 w.f
    let pinf := w.pinf || decide (rf = fp32Inf)
    let ninf := w.ninf || decide (rf = fp32Code true fp32Inf)
    if w.nan then some (fp32Nan, fl)
    else if pinf && ninf then some (fp32Nan, fl ||| flInv)
    else if pinf then some (fp32Inf, fl)
    else if ninf then some (fp32Code true fp32Inf, fl)
    else some (rf, fl)

/-- The window sum of a list of terms. -/
def windowSum (ts : List Term) : Option (Nat × Flags) := (ts.foldl WinAcc.add {}).sum

/-- The long accumulator (R124). -/
structure Pair where
  hi : Nat := 0
  lo : Nat := 0
  deriving DecidableEq, Repr

/-- The flags of a fold's first step: overflow and invalid, never inexact (R124). -/
def foldFlags (fl : Flags) : Flags := fl &&& (flOvf ||| flInv)

/-- The exact error of a finite two-sum, as an FP32 pattern; a zero error is +0 (R124 step 2). -/
def sumError (a b s : Nat) : Nat := (rn32 (((val32 a).dy.add (val32 b).dy).sub (val32 s).dy)).1

/-- Fold a value into the long accumulator (R124). -/
def foldLong (p : Pair) (a : Nat) : Pair × Flags :=
  let (s, fs) := add32 p.hi a
  if isFin32 s then
    let (lo, fl) := add32 p.lo (sumError p.hi a s)
    (⟨s, lo⟩, foldFlags fs ||| fl)
  else (⟨s, p.lo⟩, foldFlags fs)

/-- The result of the long accumulator (R125). -/
def longResult (p : Pair) : Nat × Flags :=
  if isNan32 p.hi then (fp32Nan, 0)
  else if isInf32 p.hi then (p.hi, 0)
  else add32 p.hi p.lo

/-- A running sum: the accumulator, the long accumulator and the flags so far. -/
structure SumState where
  acc : Nat := 0
  long : Pair := {}
  flags : Flags := 0
  folds : Nat := 0
  deriving DecidableEq, Repr

/-- Fold acc into the long accumulator and restart it at +0 (R123). -/
def SumState.fold (s : SumState) : SumState :=
  let (l, fl) := foldLong s.long s.acc
  { acc := 0, long := l, flags := s.flags ||| fl, folds := s.folds + 1 }

/-- Add one window's sum to acc (R122). -/
def SumState.addWindow (s : SumState) (w : Option (Nat × Flags)) : SumState :=
  match w with
  | none => s
  | some (v, fl) =>
    let (a, fa) := add32 s.acc v
    { s with acc := a, flags := s.flags ||| fl ||| fa }

/-- Cut terms into windows of W. -/
def windowsOf (W : Nat) : Nat → List Term → List (List Term)
  | 0, _ => []
  | n + 1, ts => ts.take W :: windowsOf W n (ts.drop W)

/-- Run the windows in ascending order from position `j` of `n`, folding at reach ends and after the last
window (R122, R123). -/
def runWindows (L n : Nat) : Nat → List (Option (Nat × Flags)) → SumState → SumState
  | _, [], s => s
  | j, w :: ws, s =>
    let s := s.addWindow w
    let s := if (j + 1) % L = 0 ∨ j + 1 = n then s.fold else s
    runWindows L n (j + 1) ws s

/-- The state that a sum starts from: a plain C in acc, or a LONG_SUM C folded first (R121). -/
def startSum (c cLong : Option Nat) : SumState :=
  let s : SumState := { acc := c.getD 0 }
  match cLong with
  | none => s
  | some v =>
    let (l, fl) := foldLong {} v
    { s with long := l, flags := fl }

/-- The sum of window sums in the reference order, before its result is formed (Table 4.2). -/
def sumWindows (L : Nat) (ws : List (Option (Nat × Flags))) (c cLong : Option Nat) : SumState :=
  let s := startSum c cLong
  if ws.isEmpty then s.fold else runWindows L ws.length 0 ws s

/-- A sum in the reference order over K terms with windows of W and reaches of L windows (Table 4.2). -/
def refSum (W L : Nat) (ts : List Term) (c cLong : Option Nat) : Nat × Flags :=
  let n := (ts.length + W - 1) / W
  let s := sumWindows L ((windowsOf W n ts).map windowSum) c cLong
  let (r, fl) := longResult s.long
  (r, s.flags ||| fl)

/-- The partial of a part of a sharded reduction (R132): acc as a reach sum if the part lies within one
reach and has folded no LONG_SUM C, else the rounded long accumulator. -/
def refPartial (W L : Nat) (ts : List Term) (c cLong : Option Nat) : Nat × Flags :=
  let n := (ts.length + W - 1) / W
  let ws := (windowsOf W n ts).map windowSum
  if n ≤ L ∧ cLong = none then
    let s := ws.foldl SumState.addWindow (startSum c none)
    (s.acc, s.flags)
  else
    let s := sumWindows L ws c cLong
    let (r, fl) := longResult s.long
    (r, s.flags ||| fl)

/-- The sum of the values of a list in the reference order. -/
def refSumVals (W L : Nat) (vs : List Val) : Nat × Flags :=
  refSum W L (vs.map (fun v => mkTerm v valOne)) none none

/-- The sum of the squares of the values of a list in the reference order. -/
def refSumSq (W L : Nat) (vs : List Val) : Nat × Flags :=
  refSum W L (vs.map (fun v => mkTerm v v)) none none

/-- Chain combination: partials folded in ascending position (R133). -/
def chainSum (ps : List Nat) : Nat × Flags :=
  let (p, fl) := ps.foldl (fun a v => let (p, f) := foldLong a.1 v; (p, a.2 ||| f)) (({} : Pair), 0)
  let (r, f) := longResult p
  (r, fl ||| f)

/-- One node of the combination tree (R134). -/
def treeNode (a b : Pair) : Pair × Flags :=
  let (s, fs) := add32 a.hi b.hi
  if isFin32 s then
    let (l, f1) := add32 a.lo b.lo
    let (lo, f2) := add32 l (sumError a.hi b.hi s)
    (⟨s, lo⟩, foldFlags fs ||| f1 ||| f2)
  else (⟨s, 0⟩, foldFlags fs)

/-- One level of the tree: neighbours combine, a node with an empty child passes the other unchanged. -/
def treeLevel : List Pair → List Pair × Flags
  | a :: b :: rest =>
    let (n, f) := treeNode a b
    let (ns, fs) := treeLevel rest
    (n :: ns, f ||| fs)
  | ps => (ps, 0)

/-- Levels of the tree until one node is left; the fuel is the number of leaves. -/
def treeRun : Nat → List Pair → Pair × Flags
  | _, [] => ({}, 0)
  | _, [p] => (p, 0)
  | 0, p :: _ => (p, 0)
  | n + 1, ps =>
    let (qs, f) := treeLevel ps
    let (r, fs) := treeRun n qs
    (r, f ||| fs)

/-- Tree combination of partials (R134). -/
def treeSum (ps : List Nat) : Nat × Flags :=
  let (p, fl) := treeRun ps.length (ps.map (fun v => ⟨v, 0⟩))
  let (r, f) := longResult p
  (r, fl ||| f)

end Sys2Proof.Machine
end

