-- ==== Sys2Proof/Machine/CoreState.lean ====
section
/-! DEFINITION. The state of a core as plain data: matrix engines with their banks, tile queues, event lines
and what the levee and the placer keep of the core. -/

namespace Sys2Proof.Machine

/-- Accumulator bank states (Table 5.3). -/
inductive BankState where
  | idle | acc | fold | drain
  deriving DecidableEq, Repr

/-- The code of a bank state (Table 5.3). -/
def BankState.code : BankState → Nat
  | .idle => 0 | .acc => 1 | .fold => 2 | .drain => 3

/-- An accumulator bank with its long-sum array (R147), by position 64 × bank row + bank column where they differ
from +0: accumulator words, (hi, lo) pairs; and of the output tile it holds the journal entry, the reach sums that it
hands over (by reach; R131, R132, R150), the next slab, whether the last window has been added, and the flags and
poison so far. -/
structure Bank where
  state : BankState := .idle
  acc : FMap Nat := []
  long : FMap Pair := []
  sums : FMap (FMap Nat) := []
  task : Nat := 0
  slab : Nat := 0
  last : Bool := false
  flags : Flags := 0
  poisoned : Bool := false
  deriving DecidableEq, Repr

/-- A half of the operand buffer (R146): the slab pair that it holds, widened exactly (R142) and with its scales
applied: the journal entry and slab number, the first operand by 32 × bank row + index, the second by 64 × index + bank
column (+0 where not listed), and the zero marks (R145): row-windows of the first operand by 32 × row + window, windows
of the second, windows counted from the start of the slab. -/
structure SlabPair where
  task : Nat := 0
  slab : Nat := 0
  a : FMap Val := []
  b : FMap Val := []
  zeroA : List Nat := []
  zeroB : List Nat := []
  deriving DecidableEq, Repr

/-- A window register (R144): the bank and row that it serves, its window, and the exact column sums so far. -/
structure WindowReg where
  bankB : Bool
  row : Nat
  window : Nat
  cols : FMap WinAcc := []
  deriving DecidableEq, Repr

/-- A matrix engine (chapter 5): its banks, the bank that the next tile takes (false: A, R150), the two halves of its
operand buffer and the half in work (R146), its open window registers, at most 16 (R144), the two transpose buffers with
the one that the next column-contiguous drain takes (R152), parity failures since reset with the core-cycle times of
the latest, and OUT_OF_SERVICE (R162). -/
structure Me where
  bankA : Bank := {}
  bankB : Bank := {}
  nextB : Bool := false
  slab0 : SlabPair := {}
  slab1 : SlabPair := {}
  half : Nat := 0
  wregs : List WindowReg := []
  turn0 : FMap Nat := []
  turn1 : FMap Nat := []
  nextTurn : Bool := false
  faults : Nat := 0
  faultTimes : List Nat := []
  oos : Bool := false
  deriving DecidableEq, Repr

/-- Tile-queue bank states (R36). -/
inductive TqState where
  | empty | filling | full | reading
  deriving DecidableEq, Repr

/-- One bank of a tile queue with its header slot: the two header words, the payload words written so far, how many
words the segment has and how many have been read, whether it is the second segment of its tile, whether it is
delivered poisoned (R39), whether it is discarded as it arrives (R42), and the payload words that carry the poison tag (R161). -/
structure TqBank where
  state : TqState := .empty
  header : List Nat := []
  words : List Nat := []
  length : Nat := 0
  read : Nat := 0
  second : Bool := false
  poison : Bool := false
  dropped : Bool := false
  tags : List Nat := []
  deriving DecidableEq, Repr

/-- A tile queue (1.8): its banks, the banks that the producer fills and the consumer reads next (false: bank 0), whether
the producer's and the consumer's next segment is the second of a two-segment tile, whether that second segment is to
be discarded, and the words delivered last with their poison tags. The sticky bits of TQ_COUNT stand in the
register file. -/
structure TileQueue where
  bank0 : TqBank := {}
  bank1 : TqBank := {}
  fill : Bool := false
  take : Bool := false
  secondDue : Bool := false
  midTile : Bool := false
  dropSecond : Bool := false
  delivered : List (Nat × Bool) := []
  deriving DecidableEq, Repr

/-- A buffered tile in CM or in the data part of DM (R33, R315, R316): the stream's course and id (for a copy of a home's tile
`homeStream` of the tensor) and the tile index, the first byte and the bytes of the slot, and whether the tile differs from its home. -/
structure Slot where
  course : Nat
  stream : Nat
  tile : Nat
  base : Nat
  bytes : Nat
  written : Bool
  deriving DecidableEq, Repr

/-- CM of a core, or the data part of a die's DM (R24, R288): its bytes by linear address, where they differ from zero, and
its slots. -/
structure Sram where
  bytes : FMap Nat := []
  slots : List Slot := []
  deriving DecidableEq, Repr

/-- Core thermal classes (Table 16.2). -/
inductive Thermal where
  | cool | hot | throttled | hold
  deriving DecidableEq, Repr

/-- A core. `allot` is the polder whose tasks it runs, 0 for none (R478); `cap` and `step` count 50 MHz steps
above 0.40 GHz (R427), `wanted` is the step that waits for a higher voltage (R428); `lines` are the pending
counts of the event lines (R23); `energy` is what the window has charged by station, in pJ, `base` what it
has charged for the static part or the leakage, `last` what the window before was accounted, and `allow` the
allowance (R430); `hangs` and `ues` the core-cycle times of engine hangs and uncorrectable
SRAM words that count towards retirement (R456); `cm` its core memory (R287, R288). -/
structure Core where
  retired : Bool := false
  allot : Nat := 0
  thermal : Thermal := .cool
  cap : Nat := 24
  step : Nat := 24
  wanted : Option Nat := none
  idle : Bool := false
  hotWindows : Nat := 0
  moveWindows : Nat := 100
  energy : FMap Nat := []
  base : Nat := 0
  last : Nat := 0
  allow : Nat := 0
  hangs : List Nat := []
  ues : List Nat := []
  lines : FMap Nat := []
  queues : FMap TileQueue := []
  mes : FMap Me := []
  cm : Sram := {}
  deriving DecidableEq, Repr

end Sys2Proof.Machine
end

