-- ==== Sys2Proof/Machine/Aes.lean ====
section
/-! DEFINITION. XTS-AES-256 as IEEE 1619 defines it (R329): the AES-256 block cipher and the XTS mode over one
64-byte data unit. PRESUMED (log entry 84): the cipher's tables are those of FIPS 197 and IEEE 1619, which R329 names. -/

namespace Sys2Proof.Machine

/-- Multiplication in GF(2^8) modulo a polynomial of degree 8, over `n` bits of the second factor. -/
def gfMulFrom (poly : Nat) : Nat → Nat → Nat → Nat
  | 0, _, _ => 0
  | n + 1, a, b =>
    let a2 := if 128 ≤ a then (2 * a) ^^^ poly else 2 * a
    (if b % 2 = 1 then a else 0) ^^^ gfMulFrom poly n a2 (b / 2)

/-- Multiplication in AES's field, polynomial 0x11B. -/
def aesMul (a b : Nat) : Nat := gfMulFrom 0x11B 8 a b

/-- A power in AES's field. -/
def aesPow (a : Nat) : Nat → Nat
  | 0 => 1
  | n + 1 => aesMul a (aesPow a n)

/-- Rotate a byte left. -/
def rotByte (b n : Nat) : Nat := (b * 2 ^ n % 256) ||| (b / 2 ^ (8 - n))

/-- The S-box: the inverse in the field, then the affine map. -/
def aesSbox (b : Nat) : Nat :=
  let i := aesPow b 254
  i ^^^ rotByte i 1 ^^^ rotByte i 2 ^^^ rotByte i 3 ^^^ rotByte i 4 ^^^ 0x63

/-- The inverse S-box: the inverse affine map, then the inverse in the field. -/
def aesInvSbox (b : Nat) : Nat :=
  let c := rotByte b 1 ^^^ rotByte b 3 ^^^ rotByte b 6 ^^^ 0x05
  aesPow c 254

/-- XOR of byte lists (as numbers). -/
def xorList (a b : List Nat) : List Nat := List.zipWith (· ^^^ ·) a b

/-- Round constant `i` of the key schedule, from 1. -/
def aesRcon (i : Nat) : Nat := aesPow 2 (i - 1)

/-- The next word of the AES-256 key schedule from the words so far, latest first; `n` words exist. -/
def aesNextWord (n : Nat) (ws : List (List Nat)) : List Nat :=
  let prev := ws.headD [0, 0, 0, 0]
  let base := ws.getD 7 [0, 0, 0, 0]
  let t :=
    if n % 8 = 0 then
      xorList ((prev.drop 1 ++ prev.take 1).map aesSbox) [aesRcon (n / 8), 0, 0, 0]
    else if n % 8 = 4 then prev.map aesSbox
    else prev
  xorList base t

/-- Extend the key schedule by `k` words. -/
def aesExtend : Nat → Nat → List (List Nat) → List (List Nat)
  | 0, _, ws => ws
  | k + 1, n, ws => aesExtend k (n + 1) (aesNextWord n ws :: ws)

/-- Cut a list into words of four. -/
def wordsOf4 : Nat → List Nat → List (List Nat)
  | 0, _ => []
  | n + 1, bs => bs.take 4 :: wordsOf4 n (bs.drop 4)

/-- The 15 round keys of a 32-byte key. -/
def aesRoundKeys (key : List Nat) : List (List Nat) :=
  let ws := (aesExtend 52 8 (wordsOf4 8 key).reverse).reverse
  (List.range 15).map (fun i => ((ws.drop (4 * i)).take 4).flatten)

/-- Move row r of the state left by r places (or right, for the inverse). -/
def aesShiftRows (inv : Bool) (st : List Nat) : List Nat :=
  (List.range 16).map (fun i =>
    let r := i % 4
    let c := i / 4
    st.getD (4 * ((if inv then c + 4 - r else c + r) % 4) + r) 0)

/-- Multiply each column by a circulant matrix. -/
def aesMixColumns (m : List Nat) (st : List Nat) : List Nat :=
  (List.range 16).map (fun i =>
    let r := i % 4
    let c := i / 4
    (List.range 4).foldl (fun a k => a ^^^ aesMul (m.getD ((k + 4 - r) % 4) 0) (st.getD (4 * c + k) 0)) 0)

/-- Encrypt one 16-byte block with round keys. -/
def aesEncrypt (ks : List (List Nat)) (b : List Nat) : List Nat :=
  let st := xorList b (ks.getD 0 [])
  let st := (List.range 13).foldl (fun st i =>
    xorList (aesMixColumns [2, 3, 1, 1] (aesShiftRows false (st.map aesSbox))) (ks.getD (i + 1) [])) st
  xorList (aesShiftRows false (st.map aesSbox)) (ks.getD 14 [])

/-- Decrypt one 16-byte block with round keys. -/
def aesDecrypt (ks : List (List Nat)) (b : List Nat) : List Nat :=
  let st := xorList b (ks.getD 14 [])
  let st := (List.range 13).foldl (fun st i =>
    aesMixColumns [14, 11, 13, 9] (xorList ((aesShiftRows true st).map aesInvSbox) (ks.getD (13 - i) []))) st
  xorList ((aesShiftRows true st).map aesInvSbox) (ks.getD 0 [])

/-- Multiply an XTS tweak, little-endian, by α. -/
def xtsDouble (t : List Nat) : List Nat :=
  let v := t.foldr (fun b a => b + 256 * a) 0
  let w := 2 * v
  let w := if 2 ^ 128 ≤ w then (w - 2 ^ 128) ^^^ 0x87 else w
  (List.range 16).map (fun i => w / 256 ^ i % 256)

/-- Run the four blocks of a line through XTS. -/
def xtsBlocks (f : List Nat → List Nat) : Nat → List Nat → List Nat → List Nat
  | 0, _, _ => []
  | n + 1, t, bs => xorList (f (xorList (bs.take 16) t)) t ++ xtsBlocks f n (xtsDouble t) (bs.drop 16)

/-- A line under XTS-AES-256: `key` is the pair of 32-byte keys, `tweak` the 128-bit tweak (R329). -/
def xtsLine (encrypt : Bool) (key : List Byte) (tweak : Nat) (line : List Byte) : List Byte :=
  let k := key.map (·.toNat)
  let k1 := aesRoundKeys (k.take 32)
  let k2 := aesRoundKeys ((k.drop 32).take 32)
  let t := aesEncrypt k2 ((List.range 16).map (fun i => tweak / 256 ^ i % 256))
  (xtsBlocks (if encrypt then aesEncrypt k1 else aesDecrypt k1) 4 t (line.map (·.toNat))).map (BitVec.ofNat 8)

end Sys2Proof.Machine
end

