-- ==== Sys2Proof/Machine/LineCode.lean ====
section
/-! DEFINITION. Line protection (12.3): the RS(72,64) code of R322, the poison mark of R324 and decoding in the
modes of Table 12.3. -/

namespace Sys2Proof.Machine

/-- A stored line: 64 data bytes and 8 check bytes (R322). -/
structure Line where
  data : List Byte := List.replicate 64 0
  check : List Byte := List.replicate 8 0
  deriving DecidableEq, Repr

/-- Multiplication in the code's field, polynomial 0x11D (R322). -/
def rsMul (a b : Nat) : Nat := gfMulFrom 0x11D 8 a b

/-- A power of an element of the field. -/
def rsPow (a : Nat) : Nat → Nat
  | 0 => 1
  | n + 1 => rsMul a (rsPow a n)

/-- α to a power, α = 0x02. -/
def rsAlpha (n : Nat) : Nat := rsPow 2 n

/-- The inverse of a non-zero element. -/
def rsInv (a : Nat) : Nat := rsPow a 254

/-- Multiply a polynomial, coefficients from the highest, by x − r. -/
def rsTimesRoot (p : List Nat) (r : Nat) : List Nat :=
  List.zipWith (· ^^^ ·) (p ++ [0]) (0 :: p.map (rsMul r))

/-- The generator g(x), coefficients from x^8 down (R322). -/
def rsGenerator : List Nat := (List.range 8).foldl (fun p i => rsTimesRoot p (rsAlpha i)) [1]

/-- One data byte into the division register, coefficients x^7 down to x^0. -/
def rsStep (reg : List Nat) (d : Nat) : List Nat :=
  let f := d ^^^ reg.headD 0
  List.zipWith (· ^^^ ·) (reg.drop 1 ++ [0]) ((rsGenerator.drop 1).map (rsMul f))

/-- The check bytes of 64 data bytes (R322): byte j is the coefficient of x^(7 − j). -/
def rsCheck (data : List Byte) : List Byte :=
  ((data.map (·.toNat)).foldl rsStep (List.replicate 8 0)).map (BitVec.ofNat 8)

/-- A line with valid check bytes. -/
def goodLine (data : List Byte) : Line := { data := data, check := rsCheck data }

/-- The poison mark: valid check bytes with every bit inverted (R324). -/
def markedLine (data : List Byte) : Line := { data := data, check := (rsCheck data).map (~~~ ·) }

/-- The 72 symbols of a line, from the coefficient of x^71 down. -/
def Line.symbols (l : Line) : List Nat := (l.data ++ l.check).map (·.toNat)

/-- Syndrome i: the word's polynomial at α^i. -/
def syndrome (w : List Nat) (i : Nat) : Nat := w.foldl (fun a c => rsMul a (rsAlpha i) ^^^ c) 0

/-- The eight syndromes. -/
def syndromes (w : List Nat) : List Nat := (List.range 8).map (syndrome w)

/-- The word is a codeword. -/
def isCodeword (w : List Nat) : Bool := (syndromes w).all (· == 0)

/-- Clear a column below and above a pivot row; rows are augmented. -/
def eliminate (piv : List Nat) (c : Nat) (row : List Nat) : List Nat :=
  let f := row.getD c 0
  List.zipWith (fun a b => a ^^^ rsMul f b) row piv

/-- Gauss-Jordan elimination from column `c` of `n`, on rows still unused and rows already reduced. -/
def gaussFrom : Nat → Nat → List (List Nat) → List (List Nat) → Option (List (List Nat))
  | 0, _, _, used => some used
  | n + 1, c, rows, used =>
    match rows.find? (fun r => r.getD c 0 ≠ 0) with
    | none => none
    | some r =>
      let inv := rsInv (r.getD c 0)
      let p := r.map (rsMul inv)
      gaussFrom n (c + 1) ((rows.erase r).map (eliminate p c)) (used.map (eliminate p c) ++ [p])

/-- Solve n equations in n unknowns, each row with its right side last. -/
def rsSolve (n : Nat) (rows : List (List Nat)) : Option (List Nat) :=
  (gaussFrom n 0 rows []).map (fun rs => rs.map (fun r => r.getD n 0))

/-- The powers of x at which a locator polynomial of degree ν, λ from x^0 up and monic, vanishes. -/
def locatorRoots (lam : List Nat) : List Nat :=
  (List.range 72).filter (fun e =>
    decide ((lam ++ [1]).reverse.foldl (fun a c => rsMul a (rsAlpha e) ^^^ c) 0 = 0))

/-- Correct exactly ν bad symbols, if that gives a codeword. -/
def correctExactly (w : List Nat) (nu : Nat) : Option (List Nat) :=
  let s := syndromes w
  match rsSolve nu ((List.range nu).map (fun i => (List.range (nu + 1)).map (fun j => s.getD (i + j) 0))) with
  | none => none
  | some lam =>
    let es := locatorRoots lam
    if es.length ≠ nu then none
    else
      match rsSolve nu ((List.range nu).map (fun i =>
          es.map (fun e => rsPow (rsAlpha e) i) ++ [s.getD i 0])) with
      | none => none
      | some ys =>
        let fix := es.zip ys
        let w' := (w.zip (List.range 72)).map (fun q =>
          match fix.find? (fun f => f.1 = 71 - q.2) with
          | some f => q.1 ^^^ f.2
          | none => q.1)
        if isCodeword w' then some w' else none

/-- The codeword within `t` bad symbols, and how many were corrected. -/
def correctUpTo (w : List Nat) : Nat → Option (List Nat × Nat)
  | 0 => none
  | t + 1 =>
    match correctUpTo w t with
    | some r => some r
    | none => (correctExactly w (t + 1)).map (fun v => (v, t + 1))

/-- Bad bytes that a mode corrects (Table 12.3). -/
def eccRadius (mode : Nat) : Nat := if mode = 0 then 4 else if mode = 1 then 2 else 0

/-- The line of 72 symbols. -/
def lineOf (w : List Nat) : Line :=
  let b := w.map (BitVec.ofNat 8)
  { data := b.take 64, check := b.drop 64 }

/-- What decoding a line gives, after the directory step (R324 steps 2 to 5). -/
inductive LineRead where
  | clean
  | mark
  | corrected (line : Line) (bytes : Nat)
  | bad
  deriving DecidableEq, Repr

/-- Decode a line in a mode (R324). -/
def decodeLine (mode : Nat) (l : Line) : LineRead :=
  if isCodeword l.symbols then .clean
  else if isCodeword ({ l with check := l.check.map (~~~ ·) } : Line).symbols then .mark
  else
    match correctUpTo l.symbols (eccRadius mode) with
    | some (w, n) => .corrected (lineOf w) n
    | none => .bad

end Sys2Proof.Machine
end

