-- ==== Sys2Proof/Machine/NetState.lean ====
section
/-! DEFINITION. The state of the network as plain data: Dunnath sessions (13.3), ports, MACsec associations (R339),
RoCEv2 queue pairs (R348), exchange channels (R354) and expert traffic (14.6). -/

namespace Sys2Proof.Machine

/-- A packet that was sent and is not acknowledged (R345): its port, its retransmissions so far, and itself with its payload. -/
structure TxPacket where
  port : Nat
  retries : Nat := 0
  hdr : DnHdr
  msg : NetMsg
  data : List Byte := []
  deriving DecidableEq, Repr

/-- A Dunnath session with a peer (R344 to R346). `room` is the payload that the peer's credit still allows, in bytes;
`granted` is what the peer may still send, `freed` what it has used and was not granted again; `queue` waits for
credit, a port or the session (LEN there is the whole message's), `held` waits for earlier PSNs, `sinceAck` counts packets since the last ACK.
`grants` are the exchange instances (course, station, port, attempt) that the peer runs (R346). -/
structure DnSession where
  isOpen : Bool := false
  closed : Bool := false
  version : Nat := 0
  rxId : Nat := 0
  txId : Nat := 0
  txNext : Nat := 0
  rxNext : Nat := 0
  unacked : List TxPacket := []
  queue : List (DnHdr × NetMsg) := []
  held : List (DnHdr × NetMsg) := []
  room : Nat := 0
  granted : Nat := 0
  freed : Nat := 0
  sinceAck : Nat := 0
  grants : List (Nat × Nat × Nat × Nat) := []
  deriving DecidableEq, Repr

/-- A MACsec secure association (R339, Table 15.9), with its next packet number. -/
structure MacSa where
  port : Nat
  sub : Nat
  transmit : Bool
  sc : Nat
  an : Nat
  ssci : Nat
  salt : List Byte
  key : List Byte
  pn : Nat := 1
  deriving DecidableEq, Repr

/-- A RoCEv2 queue pair (R348): its landing tensor, the remote QPN and key, the next expected PSN, the home offset
where the next bytes of a SEND or of a WRITE in progress go, and the message in progress (true: a WRITE). -/
structure RoceQp where
  qp : Nat
  tensor : Nat
  remote : Nat
  key : Nat
  psn : Nat := 0
  next : Nat := 0
  message : Option Bool := none
  deriving DecidableEq, Repr

/-- An exchange instance (R354): STEP, COURSE_ID, station id and input port. -/
structure XKey where
  step : Nat
  course : Nat
  station : Nat
  port : Nat
  deriving DecidableEq, Repr

/-- An exchange channel: the instances started on it and the one that has not left it. -/
structure XChan where
  count : Nat := 0
  current : Option XKey := none
  deriving DecidableEq, Repr

/-- What a participant has handed on for a chunk, as it arrived: the sender, the instance, its leg, its payload and its VETO. -/
structure XPart where
  device : Nat
  key : XKey
  leg : Nat
  veto : Bool
  load : XLoad
  deriving DecidableEq, Repr

/-- A packet that the device has sent for an instance: the tile, the leg and the device that takes it. -/
structure XSend where
  key : XKey
  tile : Nat
  leg : Nat
  dst : Nat
  deriving DecidableEq, Repr

/-- An expert of a grouped station whose owner is another device (14.6): the scheme chosen, whether the request was
sent, the schemes that an owner's or the own warden refused (true: shipping), the blocks that were fetched, the output tiles
that were answered, and whether the answer is complete. -/
structure ExpertReq where
  key : ExpertKey
  owner : Nat
  shipped : Bool
  sent : Bool := false
  denied : List Bool := []
  blocks : List Tile := []
  answers : List Tile := []
  done : Bool := false
  deriving DecidableEq, Repr

/-- Work that this device does for a requester (R380, R387): a fetch or a shipped expert, with the rows that came. -/
structure Served where
  peer : Nat
  key : ExpertKey
  epoch : Nat
  attempt : Nat
  rows : List Tile := []
  deriving DecidableEq, Repr

/-- A block in a die's expert cache (R382). -/
structure CacheEntry where
  die : Nat
  tensor : Nat
  gen : Nat
  x : Tile
  deriving DecidableEq, Repr

/-- A CANCEL that came (R387): from a peer, for a course, with its new epoch. -/
structure Cancelled where
  peer : Nat
  course : Nat
  epoch : Nat
  deriving DecidableEq, Repr

/-- The network's state. `rounds` keeps what STEP_DONE messages brought, by sender (R360); `window` counts each port's violations of the running 1 ms window, `limit` is the VIOL_LIMIT
in force for it, `fresh` the ports that came back to service in that window and count from the next one on, `noRefclk` the dies whose ETH_REFCLK is lost, `cancels` the CANCELs that came. -/
structure NetState where
  sessions : FMap DnSession := []
  nextId : Nat := 1
  window : FMap Nat := []
  limit : Nat := 1024
  fresh : List Nat := []
  sas : List MacSa := []
  qps : List RoceQp := []
  channels : FMap XChan := []
  inbox : List XPart := []
  xsent : List XSend := []
  rounds : List (Nat × StepRound) := []
  requests : List ExpertReq := []
  served : List Served := []
  cache : List CacheEntry := []
  cancels : List Cancelled := []
  noRefclk : List Nat := []
  deriving DecidableEq, Repr

end Sys2Proof.Machine
end

