-- ==== Sys2Proof/Machine/PowerState.lean ====
section
/-! DEFINITION. The state of the levee, the power states, Iluny, the pair and the module boundary as plain data
(chapters 16, 17 and 21). -/

namespace Sys2Proof.Machine

/-- A die's core rail (R427 to R429): the last acknowledged voltage in mV, the request that is not acknowledged, the
lowest voltage ordered since that acknowledgement, rail
faults in a row, whether the rail is locked, and the windows left in which no raise is requested. -/
structure Rail where
  mv : Nat := 700
  request : Option Nat := none
  low : Option Nat := none
  faults : Nat := 0
  locked : Bool := false
  noRaise : Nat := 0
  deriving DecidableEq, Repr

/-- The levee (16.1 to 16.5): k in units of 1/128, the measured non-core energy of the last window in µJ, whether the rail
telemetry of the window is missing, and by sensor number (8 × die + sensor) the last reading, the windows without one
and the sensors that are taken at their throttle limit. -/
structure Levee where
  calib : Nat := 128
  nonCore : Nat := 0
  missing : Bool := false
  temps : FMap Nat := []
  silent : FMap Nat := []
  limited : List Nat := []
  rails : FMap Rail := []
  deriving DecidableEq, Repr

/-- Where the package stands between power-down and operation (R465, R529 to R531): `off` without main power, `held` in
reset with its rails on, `run`, and `saving` while a freeboard save runs. -/
inductive Phase where
  | off | held | run | saving
  deriving DecidableEq, Repr

/-- The control cluster (R27, R29): the die-0 cluster, a takeover in progress, the mirror of die 1, or none. -/
inductive Cluster where
  | first | taking | mirror | failed
  deriving DecidableEq, Repr

/-- Iluny and the always-on island (1.5, 16.7, 21.6), which no PCIe reset touches. `ready` says that it has left power-on
reset and finished its checks, `mated` that MATE_LAST reads low, `mateLive` that a live mating is to be logged,
`input` that the 54 V input is there, `stopped` that a trip or a failed power-up keeps the module down; `cap` is the index
that it caps the level to, `release` its release at the next window, `overvolt` an input above 56.0 V, `overReads` the
readings in a row over the guard, `reading` the last 1 ms reading in W, `airHot` that the
air side stands above 45 °C; `beat` says that the cluster has written its heartbeat, `railTries` counts the
rail faults of the power-up or exit that runs, `retired` is the core retirement map, and
`searched` says that the resume search of this power-up has run (R470). -/
structure Iluny where
  ready : Bool := true
  mated : Bool := true
  mateLive : Bool := false
  input : Bool := true
  stopped : Bool := false
  cap : Option Nat := none
  release : Bool := false
  overvolt : Bool := false
  overReads : Nat := 0
  reading : Nat := 0
  airHot : Bool := false
  beat : Bool := true
  searched : Bool := true
  railTries : FMap Nat := []
  retired : List Nat := []
  jtag : JtagIr := .idcode
  deriving DecidableEq, Repr

/-- The power state (16.9): the state that the device is in (Table 16.7 code), the one chosen (R437), PWR_MODE, the
wake source of an exit that runs, and the sessions that it reopens (R439). `perst` is the level of PERST# (true: asserted),
`image` says that the control region holds the firmware image of the control processors (R25, R436), and `mgmt` that the
pair-internal management link is up (R30). -/
structure PowerState where
  phase : Phase := .run
  perst : Bool := false
  cluster : Cluster := .first
  state : Nat := 0
  chosen : Nat := 0
  target : Nat := 0
  keep : Bool := false
  exiting : Option Nat := none
  reopen : List Nat := []
  image : Bool := false
  mgmt : Bool := true
  levee : Levee := {}
  iluny : Iluny := {}
  deriving DecidableEq, Repr

end Sys2Proof.Machine
end

