-- ==== Sys2Proof/Machine/VeFunc.lean ====
section
/-! DEFINITION. The exponent operations of a VE (R274), comparisons (R273) and the microcoded functions with
their sequences, constants and flags (R278, R279, Tables 10.4 and 10.5), on FP32 patterns. -/

namespace Sys2Proof.Machine

/-! ## Exponent operations and comparisons -/

/-- The FP32 pattern of an integer of small magnitude, exactly. -/
def int32 (n : Int) : Nat := (rn32 ⟨n, 0⟩).1

/-- SPLIT: |A| = m × 2^e with m in [1, 2), or, with EVEN, an even e and m in [1, 4) (R274). -/
def split32 (even : Bool) (a : Nat) : Nat × Nat :=
  match val32 a with
  | .nan => (fp32Nan, fp32Nan)
  | .inf _ => (fp32Inf, 0)
  | .fin _ m x =>
    if m = 0 then (0, 0)
    else
      let lg := Nat.log2 m
      let e : Int := (lg : Int) + x
      let up := even && decide (e % 2 = 1)
      let e' := if up then e - 1 else e
      ((rn32 ⟨m, x - e'⟩).1, int32 e')

/-- The integer behind an FP32 pattern, where it is a finite integer. -/
def toInt32 (b : Nat) : Option Int :=
  match val32 b with
  | .fin n m e =>
    if 0 ≤ e then some ((if n then -1 else 1) * (m : Int) * 2 ^ e.toNat)
    else if m % 2 ^ (-e).toNat = 0 then some ((if n then -1 else 1) * ((m / 2 ^ (-e).toNat : Nat) : Int))
    else none
  | _ => none

/-- The exponent of a JOIN, held to where every further power gives the same result: beyond ±1024 any
finite A has overflowed or vanished. -/
def clampExp (k : Int) : Int := max (-1024) (min 1024 k)

/-- JOIN: A × 2^B, exactly and rounded once; a B that is not a finite integer is invalid (R274). -/
def join32 (a b : Nat) : Nat × Flags :=
  match val32 a, val32 b with
  | .nan, _ => (fp32Nan, 0)
  | _, .nan => (fp32Nan, 0)
  | va, _ =>
    match toInt32 b with
    | none => (fp32Nan, flInv)
    | some k =>
      match va with
      | .fin n m e => rn32Mag n m (e + clampExp k)
      | v => ofVal32 v

/-- Equality under R89. -/
def eq32 (a b : Nat) : Bool := (val32 a).eqv (val32 b)

/-- Less-than under R89. -/
def lt32 (a b : Nat) : Bool := (val32 a).lt (val32 b)

/-- MIN and MAX with −0 below +0; a NaN gives the default NaN (R273). -/
def minmax32 (max : Bool) (a b : Nat) : Nat :=
  if isNan32 a || isNan32 b then fp32Nan
  else
    let less := lt32 a b || (eq32 a b && a.testBit 31 && !b.testBit 31)
    if less != max then a else b

/-- |x|. -/
def abs32 (a : Nat) : Nat := a % 2 ^ 31

/-- MOVS copy sign: A with the sign of B; a NaN gives the default NaN (R274). -/
def copysign32 (a b : Nat) : Nat :=
  if isNan32 a then fp32Nan else a % 2 ^ 31 + (if b.testBit 31 then 2 ^ 31 else 0)

/-- Negation as MOVS makes it. -/
def movneg32 (a : Nat) : Nat := if isNan32 a then fp32Nan else neg32 a

/-! ## The sequences (Table 10.5) -/

/-- Rounded sum, flags discarded. -/
def qAdd (a b : Nat) : Nat := (add32 a b).1
/-- Rounded difference, flags discarded. -/
def qSub (a b : Nat) : Nat := (sub32 a b).1
/-- Rounded product, flags discarded. -/
def qMul (a b : Nat) : Nat := (mul32 a b).1
/-- Rounded A × B + C, flags discarded. -/
def qFma (a b c : Nat) : Nat := (fma32 a b c).1
/-- Rounded C − A × B, flags discarded. -/
def qFms (a b c : Nat) : Nat := (fma32 (movneg32 a) b c).1
/-- A × 2^B, flags discarded. -/
def qJoin (a b : Nat) : Nat := (join32 a b).1

/-- 1.0. -/
def c1 : Nat := 0x3F800000
/-- 2.0. -/
def c2 : Nat := 0x40000000
/-- 0.5. -/
def cHalf : Nat := 0x3F000000

/-- The polynomial p(r) = Σ Ck r^(k−1) … down to C2, as EXP and TANH use it. -/
def expPoly (r : Nat) : Nat :=
  let p := qFma 0x39500CFF r 0x3AB60B61
  let p := qFma p r 0x3C088889
  let p := qFma p r 0x3D2AAAAB
  let p := qFma p r 0x3E2AAAAB
  qFma p r 0x3F000000

/-- EXP. -/
def seqExp (x : Nat) : Nat :=
  let t := qMul x 0x3FB8AA3B
  let n := qSub (qAdd t 0x4B400000) 0x4B400000
  let r := qFms n 0x3F317200 x
  let r := qFms n 0x35BFBE8E r
  let p := expPoly r
  let p := qFma p r c1
  let p := qFma p r c1
  let y := qJoin p n
  let y := if lt32 0x42B17217 x then fp32Inf else y
  if lt32 x 0xC2CFF1B4 then 0 else y

/-- One refinement of RCP. -/
def rcpStep (m y : Nat) : Nat := qFma y (qFms m y c1) y

/-- RCP. -/
def seqRcp (x : Nat) : Nat :=
  let a := if isNan32 x then fp32Nan else abs32 x
  let s := split32 false a
  let m := s.1
  let t := qSub m 0x3FC00000
  let y := qFma t 0x3EAAAAAB 0xBF000000
  let y := qFma y t 0x3F2AAAAB
  let y := rcpStep m (rcpStep m (rcpStep m y))
  let y := qJoin y (movneg32 s.2)
  let y := if eq32 a 0 then fp32Inf else y
  let y := if eq32 a fp32Inf then 0 else y
  copysign32 y x

/-- One refinement of RSQ. -/
def rsqStep (m y : Nat) : Nat :=
  let h := qMul m y
  let q := qFms h y c1
  let g := qMul y cHalf
  qFma g q y

/-- RSQ. -/
def seqRsq (x : Nat) : Nat :=
  let s := split32 true x
  let m := s.1
  let t := qSub m 0x40200000
  let y := qFma t 0x3D55FBB5 0xBE2AAAAB
  let y := qFma y t 0x3F21E8AB
  let y := rsqStep m (rsqStep m (rsqStep m (rsqStep m y)))
  let y := qJoin y (qMul s.2 0xBF000000)
  let y := if eq32 x 0 then fp32Inf else y
  let y := if eq32 x fp32Inf then 0 else y
  let y := if lt32 x 0 then fp32Nan else y
  copysign32 y x

/-- LOG. -/
def seqLog (x : Nat) : Nat :=
  let s := split32 false x
  let b := lt32 0x3FB504F3 s.1
  let m := if b then qJoin s.1 0xBF800000 else s.1
  let e := if b then qAdd s.2 c1 else s.2
  let f := qSub m c1
  let d := qAdd f c2
  let q := seqRcp d
  let u := qMul f q
  let z := qMul u u
  let p := qFma 0x3E638E39 z 0x3E924925
  let p := qFma p z 0x3ECCCCCD
  let p := qFma p z 0x3F2AAAAB
  let w := qMul u z
  let l := qFma w p (qAdd u u)
  let l := qFma e 0x35BFBE8E l
  let l := qFma e 0x3F317200 l
  let l := if eq32 x 0 then 0xFF800000 else l
  let l := if lt32 x 0 then fp32Nan else l
  if eq32 x fp32Inf then fp32Inf else l

/-- TANH. -/
def seqTanh (x : Nat) : Nat :=
  let a := if isNan32 x then fp32Nan else abs32 x
  let y := qAdd a a
  let q := qFma (expPoly y) y c1
  let k := qMul y q
  let g := qSub (seqExp y) c1
  let em := if lt32 0x3EB17218 y || isNan32 y then g else k
  let d := qAdd em c2
  let r := seqRcp d
  let t := qMul em r
  let t := if lt32 a 0x41180000 || isNan32 a then t else c1
  let t := if lt32 a 0x39800000 then a else t
  copysign32 t x

/-- SIGMOID. -/
def seqSigmoid (x : Nat) : Nat := seqRcp (qAdd (seqExp (movneg32 x)) c1)

/-- SILU. -/
def seqSilu (x : Nat) : Nat := qMul x (seqSigmoid x)

/-- SILU_D. -/
def seqSiluD (x : Nat) : Nat :=
  let s := seqSigmoid x
  qAdd (qMul (qMul s (qSub c1 s)) x) s

/-- σ(1.702x) as GELU_SIG forms it in lines 1 to 36. -/
def seqGeluGate (x : Nat) : Nat := seqRcp (qAdd (seqExp (qMul x 0xBFD9DB23)) c1)

/-- GELU_SIG. -/
def seqGeluSig (x : Nat) : Nat := qMul x (seqGeluGate x)

/-- GELU_SIG_D. -/
def seqGeluSigD (x : Nat) : Nat :=
  let s := seqGeluGate x
  qFma (qMul (qMul s (qSub c1 s)) x) 0x3FD9DB23 s

/-- tanh of the inner polynomial of GELU_TANH, with u = x². -/
def seqGeluTh (x u : Nat) : Nat :=
  seqTanh (qMul (qMul (qFma u 0x3D372713 c1) x) 0x3F4C422A)

/-- GELU_TANH. -/
def seqGeluTanh (x : Nat) : Nat :=
  let th := seqGeluTh x (qMul x x)
  qMul (qMul x cHalf) (qAdd th c1)

/-- GELU_TANH_D. -/
def seqGeluTanhD (x : Nat) : Nat :=
  let u := qMul x x
  let th := seqGeluTh x u
  let q := qFms th th c1
  let w := qMul u 0x3D372713
  let w := qFma w 0x40400000 c1
  let w := qMul (qMul (qMul w 0x3F4C422A) q) x
  qMul (qAdd (qAdd th c1) w) cHalf

/-! ## The functions and their flags (Table 10.4) -/

/-- The microcoded functions. -/
inductive VeFn where
  | rcp | rsq | exp | log | tanh | sigmoid | silu | siluD | geluSig | geluSigD | geluTanh | geluTanhD
  deriving DecidableEq, Repr

/-- The function of IMM 4:0; the other codes are reserved. -/
def veFnOf : Nat → Option VeFn
  | 0x00 => some .rcp | 0x01 => some .rsq | 0x02 => some .exp | 0x03 => some .log
  | 0x04 => some .tanh | 0x05 => some .sigmoid | 0x06 => some .silu | 0x07 => some .siluD
  | 0x08 => some .geluSig | 0x09 => some .geluSigD | 0x0A => some .geluTanh | 0x0B => some .geluTanhD
  | _ => none

/-- The bits of a function: its sequence as written. -/
def VeFn.seq : VeFn → Nat → Nat
  | .rcp => seqRcp | .rsq => seqRsq | .exp => seqExp | .log => seqLog | .tanh => seqTanh
  | .sigmoid => seqSigmoid | .silu => seqSilu | .siluD => seqSiluD | .geluSig => seqGeluSig
  | .geluSigD => seqGeluSigD | .geluTanh => seqGeluTanh | .geluTanhD => seqGeluTanhD

/-- A finite delivered result `y` and an exact rational condition on it. -/
def exactBy (y : Nat) (p : Dy → Bool) : Bool :=
  match val32 y with
  | .fin n m e => p (Val.fin n m e).dy
  | _ => false

/-- y × x = 1 exactly. -/
def isReciprocal (x y : Nat) : Bool :=
  exactBy y (fun d => decide (((d.mul (val32 x).dy).sub ⟨1, 0⟩).m = 0))

/-- y² × x = 1 exactly. -/
def isRoot (x y : Nat) : Bool :=
  exactBy y (fun d => decide ((((d.mul d).mul (val32 x).dy).sub ⟨1, 0⟩).m = 0))

/-- The value of a function at ±0, where it is known exactly; elsewhere on the finite numbers (but for LOG
at 1) the value of these functions is not a dyadic number. -/
def VeFn.atZero : VeFn → Option Nat
  | .exp => some c1
  | .tanh => some 0 | .silu => some 0 | .geluSig => some 0 | .geluTanh => some 0
  | .sigmoid => some cHalf | .siluD => some cHalf | .geluSigD => some cHalf | .geluTanhD => some cHalf
  | _ => none

/-- Does a finite input's delivered result differ from the exact value of the function? -/
def VeFn.differs (f : VeFn) (x y : Nat) : Bool :=
  match f with
  | .rcp => !isReciprocal x y
  | .rsq => !isRoot x y
  | .log => !(x == c1 && y == 0)
  | _ => if (val32 x).isZero then (match f.atZero with | some z => !eq32 y z | none => true) else true

/-- Where the exact value of a function at a finite non-zero input has a magnitude below 2^-126. The bounds
for EXP, SIGMOID, SILU and the GELU forms are the FP32 numbers next to the real solutions. -/
def VeFn.tinyAt (f : VeFn) (x : Nat) : Bool :=
  let a := abs32 x
  let neg := x.testBit 31
  match f with
  | .rcp => decide (0x7E800000 < a)
  | .exp => neg && decide (0x42AEAC50 ≤ a)
  | .sigmoid => neg && decide (0x42AEAC50 ≤ a)
  | .silu => decide (a < 0x01000000) || (neg && decide (a = 0x01000000 ∨ 0x42B7B6AC ≤ a))
  | .geluSig => decide (a < 0x01000000) || (neg && decide (a = 0x01000000 ∨ 0x42569DB2 ≤ a))
  | .geluTanh => decide (a < 0x01000000) || (neg && decide (a = 0x01000000 ∨ 0x41219C36 ≤ a))
  | _ => false

/-- The flags of a function at input `x` with delivered result `y` (R278): only those that Table 10.4 lists
for it, and none for a NaN input, for a zero whose result the table gives, or for an exact result. At an
infinity the exact value is the function's limit, which a delivered NaN is not. -/
def VeFn.flags (f : VeFn) (x y : Nat) : Flags :=
  match val32 x with
  | .nan => 0
  | .inf n => if n && (f == .rsq || f == .log) then flInv else flIf (isNan32 y) flInx
  | .fin n m _ =>
    if m = 0 && (f == .rcp || f == .rsq || f == .log) then 0
    else if n && (f == .rsq || f == .log) then flInv
    else
      let d := f.differs x y
      flIf d flInx ||| flIf (isInf32 y && (f == .rcp || f == .exp)) flOvf
        ||| flIf (d && f.tinyAt x) flUnf

/-- FUNC: the delivered bits and the flags; a NaN input gives the default NaN. -/
def VeFn.run (f : VeFn) (x : Nat) : Nat × Flags :=
  if isNan32 x then (fp32Nan, 0) else (f.seq x, f.flags x (f.seq x))

end Sys2Proof.Machine
end

