-- ==== Sys2Proof/Machine/Reduce.lean ====
section
/-! DEFINITION. Reductions of one sequence of values by kind (Tables 4.8 and 4.9), as the REDUCE station and
the RED instruction of a VE run them. -/

namespace Sys2Proof.Machine

/-- The kinds of Table 4.8. -/
inductive RedKind where
  | sum | sumsq | norm | mean | prod | max | min | argmax | argmin
  deriving DecidableEq, Repr

/-- The kind of a code; 0x09 and above are reserved. -/
def redKindOf : Nat → Option RedKind
  | 0 => some .sum | 1 => some .sumsq | 2 => some .norm | 3 => some .mean | 4 => some .prod
  | 5 => some .max | 6 => some .min | 7 => some .argmax | 8 => some .argmin
  | _ => none

/-- The kinds that follow the reference order (R114). -/
def RedKind.isSum : RedKind → Bool
  | .sum | .sumsq | .norm | .mean => true
  | _ => false

/-- The kinds whose result is an index. -/
def RedKind.isArg : RedKind → Bool
  | .argmax | .argmin => true
  | _ => false

/-- A reduction in progress: the running sum and the windows passed, the terms taken, the running product,
the selected element, and the flags. -/
structure RedState where
  sum : SumState := {}
  count : Nat := 0
  terms : Nat := 0
  prod : Nat := 0x3F800000
  best : Option (Nat × Nat) := none
  flags : Flags := 0
  deriving DecidableEq, Repr

/-- The selected element after one more: the lowest index holding the greatest (or least) value, or the
lowest holding a NaN (Table 4.8). -/
def pickBest (greatest : Bool) (best : Option (Nat × Nat)) (i v : Nat) : Option (Nat × Nat) :=
  match best with
  | none => some (i, if isNan32 v then fp32Nan else v)
  | some (j, w) =>
    if isNan32 w then some (j, w)
    else if isNan32 v then some (i, fp32Nan)
    else if (if greatest then lt32 w v else lt32 v w) then some (i, v) else some (j, w)

/-- Take the element at index `i`, an FP32 pattern, or a masked position. -/
def RedState.add (k : RedKind) (L : Nat) (s : RedState) (i : Nat) (v : Option Nat) : RedState :=
  match k with
  | .sum | .sumsq | .norm | .mean =>
    let w := match v with
      | none => none
      | some v =>
        let x := val32 v
        windowSum [mkTerm x (if k = .sumsq ∨ k = .norm then x else valOne)]
    let sum := s.sum.addWindow w
    let sum := if (s.count + 1) % L = 0 then sum.fold else sum
    { s with sum := sum, count := s.count + 1, terms := s.terms + (if v.isSome then 1 else 0) }
  | .prod =>
    match v with
    | none => s
    | some v =>
      let (p, f) := mul32 s.prod v
      { s with prod := p, flags := s.flags ||| f, terms := s.terms + 1 }
  | .max | .argmax =>
    match v with
    | none => s
    | some v => { s with best := pickBest true s.best i v, terms := s.terms + 1 }
  | .min | .argmin =>
    match v with
    | none => s
    | some v => { s with best := pickBest false s.best i v, terms := s.terms + 1 }

/-- NORM of a sum of squares (Table 4.8). -/
def normOf (t : Nat) : Nat × Flags :=
  if t = 0 || !isFin32 t then (t, 0)
  else
    let (q, f) := VeFn.rsq.run t
    let (r, g) := mul32 t q
    (r, f ||| g)

/-- MEAN of a sum of `n` terms (Table 4.8); with no term it is the default NaN with invalid (Table 4.9). -/
def meanOf (s n : Nat) : Nat × Flags :=
  let (nb, f) := rn32 ⟨n, 0⟩
  let (q, g) := VeFn.rcp.run nb
  let (r, h) := mul32 s q
  (r, f ||| g ||| h)

/-- The result of a sum: the last fold, then R125. -/
def SumState.result (s : SumState) : Nat × Flags :=
  let t := s.fold
  let (r, f) := longResult t.long
  (r, t.flags ||| f)

/-- The result of a reduction: its value, its index for ARGMAX and ARGMIN, and its flags. -/
def RedState.result (k : RedKind) (s : RedState) : Nat × Nat × Flags :=
  match k with
  | .sum | .sumsq =>
    let (r, f) := s.sum.result
    (r, 0, s.flags ||| f)
  | .norm =>
    let (r, f) := s.sum.result
    let (n, g) := normOf r
    (n, 0, s.flags ||| f ||| g)
  | .mean =>
    let (r, f) := s.sum.result
    let (n, g) := meanOf r s.terms
    (n, 0, s.flags ||| f ||| g)
  | .prod => (s.prod, 0, s.flags)
  | .max | .argmax =>
    match s.best with
    | none => (0xFF800000, 0xFFFFFFFF, s.flags)
    | some (i, v) => (v, i, s.flags)
  | .min | .argmin =>
    match s.best with
    | none => (fp32Inf, 0xFFFFFFFF, s.flags)
    | some (i, v) => (v, i, s.flags)

/-- Reduce a list of elements, masked ones absent, with indexes from `i`. -/
def reduceList (k : RedKind) (L i : Nat) (vs : List (Option Nat)) : Nat × Nat × Flags :=
  ((vs.zip (List.range vs.length)).foldl (fun s v => s.add k L (i + v.2) v.1) ({} : RedState)).result k

end Sys2Proof.Machine
end

