-- ==== Sys2Proof/Machine/SecureState.lean ====
section
/-! DEFINITION. The state of polders and of host-link security (chapter 18) as plain data. -/

namespace Sys2Proof.Machine

/-- A polder (R474, R475): its 64-byte item body, the create count, NS and C2, the 72-byte wrapped key handle and
its measurement. -/
structure Polder where
  body : List Byte
  count : Nat
  ns : Nat := 0
  c2 : Nat := 0
  handle : List Byte := []
  meas : List Byte := []
  deriving DecidableEq, Repr

/-- A selective IDE stream (R489): whether it is established, and the host address ranges (first, bytes) that the
host's IDE registers give it. -/
structure IdeStream where
  up : Bool := false
  ranges : List (Nat × Nat) := []
  deriving DecidableEq, Repr

/-- SPDM error answers that the spec or DSP0274 names. -/
inductive SpdmError where
  | unsupportedRequest | invalidRequest | unexpectedRequest | sessionLimitExceeded
  deriving DecidableEq, Repr

/-- Iluny's answers on an SPDM connection (R487 to R489). Signatures and keys are not part of them. -/
inductive SpdmReply where
  | version
  | capabilities
  | algorithms
  | digests (slots : List Nat)
  | certificate (slot : Nat) (chain : List Byte)
  | challengeAuth (slot : Nat)
  | measurements (blocks : List (Nat × List Byte)) (signed : Bool)
  | keyExchange (session : Nat)
  | finish
  | heartbeat
  | keyUpdate
  | endSession
  | ideKm (stream : Nat)
  | tokenAccepted
  | error (e : SpdmError)
  deriving DecidableEq, Repr

/-- An SPDM session (R487): the connection that holds it (0 MCTP, 1 the DOE mailbox), whether FINISH has
established it, and how often its keys were updated. -/
structure Session where
  conn : Nat
  finished : Bool := false
  updates : Nat := 0
  deriving DecidableEq, Repr

/-- How far an SPDM connection's negotiation has come (R487): 0 nothing, 1 version, 2 capabilities, 3
algorithms. -/
abbrev SpdmPhase := Nat

/-- Polders, link security and the fused state. `lifecycle` is the fused state of Table 18.7, `sealed` says that
the sealing key exists (R491), `creates` is the create count of R474. -/
structure SecureState where
  lifecycle : Nat := 2
  sealed : Bool := true
  creates : Nat := 0
  polders : FMap (Option Polder) := []
  ide : FMap IdeStream := []
  phases : FMap SpdmPhase := []
  sessions : FMap (Option Session) := []
  deriving DecidableEq, Repr

end Sys2Proof.Machine
end

