-- ==== Sys2Proof/Machine/State.lean ====
section
/-! DEFINITION. The state of one package, as plain data: its registers, rings, descriptors, courses,
tensors and everything else the spec gives it, and the queue of commands that wait. -/

namespace Sys2Proof.Machine

/-- No command of this model stops with a fault: every fault the spec describes (a host access fault, a
bus error, a device fault) is an effect on the state. The type is kept for the interface. -/
inductive Fault where
  /-- Raised by nobody. Safe. -/
  | none
  deriving DecidableEq, Repr

/-- Why a command has no meaning here. -/
inductive Refusal where
  /-- The command is not modelled yet; raised by its arm of exec. Safe. -/
  | notModelled (mnemonic : String)
  deriving DecidableEq, Repr

/-! ## Registers -/

/-- The low half of a 64-bit register that waits for its high half (R505). -/
structure Staged where
  key : Nat
  low : Nat
  deriving DecidableEq, Repr

/-- A commit between its checks and the application of its last group (R413). -/
structure PendCommit where
  groups : List Nat
  snap : FMap Long
  deriving DecidableEq, Repr

/-- The register file: active and shadow copies by register key, one staging word per function, the
commits that wait for a boundary, and the MSI-X table words. -/
structure RegFile where
  active : FMap Long := []
  shadow : FMap Long := []
  staged : FMap (Option Staged) := []
  commits : FMap (Option PendCommit) := []
  msix : FMap Word := []
  deriving DecidableEq, Repr

/-! ## Host interface -/

/-- A fetched descriptor that has not completed (15.4): its place in fetch order, its function and global
ring, its 128 bytes, and the structures it names as the host returned them. -/
structure Desc where
  seq : Nat
  func : Nat
  ring : Nat
  bytes : List Byte
  blocks : List (List Byte) := []
  acted : Bool := false
  forwarded : Bool := false
  deriving DecidableEq, Repr

/-- A completion record due or written (Table 15.8). -/
structure Rec where
  func : Nat
  ring : Nat
  status : Nat
  ty : Nat
  interim : Bool := false
  dry : Bool := false
  logged : Bool := false
  detail : Nat := 0
  id : Nat := 0
  tag : Nat := 0
  course : Nat := 0
  flags : Nat := 0
  irq : Bool := false
  deriving DecidableEq, Repr

/-- A submission ring's run-time state (Table 15.4), with its wake-latency tolerance (R437). -/
structure SqRun where
  head : Nat := 0
  tail : Nat := 0
  halted : Bool := false
  wakeTol : Option Nat := none
  deriving DecidableEq, Repr

/-- A completion ring's run-time state (Table 15.4), with the records held while it is full (R402). -/
structure CqRun where
  head : Nat := 0
  tail : Nat := 0
  phase : Bool := true
  held : List Rec := []
  deriving DecidableEq, Repr

/-- The host interface engines. `features` holds a feature set whose evaluation is due (R411), `lastRing`
the ring last served in the turn of R399, `deviceFault` the class of a device fault (R459), and
`gaugeLost` that a record was dropped since the last one written to the gauge ring (R255). `irqs` is the MSI-X pending-bit
array, by the key of the vector's entry (R503). -/
structure HostIf where
  sq : FMap SqRun := []
  cq : FMap CqRun := []
  lastRing : Nat := 4095
  nextSeq : Nat := 0
  inflight : List Desc := []
  features : Option (List Nat) := none
  deviceFault : Option Nat := none
  gaugeLost : Bool := false
  irqs : List Nat := []
  deriving DecidableEq, Repr

/-- What the device sends out of the package, in order. -/
inductive Out where
  | hostWrite (func addr : Nat) (bytes : List Byte)
  | msix (func vector : Nat)
  | pairDesc (d : Desc)
  | pairPayload (peer : Nat) (hdr : DnHdr) (msg : NetMsg)
  | pairCommit (group : Nat) (values : List (Nat × Long))
  | packet (peer port : Nat) (hdr : DnHdr) (msg : NetMsg) (wire : List Byte)
  | roceReply (port qp : Nat) (nak : Bool) (psn : Nat)
  | congestion (port qp : Nat)
  | mgmt (kind arg0 arg1 : Nat)
  | mctp (report arg : Nat)
  | avsbus (die mv : Nat)
  | spdm (conn : Nat) (reply : SpdmReply)
  deriving DecidableEq, Repr

/-- An error log entry (Table 17.4). -/
structure LogEntry where
  time : Long
  cls : Nat
  die : Nat
  package : Nat
  unit : Nat
  func : Nat
  arg0 : Nat
  arg1 : Nat
  deriving DecidableEq, Repr

/-! ## Tensors -/

/-- A tensor description's fields (Table 2.11), with the pool of its TENSOR_DEFINE and the CRC-64 of its
bytes (Table 17.8). -/
structure TensorDesc where
  rank : Nat := 2
  format : Nat := 0
  valueFormat : Nat := 0
  scaleBlk : Nat := 0
  layout : Nat := 0
  polder : Nat := 0
  genPolicy : Nat := 1
  options : Nat := 0
  shape : List Nat := []
  shard : List Nat := []
  pool : Nat := 0
  crc : Nat := 0
  deriving DecidableEq, Repr

/-- The scale state record of one half (R101, R259): the outer scale S and the amax history H as FP32
patterns, VALID, and the count of clean steps. -/
structure ScaleRec where
  s : Nat := 0x3F800000
  h : List Nat := List.replicate 16 0
  valid : Bool := false
  clean : Nat := 0
  deriving DecidableEq, Repr

/-- A view's record (R299). -/
structure ViewRec where
  base : Nat
  offset : List Nat
  bytes : List Byte := []
  deriving DecidableEq, Repr

/-- What the open step's conversions into a tensor gave the weir (R260, R262): whether any was made, the largest finite magnitude
(an FP32 pattern), overflow, whether a gradient port wrote, the probe's amax, the agreed S_p and the course that probed. -/
structure WeirAcc where
  seen : Bool := false
  amax : Nat := 0
  ovf : Bool := false
  grad : Bool := false
  probeAmax : Nat := 0
  probe : Option Nat := none
  probeBy : Nat := 0
  deriving DecidableEq, Repr

/-- A defined tensor: its control entry and the contents of its home's halves (R332 to R335). `map` holds
the tiles whose current generation is in half 1 and `written` those that the open step wrote; of a sparse
tensor `flag` is the current half and `building` says that the open step builds the other. `scale` is
the state record of the generation read and `scaleNext` that of the generation written, `dryRec` the UPDATE record of the open step that decides dryness (R257), and
`before` the blocks of a generation that a course writes in place, as they stood before that course (R234), and `inPlace` the
blocks that it has so written (R171).
`broken` holds, by 2 × tile + half, the cause of Table 6.10 for which a block of a sparse home cannot be read as its bytes
stand (R189).
`clean` is the CLEAN bit of the generation read; `noised` and `dirtied` say that a noised UPDATE, or a write that
clears CLEAN, has written the tensor in the open step (R486). -/
structure Tensor where
  func : Nat := 0
  desc : TensorDesc := {}
  genNo : Nat := 0
  half0 : FMap Tile := []
  half1 : FMap Tile := []
  map : FMap Bool := []
  written : FMap Bool := []
  flag : Bool := false
  building : Bool := false
  scale : ScaleRec := {}
  scaleNext : Option ScaleRec := none
  weir : WeirAcc := {}
  dry : Nat := 0
  fired : Bool := false
  dryRec : Option (List Byte) := none
  incomplete : Bool := false
  view : Option ViewRec := none
  stackIds : List Nat := []
  base : Nat := 0
  bytes : Nat := 0
  releasing : Option Desc := none
  clean : Bool := false
  noised : Bool := false
  dirtied : Bool := false
  before : Option (Nat × FMap Tile) := none
  inPlace : FMap Bool := []
  broken : FMap Nat := []
  whole : Bool := false
  deriving DecidableEq, Repr

/-- What a tile's reader needs beside the tile: the element order of its tensor, and its outer scale S. -/
structure TileCtx where
  col : Bool := false
  outer : Nat := 0x3F800000
  deriving DecidableEq, Repr

/-- How a tile of values is written: the tensor's description and outer scale, and for a gradient port the
seed and step of its random words (R106 to R108). -/
structure ConvSpec where
  desc : TensorDesc
  outer : Nat := 0x3F800000
  grad : Bool := false
  seed : Nat := 0
  step : Nat := 0
  tensor : Nat := 0
  deriving DecidableEq, Repr

/-- A saved tensor state (Table 17.8): id, CRC-64 of the description, generation number, scale state and dry
state. -/
structure ResumeRec where
  id : Nat
  crc : Nat
  genNo : Nat
  scale : ScaleRec
  dry : Nat
  fired : Bool
  deriving DecidableEq, Repr

/-- What a save copies of a function's step map (Table 17.8): the code of its state, the open step and its attempt, its last
committed step, if any, and the SEED of that step. -/
structure SavedStep where
  func : Nat
  state : Nat
  step : Nat
  attempt : Nat
  lastValid : Bool
  lastStep : Nat
  seed : Nat
  deriving DecidableEq, Repr

/-- A freeboard image or NOR slot (R466, R468): its save count, the part it names, the feature set and
lifecycle state, step maps, tensor states, polder entries, head and tail of the journal per die, error log, pair state, and the flags VALID and
CONSUMED. -/
structure FreeImage where
  count : Nat
  part : Part
  features : List Nat
  lifecycle : Nat
  steps : List SavedStep
  tensors : List ResumeRec
  polders : List (Nat × List Byte)
  journal : List Nat
  log : List LogEntry
  pair : Nat
  valid : Bool
  consumed : Bool
  deriving DecidableEq, Repr

/-- Resume (17.5): the freeboard SRAM of this package, its NOR slots 0 and 1, the count of saves, the image
that Iluny's search found and where (R470), the tensor states that RESTORE holds pending (R471), and the image of a save
that runs. -/
structure ResumeState where
  sram : Option FreeImage := none
  nor0 : Option FreeImage := none
  nor1 : Option FreeImage := none
  saves : Nat := 0
  found : Option Nat := none
  pending : List ResumeRec := []
  draft : Option FreeImage := none
  deriving DecidableEq, Repr

/-! ## Courses -/

/-- Stream states (Table 2.6); `corrupt` stands for the reserved codes (R62), and a stream whose course holds no context
yet is FREE. -/
inductive StreamState where
  | free | opened | closed | drained | halted | corrupt
  deriving DecidableEq, Repr

/-- STATE of a stream context (Table 2.6); 0x5 for a corrupt one. -/
def StreamState.code : StreamState → Nat
  | .free => 0 | .opened => 1 | .closed => 2 | .drained => 3 | .halted => 4 | .corrupt => 5

/-- Where the placer buffers a stream (R57, R82): in the CM of the core that makes each tile, in the CM of a core, in the
data part of a die's DM, or on a tile queue of a core. -/
inductive Buffer where
  | maker
  | cm (core : Nat)
  | dm (die : Nat)
  | queue (core q : Nat)
  deriving DecidableEq, Repr

/-- Stack space that the placer gives a stream, laid out as a home is (R336): the stacks, the base address in each, and the
bytes in all. -/
structure Space where
  stackIds : List Nat
  base : Nat
  bytes : Nat
  deriving DecidableEq, Repr

/-- A stream of a course: its record (R52), its context (Table 2.5), and the tiles emitted on it, kept by
ascending tile index for the course's life; `waiting` are finished tiles that wait for the emission of lower ones (R55,
R160). `completion` marks a stream that carries no tile (R58, R59); `buffer` says where its tiles are held, `space` is the
stack space that it has been given, and `spilled` lists the tiles that the spillway
has written there or to their home slots (R57, R315). -/
structure Stream where
  id : Nat
  tensor : Nat
  prod : Nat
  prodPort : Nat
  cons : Nat
  consPort : Nat
  state : StreamState := .free
  produced : Nat := 0
  consumed : Nat := 0
  epoch : Nat := 0
  gen : Nat := 0
  locator : Nat := 0
  tiles : List Tile := []
  waiting : List Tile := []
  buffer : Buffer := .maker
  space : Option Space := none
  spilled : List Nat := []
  completion : Bool := false
  deriving DecidableEq, Repr

/-- One set of a gauge record in the making (R251 to R253): the FP32 values of the covered positions by global flat
index, and the positions whose element code is subnormal. -/
structure GaugeSet where
  vals : FMap (Option Nat) := []
  under : List Nat := []
  deriving DecidableEq, Repr

/-- What pass 1 of a two-pass UPDATE left (R242): tau, the new factors and their sum, the flags, and whether an
input was poisoned. -/
structure Pass1 where
  tau : Nat := 0x3F800000
  rowf : FMap Nat := []
  colf : FMap Nat := []
  rsum : Nat := 0
  flags : Nat := 0
  bad : Bool := false
  deriving DecidableEq, Repr

/-- What a station's diagnostic record counts (Tables 8.6, 9.7 and 14.5): gauge sets 0 to 2; of a mask station the
positions selected and the NaN scores by unit and the units with too few eligible positions; of a ROUTE the loads n_e and
the counts of its route record. -/
structure StationRec where
  set0 : GaugeSet := {}
  set1 : GaugeSet := {}
  set2 : GaugeSet := {}
  vetoed : Bool := false
  probe : Bool := false
  selected : FMap Nat := []
  short : List Nat := []
  nans : FMap Nat := []
  loads : FMap Nat := []
  tokens : Nat := 0
  passed : Nat := 0
  fallbacks : Nat := 0
  maxLoad : Nat := 0
  fetched : Nat := 0
  shipped : Nat := 0
  deriving DecidableEq, Repr

/-- Where the placer runs a station (R82, Table 2.14). -/
structure Place where
  core : Nat := 0
  me : Nat := 0
  ve : Nat := 0
  ue : Bool := false
  mu : Nat := 0
  ports : Nat := 0
  split : Bool := false
  deriving DecidableEq, Repr

/-- The norm side output of a product station in assembly (R156): values by side tile × 4096 + position, the
output tiles whose tasks have given theirs, and those of them that were poisoned. -/
structure SideOut where
  vals : FMap Nat := []
  from_ : List Nat := []
  bad : List Nat := []
  deriving DecidableEq, Repr

/-- A station of a course: its record (Table 2.2), its parameter block, its place, the tasks that have
retired, those run in probe form (R262), whether it has closed, its diagnostic counts, its norm side output, and
of a mask station the units whose writes have landed, with 1 + their flags (R227), of a STORE the tiles that it has so written
(R305), `bases` the blocks of its target, with their outer scale, as they stood before it first wrote them (R233), the blocks of a sparse host image in
the making and the tiles that COMPARE found differing (R296), and of
a two-pass UPDATE what its first pass left (R242). -/
structure Station where
  id : Nat
  typ : Nat
  inPorts : Nat
  outPorts : Nat
  pin : Option Nat := none
  params : List Byte := []
  place : Place := {}
  done : List Nat := []
  probed : List Nat := []
  closed : Bool := false
  diag : StationRec := {}
  side : SideOut := {}
  kept : List Tile := []
  differing : List Nat := []
  landed : FMap Nat := []
  bases : List (Nat × Nat × Tile) := []
  pass1 : Option Pass1 := none
  deriving DecidableEq, Repr

/-- Why a course is ending early (R63): the status, detail and id of its record, and whether a stream's halt is the
cause. -/
structure Halt where
  status : Nat
  detail : Nat := 0
  id : Nat := 0
  logged : Bool := true
  stream : Bool := false
  deriving DecidableEq, Repr

/-- A course, from submission to completion (2.7). `ctx` says that its streams have their contexts and
`started` tells a running course from a held one. `halt`, `veto` and `cancelled` (the new epoch) say how it
ends; `recorded` is the status of the completion record it has written before a rerun (R449);
`warnings` are those of its placement reports, `reports` the PLACEMENT_REPORTs that wait for its next tile
boundary, `joined` says that its own STEP_DONE has gone out, `probeSent` names the tensors whose probe values have
(R262), `ship` is the SHIP_FACTOR in force at its submission (R380), and `undo` are the blocks that its mask stations have
rewritten as they stood before, with their tensor, half and index, oldest first (R217). -/
structure Course where
  id : Nat
  desc : Desc
  reachLog2 : Nat := 12
  stepMode : Bool := false
  seed : Nat := 0
  step : Nat := 0
  epoch : Nat := 0
  stations : List Station := []
  streams : List Stream := []
  ctx : Bool := false
  started : Bool := false
  attempt : Nat := 0
  halt : Option Halt := none
  veto : Bool := false
  flags : Nat := 0
  cancelled : Option Nat := none
  recorded : Option Nat := none
  warnings : List (Nat × Nat × Nat × Nat) := []
  reports : List Desc := []
  stragglers : Nat := 0
  joined : Bool := false
  probeSent : List Nat := []
  ship : Nat := 8
  undo : List (Nat × Bool × Nat × Tile) := []
  deriving DecidableEq, Repr

/-- Step states (Table 17.1). -/
inductive StepState where
  | idle | opened | complete | vetoed | failed | committing | repeating
  deriving DecidableEq, Repr

/-- A function's step machine (R444): its state, the open step, its attempt and seed, whether a course of
the step has completed with VETO, the last committed step (LAST_COMMIT) with its seed, and the steps that this
device has closed (R450); `rerun` is the course that a repeat reruns (R449), and `mark` the count of log entries when the
step opened (R464). -/
structure StepM where
  state : StepState := .idle
  step : Nat := 0
  attempt : Nat := 0
  seed : Nat := 0
  vetoed : Bool := false
  lastValid : Bool := false
  lastStep : Nat := 0
  lastSeed : Nat := 0
  past : List Nat := []
  rerun : Option Nat := none
  mark : Nat := 0
  deriving DecidableEq, Repr

/-- States of a journal entry (Table 17.3). -/
inductive JState where
  | free | issued | done | abandoned
  deriving DecidableEq, Repr

/-- A journal entry (Table 17.3), with what the model keeps of the task while it runs: whether its engine
has finished it, the flags it raised (R112), whether its output is poisoned, the copies of input tiles, by port, that it
reads on while the spillway has changed the tile (R34), the event line that its DMA
transfer pulses and whether the pulse has come (R310), the system channel of a transfer with host memory (R289), the counts
of its energy estimate (R421), and the reach sums of a split part by reach, as LONG_SUM tiles (R131). -/
structure JEntry where
  course : Nat
  state : JState := .issued
  attempt : Nat := 0
  station : Nat
  tile : Nat
  reachFirst : Nat := 0
  reachCount : Nat := 0
  outTensor : Nat := 0
  outGen : Nat := 0
  engine : Nat := 0
  core : Nat := 0
  index : Nat := 0
  step : Nat := 0
  inputs : List (Nat × Nat) := []
  finished : Bool := false
  flags : Nat := 0
  poisoned : Bool := false
  copies : List (Nat × Tile) := []
  line : Option Nat := none
  landed : Bool := false
  sys : Option (Nat × Nat) := none
  counts : List Nat := []
  sums : FMap Tile := []
  deriving DecidableEq, Repr

/-! ## Stacks -/

/-- A stack with its controller (12.2 to 12.5): whether training and zeroing are done, missing temperature
readings, the stored lines by line number (zero data with valid check bytes where not listed), the poison
directory, the heal writes that are queued, the next line of the patrol scrub, the 16 key slots, the line
delivered last with its poison tag, and the divisor of its request rate (R426). -/
structure Stack where
  trained : Bool := false
  zeroed : Bool := false
  missing : Nat := 0
  lines : FMap Line := []
  dir : List Nat := []
  heals : List (Nat × Line) := []
  scrub : Nat := 0
  keys : FMap (List Byte) := []
  delivered : Option (List Byte × Bool) := none
  rate : Nat := 1
  deriving DecidableEq, Repr

/-! ## Vector engines -/

/-- A step context of a VE (R264): v0 to v31 of 128 lanes and mk0 to mk7 of 256 bits, listed where they
differ from all zeros, and the step that the context works on. -/
structure VeCtx where
  v : FMap (List Nat) := []
  mks : FMap (List Bool) := []
  step : Nat := 0
  deriving DecidableEq, Repr

/-- A vector engine at work (10.1, 10.2): its contexts and reduction slots (by slot × 64 + row), and of the
task it runs its mode, reach length, seed and step, constants, the tiles on its input ports, how its output
ports convert, the tile and, by context, the step within it, the raw elements stored so far by port and position, and the tiles that STQ has converted for its output queues, by
port, oldest first (R271); the queue that each port is bound to where its stream is on one of the core (R280), and GEN by output port and EPOCH
of the tiles it writes. -/
structure VeRun where
  ctxs : FMap VeCtx := []
  slots : FMap RedState := []
  wide : Bool := false
  reach : Nat := 4096
  seed : Nat := 0
  stepNo : Nat := 0
  consts : List Nat := []
  inputs : List Tile := []
  inCtx : List TileCtx := []
  outSpecs : List ConvSpec := []
  tile : Nat := 0
  outs : FMap Nat := []
  sent : List (Nat × Tile) := []
  inQueues : List (Option Nat) := []
  outQueues : List (Option Nat) := []
  gens : List Nat := []
  epoch : Nat := 0
  flags : Flags := 0
  deriving DecidableEq, Repr

/-! ## Network -/

/-- A mesh entry (Table 13.3). -/
structure MeshEntry where
  device : Nat
  nodeId : Nat
  localRank : Nat
  coord : List Nat
  bytes : List Byte := []
  deriving DecidableEq, Repr

/-- The job's mesh (R341): the sizes of axes 0 to 3 (0 for an absent axis), this device's index, one
entry per device, and the item body that gave it. -/
structure Mesh where
  axes : List Nat := [0, 0, 0, 0]
  self : Nat := 0
  entries : List MeshEntry := []
  body : List Byte := []
  deriving DecidableEq, Repr

/-! ## The package -/

/-- The state of the block. `copies` keeps the completed courses of open steps, which a repeat may rerun (R447,
R449); `logTotal` counts every entry ever logged; `dm` is the data part of DM by die (R24). -/
structure State where
  part : Part
  pkg : Pkg
  pending : List Instr
  free : Nat
  regs : RegFile
  host : HostIf
  out : List Out
  log : List LogEntry
  logTotal : Nat
  tensors : FMap (Option Tensor)
  courses : List Course
  copies : List Course
  steps : FMap StepM
  journal : FMap (Option JEntry)
  mesh : Option Mesh
  ve : FMap VeRun
  resume : ResumeState
  cores : FMap Core
  dm : FMap Sram
  stackTab : FMap Stack
  secure : SecureState
  net : NetState
  power : PowerState
  deriving DecidableEq, Repr

/-- The block after reset. -/
def State.reset : State where
  part := .cn4b32
  pkg := .a
  pending := []
  free := 0
  regs := {}
  host := {}
  out := []
  log := []
  logTotal := 0
  tensors := []
  courses := []
  copies := []
  steps := []
  journal := []
  mesh := none
  ve := []
  resume := {}
  cores := []
  dm := []
  stackTab := []
  secure := {}
  net := {}
  power := {}

end Sys2Proof.Machine
end

