-- ==== Sys2Proof/Machine/Ops.lean ====
section
/-! DEFINITION. The shared operations over registers, rings, the error log and completion records. -/

namespace Sys2Proof.Machine

/-! ## Registers -/

/-- The reset value of the register with a given key (Tables 20.1 to 20.15). -/
def regDefault (k : Nat) : Long :=
  if k < 0x4000000 then
    match pfRegAt .cn1b08 (if k < 0x1000000 then k else 0x1000000 + (k - 0x1000000) % 0x400000) with
    | some (r, .whole) => r.resetValue
    | _ => 0
  else if k % 0x10000 = 0x104 then 0x00FF0000 else 0

/-- The active copy of a register's stored fields. -/
def State.reg (s : State) (r : Reg) : Long := FMap.get regDefault s.regs.active r.key

/-- The shadow copy of a register's RWS fields. -/
def State.shadowReg (s : State) (r : Reg) : Long := FMap.get regDefault s.regs.shadow r.key

/-- Write the active copy. -/
def State.setReg (s : State) (r : Reg) (v : Long) : State :=
  { s with regs := { s.regs with active := FMap.set regDefault s.regs.active r.key v } }

/-- Write the shadow copy. -/
def State.setShadow (s : State) (r : Reg) (v : Long) : State :=
  { s with regs := { s.regs with shadow := FMap.set regDefault s.regs.shadow r.key v } }

/-- A change that the device makes itself to an RWS field: both copies are written (R413). -/
def State.setBoth (s : State) (r : Reg) (hi lo x : Nat) : State :=
  (s.setReg r (setF (s.reg r) hi lo x)).setShadow r (setF (s.shadowReg r) hi lo x)

/-- Bits hi:lo of a register's active copy. -/
def State.regF (s : State) (k : RegKind) (i hi lo : Nat) : Nat := getF (s.reg ⟨k, i, 0⟩) hi lo

/-- Add to a saturating counter field of a register. -/
def State.countReg (s : State) (r : Reg) (hi lo n : Nat) : State :=
  s.setReg r (addF (s.reg r) hi lo n)

/-- Set a latch bit of a register. -/
def State.latch (s : State) (r : Reg) (bit : Nat) : State := s.setReg r (setBit (s.reg r) bit true)

/-- Return registers to their reset values, both copies, where `p` holds of the key. -/
def RegFile.clearWhere (f : RegFile) (p : Nat → Bool) : RegFile :=
  { f with
    active := FMap.keep (fun k _ => !p k) f.active
    shadow := FMap.keep (fun k _ => !p k) f.shadow }

/-! ## Functions, rings and features -/

/-- The active BASE and COUNT of a VF's ring map (Table 15.4). -/
def State.vfMap (s : State) (v : Nat) : Nat × Nat :=
  let m := s.reg ⟨.vfRingMap, v, 0⟩
  (getF m 19 8, getF m 6 0)

/-- VF `v` covers global ring `n`. -/
def State.vfCovers (s : State) (v n : Nat) : Bool :=
  let m := s.vfMap v
  decide (m.1 ≤ n ∧ n < m.1 + m.2)

/-- The function that owns a global ring: the VF whose map covers it, else the PF (R398). -/
def State.ringFunc (s : State) (n : Nat) : Nat :=
  match (List.range 63).find? (fun v => s.vfCovers (v + 1) n) with
  | some v => v + 1
  | none => 0

/-- The global number of a function's ring `k`. -/
def State.globalRing (s : State) (f k : Nat) : Nat := if f = 0 then k else (s.vfMap f).1 + k

/-- The number a function sees for a global ring. -/
def State.localRing (s : State) (f n : Nat) : Nat := if f = 0 then n else n - (s.vfMap f).1

/-- A submission ring's run-time state. -/
def State.sq (s : State) (n : Nat) : SqRun := FMap.get (fun _ => {}) s.host.sq n

/-- A completion ring's run-time state. -/
def State.cq (s : State) (n : Nat) : CqRun := FMap.get (fun _ => {}) s.host.cq n

/-- Write a submission ring's run-time state. -/
def State.setSq (s : State) (n : Nat) (q : SqRun) : State :=
  { s with host := { s.host with sq := FMap.set (fun _ => {}) s.host.sq n q } }

/-- Write a completion ring's run-time state. -/
def State.setCq (s : State) (n : Nat) (q : CqRun) : State :=
  { s with host := { s.host with cq := FMap.set (fun _ => {}) s.host.cq n q } }

/-- A submission ring is enabled. -/
def State.sqEnabled (s : State) (n : Nat) : Bool := getBit (s.reg ⟨.sqCtl, n, 0⟩) 31

/-- A completion ring is enabled. -/
def State.cqEnabled (s : State) (n : Nat) : Bool := getBit (s.reg ⟨.cqCtl, n, 0⟩) 31

/-- Entries of a submission ring. -/
def State.sqSize (s : State) (n : Nat) : Nat := 2 ^ s.regF .sqCtl n 4 0

/-- Records of a completion ring. -/
def State.cqSize (s : State) (n : Nat) : Nat := 2 ^ s.regF .cqCtl n 4 0

/-- The completion ring, as a global number, of a global submission ring. -/
def State.cqOf (s : State) (n : Nat) : Nat := s.globalRing (s.ringFunc n) (s.regF .sqCtl n 27 16)

/-- The feature set is confirmed (R411): FEATURES_OK and DONE both stand. -/
def State.featuresConfirmed (s : State) : Bool :=
  let v := s.reg ⟨.featuresCtl, 0, 0⟩
  getBit v 0 && getBit v 1

/-- A feature is negotiated: confirmed and accepted (Table 15.12). -/
def State.feature (s : State) (b : Nat) : Bool :=
  s.featuresConfirmed && getBit (s.reg ⟨.drvFeatures, b / 32, 0⟩) (b % 32)

/-- The features a part offers, as DEV_FEATURES[0] (R507). -/
def offeredFeatures (p : Part) : Nat :=
  match p with
  | .cn4p64 => 0x1FF
  | _ => 0x1FB

/-- The requester id of a function (R417). -/
def funcRequester (f : Nat) : Nat := 0x10000 + (Config.routingId f).toNat

/-- The host interface works: the package runs, and it is in no power state (R441, R518). -/
def State.hostUp (s : State) : Bool := s.power.phase == .run && s.power.state == 0

/-- The host reaches the registers and doorbells: the package runs, and no deeper than IDLE-G (R518). -/
def State.hostLink (s : State) : Bool := s.power.phase == .run && decide (s.power.state ≤ 1)

/-- The effect of a host access: none while the host does not reach the package. -/
def State.viaHost (s : State) (f : State → State) : State := if s.hostLink then f s else s

/-- This package is fenced (R464). -/
def State.fenced (s : State) : Bool := getBit (s.reg ⟨.pairStat, 0, 0⟩) 29

/-- The package issues work: it runs, a control cluster works (R29), and no device fault or fence stops it (R459,
R464). -/
def State.issuing (s : State) : Bool :=
  s.hostUp && (s.power.cluster == .first || s.power.cluster == .mirror) && s.host.deviceFault.isNone && !s.fenced

/-- Iluny of this package reaches the regulators, the NOR and MCTP: A by itself, B over the pair-internal management link (R30). -/
def State.moduleReach (s : State) : Bool := s.pkg == .a || s.power.mgmt

/-- Mirror mode is in force on this package (Table 17.12). -/
def State.mirror (s : State) : Bool := getBit (s.reg ⟨.pairStat, 0, 0⟩) 31

/-- A Dunnath session is open. -/
def State.sessionsOpen (s : State) : Bool := s.net.sessions.any (fun x => x.2.isOpen)

/-- A core is retired (R3, R456). -/
def State.coreRetired (s : State) (c : Nat) : Bool := (FMap.get (fun _ => ({} : Core)) s.cores c).retired

/-- The debug window is open: not in the production lifecycle state (R397). -/
def State.debugOpen (s : State) : Bool := s.secure.lifecycle != 2

/-- Release Iluny's cap at the next window (R434). -/
def State.releaseCap (s : State) : State :=
  { s with power := { s.power with iluny := { s.power.iluny with release := true } } }

/-- A polder. -/
def State.polder (s : State) (p : Nat) : Option Polder := FMap.get (fun _ => none) s.secure.polders p

/-- Polder `p` exists. -/
def State.polderExists (s : State) (p : Nat) : Bool := (s.polder p).isSome

/-- A function holds a tensor of a polder. -/
def State.holdsPolder (s : State) (f p : Nat) : Bool :=
  s.tensors.any (fun t => match t.2 with
    | some t => decide (t.func = f ∧ t.desc.polder = p)
    | none => false)

/-! ## The error log -/

/-- FUNCTION of an entry that concerns the whole device (Table 17.4). -/
def deviceWide : Nat := 0xFFFF

/-- No die, or no unit, applies (Table 17.4). -/
def noDie : Nat := 0xFF

/-- UNIT of an entry without one (Table 17.4). -/
def noUnit : Nat := 0xFFFF

/-- The package number of Table 17.4. -/
def pkgNum : Pkg → Nat
  | .a => 0
  | .b => 1

/-- Write one entry into the error log, a ring of 4,096; when it is full the oldest entry goes and LOST
counts (R457). TIME is a free value. -/
def State.logEntry (s : State) (cls die unit func arg0 arg1 : Nat) : State :=
  let e : LogEntry :=
    { time := Config.logTime s.free, cls := cls, die := die, package := pkgNum s.pkg, unit := unit,
      func := func, arg0 := arg0, arg1 := arg1 }
  if s.log.length < 4096 then { s with log := s.log ++ [e], logTotal := s.logTotal + 1, free := s.free + 1 }
  else
    let s' : State := { s with log := s.log.tail ++ [e], logTotal := s.logTotal + 1, free := s.free + 1 }
    s'.countReg ⟨.errlogStat, 0, 0⟩ 31 16 1

/-- Log an event without die or unit. -/
def State.logFor (s : State) (cls func arg0 arg1 : Nat) : State :=
  s.logEntry cls noDie noUnit func arg0 arg1

/-- A host access fault (R395): logged with the requester id and the offset. -/
def State.hostAccessFault (s : State) (func off : Nat) : State :=
  s.logFor 0x0001 func (funcRequester func) off

/-- The bytes of an entry (Table 17.4). -/
def LogEntry.toBytes (e : LogEntry) : List Byte :=
  toLe 8 e.time.toNat ++ toLe 2 e.cls ++ toLe 1 e.die ++ toLe 1 e.package ++ toLe 2 e.unit
    ++ toLe 2 e.func ++ toLe 8 e.arg0 ++ toLe 8 e.arg1

/-! ## Descriptors -/

/-- TYPE of a descriptor (Table 15.5). -/
def Desc.ty (d : Desc) : Nat := leAt d.bytes 0 1

/-- TAG of a descriptor. -/
def Desc.tag (d : Desc) : Nat := leAt d.bytes 8 8

/-- The IRQ flag of a descriptor. -/
def Desc.irq (d : Desc) : Bool := (leAt d.bytes 1 1).testBit 0

/-- A field of a descriptor's body: `n` bytes at `off`. -/
def Desc.field (d : Desc) (off n : Nat) : Nat := leAt d.bytes off n

/-- Structure number `i` of a descriptor, as the host returned it. -/
def Desc.block (d : Desc) (i : Nat) : List Byte := d.blocks.getD i []

/-- The record of a descriptor with a status (Table 15.8). -/
def Desc.record (d : Desc) (status : Nat) (detail : Nat := 0) (id : Nat := 0) : Rec :=
  { func := d.func, ring := d.ring, status := status, ty := d.ty, detail := detail, id := id,
    tag := d.tag, irq := d.irq
    course := if d.ty = 0x01 then leAt (fitBytes 64 (d.block 0)) 0 4 else if d.ty = 0x0A then d.field 16 4 else 0 }

/-- The bytes of a record, with its PHASE and the ring's HEAD when it is written (Table 15.8). -/
def Rec.toBytes (r : Rec) (phase : Bool) (sqId head : Nat) : List Byte :=
  toLe 2 r.status ++ toLe 1 r.ty
    ++ toLe 1 ((if phase then 1 else 0) + (if r.interim then 2 else 0) + (if r.dry then 4 else 0)
        + (if r.logged then 8 else 0))
    ++ toLe 4 r.detail ++ toLe 4 r.id
    ++ toLe 4 (head % 2 ^ 16 + (sqId % 2 ^ 12) * 2 ^ 16)
    ++ toLe 8 r.tag ++ toLe 4 r.course ++ toLe 1 (r.flags % 32) ++ toLe 3 0

/-- The completion ring is full when its tail would meet its head (R402). -/
def State.cqFull (s : State) (n : Nat) : Bool :=
  let q := s.cq n
  decide ((q.tail + 1) % s.cqSize n = q.head)

/-- Does IRQ_MODE of a completion ring call for an interrupt after a record? (Table 15.3) -/
def State.wantsIrq (s : State) (cq : Nat) (r : Rec) : Bool :=
  match s.regF .cqCtl cq 30 29 with
  | 1 => true
  | 2 => r.irq || r.status != 0
  | _ => false

/-- Send something out of the package. -/
def State.emit (s : State) (o : Out) : State := { s with out := s.out ++ [o] }

/-- The key of a vector's first word in the MSI-X tables: four words per vector, 2,048 vectors of the PF and 64 of each VF
(R390, R503). -/
def msixEntry (func vector : Nat) : Nat := (if func = 0 then 0 else 0x2000 + 0x100 * func) + 4 * vector

/-- Words of the MSI-X tables at reset: every vector is masked (PRESUMED, log entry 13). -/
def msixDefault (k : Nat) : Word := if k % 4 = 3 then 1 else 0

/-- The mask bit of the vector whose entry has a key. -/
def State.msixMasked (s : State) (e : Nat) : Bool := (FMap.get msixDefault s.regs.msix (e + 3)).getLsbD 0

/-- Raise an MSI-X interrupt; that of a masked vector waits in the pending-bit array (R503). -/
def State.raiseIrq (s : State) (func vector : Nat) : State :=
  let e := msixEntry func vector
  if s.msixMasked e then { s with host := { s.host with irqs := insertNat e s.host.irqs } } else s.emit (.msix func vector)

/-- Write a record into slot TAIL of a completion ring and advance TAIL; PHASE inverts at a wrap, and an
interrupt follows the record (R402). -/
def State.writeRecord (s : State) (cq : Nat) (r : Rec) : State :=
  let q := s.cq cq
  let size := s.cqSize cq
  let base := s.regF .cqBase cq 63 12 * 4096
  let bytes := r.toBytes q.phase (s.localRing r.func r.ring) (s.sq r.ring).head
  let next := (q.tail + 1) % size
  let s := s.setCq cq { q with tail := next, phase := if next = 0 then !q.phase else q.phase }
  let s := s.emit (.hostWrite r.func (base + 32 * q.tail) bytes)
  if s.wantsIrq cq r then s.raiseIrq r.func (s.regF .cqCtl cq 26 16) else s

/-- A record that is due: written, or held behind earlier held records while its ring is full or not
enabled (R402). -/
def State.postRecord (s : State) (r : Rec) : State :=
  let cq := s.cqOf r.ring
  let q := s.cq cq
  if s.cqFull cq || !s.cqEnabled cq || !q.held.isEmpty then s.setCq cq { q with held := q.held ++ [r] }
  else s.writeRecord cq r

/-- Write the held records of a completion ring in order, as long as there is room. -/
def State.drainHeld (s : State) (cq : Nat) : List Rec → State
  | [] => s.setCq cq { s.cq cq with held := [] }
  | r :: rs =>
    if s.cqFull cq || !s.cqEnabled cq then s.setCq cq { s.cq cq with held := r :: rs }
    else (s.writeRecord cq r).drainHeld cq rs

/-- Take a descriptor out of those in flight. -/
def State.dropDesc (s : State) (d : Desc) : State :=
  { s with host := { s.host with inflight := s.host.inflight.filter (fun e => e.seq ≠ d.seq) } }

/-- Complete a descriptor with a record: a descriptor that package A forwarded leaves its record to the
package whose ring it came from. -/
def State.complete (s : State) (d : Desc) (r : Rec) : State :=
  let s := s.dropDesc d
  if d.forwarded then s else s.postRecord r

/-- Complete a descriptor with a status. -/
def State.completeStatus (s : State) (d : Desc) (status : Nat) (detail : Nat := 0) (id : Nat := 0) :
    State :=
  s.complete d (d.record status detail id)

/-- Mark a descriptor as acted on: it stays in flight until it completes. -/
def State.markActed (s : State) (d : Desc) : State :=
  { s with host := { s.host with
      inflight := s.host.inflight.map (fun e => if e.seq = d.seq then { e with acted := true } else e) } }

/-- The first descriptor of a ring that has not been acted on, if it has the given type (R400). -/
def State.dueDesc (s : State) (ring ty : Nat) : Option Desc :=
  match s.host.inflight.find? (fun d => d.ring = ring && !d.acted) with
  | some d => if d.ty = ty then some d else none
  | none => none

/-! ## Contradicting orders (R416) -/

/-- Does order `a` lose to order `b`? A stop beats a go; between orders of one kind the master of higher
precedence wins, then the lower requester id, then the lower ring. -/
def losesTo (a b : Order) : Bool :=
  if a.stop != b.stop then b.stop
  else if a.master ≠ b.master then decide (b.master < a.master)
  else if a.requester ≠ b.requester then decide (b.requester < a.requester)
  else decide (b.ring < a.ring)

/-- The order that a function gives. -/
def funcOrder (stop : Bool) (func ring : Nat) : Order :=
  { stop := stop, master := if func = 0 then 1 else 3, requester := funcRequester func, ring := ring }

/-- The order that a descriptor gives, with its ring among those of its function: its function's, or, where package A forwarded it,
the pair partner's (R391, R417). -/
def Desc.order (d : Desc) (stop : Bool) (ring : Nat) : Order :=
  if d.forwarded then { stop := stop, master := 2, requester := 0x20000, ring := ring } else funcOrder stop d.func ring

/-- The winner's requester id, where a contradicting order beats this one. -/
def beatenBy (mine : Order) (against : Option Order) : Option Nat :=
  match against with
  | none => none
  | some o => if losesTo mine o then some o.requester else none

/-- Log both orders of a contradiction (R416). -/
def State.logContradiction (s : State) (func : Nat) (mine : Order) (o : Order) : State :=
  (s.logFor 0x0004 func mine.requester 0).logFor 0x0004 func o.requester 1

/-- Log a contradiction where there was one. -/
def State.logOrders (s : State) (func : Nat) (mine : Order) (against : Option Order) : State :=
  match against with
  | none => s
  | some o => s.logContradiction func mine o

/-- Every system channel is halted. -/
def State.sysChannelsHalted (s : State) : Bool :=
  (List.range (32 * s.part.dies)).all (fun n => getBit (s.reg ⟨.sysDmaStat, n, 0⟩) 31)

end Sys2Proof.Machine
end

