-- ==== Sys2Proof/Machine/Commit.lean ====
section
/-! DEFINITION. Commit groups (15.8, 20.6): the snapshot, its checks in the order of R513, idle-only fields
whose block runs (R414), and the application of a group at its boundary. -/

namespace Sys2Proof.Machine

/-- The register with a key, where there is one. -/
def State.keyReg (s : State) (k : Nat) : Option Reg :=
  match pfRegAt s.part k with
  | some (r, .whole) => some r
  | _ => none

/-- The keys of a commit group's registers that differ from reset in any of the given tables, for the
function that owns them: group RING is per function, every other group belongs to the PF (R398, R415). -/
def State.groupKeys (s : State) (f g : Nat) (ms : List (FMap Long)) : List Nat :=
  let ks := sortNat (ms.flatMap (fun m => m.map (·.1)))
  ks.filter (fun k =>
    match s.keyReg k with
    | none => false
    | some r =>
      decide (r.kind.group = some g) &&
        (match r.kind with
          | .sqBase | .cqBase | .sqCtl | .cqCtl => decide (s.ringFunc r.i = f)
          | _ => decide (f = 0)))

/-- Any course runs (R414's busy condition of several fields). -/
def State.courseRuns (s : State) : Bool := s.courses.any (fun c => c.started)

/-- Any function's step machine has an open step. -/
def State.stepOpen (s : State) : Bool := s.steps.any (fun m => m.2.state != .idle)

/-- Is the block of a register's idle-only fields running? (Table 20.13) -/
def State.fieldBusy (s : State) (r : Reg) : Bool :=
  match r.kind with
  | .sqBase | .sqCtl => s.sqEnabled r.i
  | .cqBase | .cqCtl => s.cqEnabled r.i
  | .vfRingMap =>
    let m := s.vfMap r.i
    (List.range m.2).any (fun k => s.sqEnabled (m.1 + k) || s.cqEnabled (m.1 + k))
  | .gaugeRing => s.courseRuns
  | .portCtl => getBit (s.reg r) 0
  | .netCtl => s.sessionsOpen
  | .faultCtl => s.courseRuns || s.stepOpen
  | _ => false

/-- The idle-only fields of a register that a snapshot value would change while their block runs. -/
def State.busyFields (s : State) (r : Reg) (v : Long) : List Field :=
  if s.fieldBusy r then
    r.kind.fields.filter (fun f => f.idle && decide (getF v f.hi f.lo ≠ getF (s.reg r) f.hi f.lo))
  else []

/-- A snapshot value with its busy fields at their active values (R414). -/
def State.keptValue (s : State) (r : Reg) (v : Long) : Long :=
  (s.busyFields r v).foldl (fun w f => setF w f.hi f.lo (getF (s.reg r) f.hi f.lo)) v

/-- A snapshot: the shadows of the named groups with busy fields at their kept values, and the active
copies of everything else. -/
def State.snapshot (s : State) (f : Nat) (groups : List Nat) : FMap Long :=
  let ks := groups.flatMap (fun g => s.groupKeys f g [s.regs.shadow, s.regs.active])
  ks.foldl (fun m k =>
      match s.keyReg k with
      | none => m
      | some r => FMap.set regDefault m k (s.keptValue r (s.shadowReg r)))
    s.regs.active

/-- A register's value in a snapshot. -/
def snapReg (m : FMap Long) (k : RegKind) (i : Nat) : Long := FMap.get regDefault m (Reg.key ⟨k, i, 0⟩)

/-- A field in a snapshot. -/
def snapF (m : FMap Long) (k : RegKind) (i hi lo : Nat) : Nat := getF (snapReg m k i) hi lo

/-- The function that owns a ring under a snapshot's maps. -/
def snapRingFunc (m : FMap Long) (n : Nat) : Nat :=
  match (List.range 63).find? (fun v =>
      let b := snapF m .vfRingMap (v + 1) 19 8
      decide (b ≤ n ∧ n < b + snapF m .vfRingMap (v + 1) 6 0)) with
  | some v => v + 1
  | none => 0

/-- VF `v`'s map overlaps another's, or reaches beyond ring 4,095. -/
def mapClash (m : FMap Long) (v : Nat) : Bool :=
  let b := snapF m .vfRingMap v 19 8
  let c := snapF m .vfRingMap v 6 0
  decide (4096 < b + c) ||
    (List.range 63).any (fun w =>
      let b' := snapF m .vfRingMap (w + 1) 19 8
      let c' := snapF m .vfRingMap (w + 1) 6 0
      decide (w + 1 ≠ v ∧ 0 < c ∧ 0 < c' ∧ b < b' + c' ∧ b' < b + c))

/-- The checks of a VF_RING_MAP, by descending bit (Table 20.14). -/
def vfMapChecks (m : FMap Long) (v : Nat) : List (Bool × Nat) :=
  [(mapClash m v, 0x03), (decide (64 < snapF m .vfRingMap v 6 0), 0x02)]

/-- The checks of one ring's SQ_CTL and CQ_CTL, by ascending offset and descending bit (Table 20.14). -/
def State.ringChecks (s : State) (m : FMap Long) (f n : Nat) : List (Bool × Nat) :=
  let sq := snapReg m .sqCtl n
  let cq := snapReg m .cqCtl n
  let target := if f = 0 then getF sq 27 16 else snapF m .vfRingMap f 19 8 + getF sq 27 16
  let sizeBad (v : Long) := decide (getF v 4 0 < 4 ∨ 16 < getF v 4 0)
  [ (getBit sq 30 && !s.feature 0, 0x02),
    (getBit sq 31 &&
      (!getBit (snapReg m .cqCtl target) 31 || decide (snapRingFunc m target ≠ f)), 0x03),
    (getBit sq 31 && sizeBad sq, 0x02),
    (decide (getF cq 30 29 = 3), 0x02),
    (decide (f ≠ 0 ∧ 64 ≤ getF cq 26 16), 0x02),
    (getBit cq 31 && sizeBad cq, 0x02) ]

/-- The rings among a list of register keys. -/
def keyRings (ks : List Nat) : List Nat :=
  sortNat ((ks.filter (fun k => 0x40000 ≤ k ∧ k < 0x80000)).map (fun k => (k - 0x40000) / 0x40))

/-- The checks of a group in the order of R513: whether each fails, and its CODE. -/
def State.groupChecks (s : State) (m : FMap Long) (f g : Nat) : List (Bool × Nat) :=
  match g with
  | 0 =>
    let rings := keyRings (s.groupKeys f 0 [m])
    (if f = 0 then (List.range 63).flatMap (fun v => vfMapChecks m (v + 1)) else [])
      ++ rings.flatMap (s.ringChecks m f)
  | 1 =>
    let p := snapReg m .powerCtl 0
    let w := snapReg m .wakeCtl 0
    [ (decide (getF p 23 16 = 0), 0x02), (decide (5 ≤ getF p 10 8), 0x02),
      (decide (getF p 1 0 = 3), 0x02), (decide (2 ^ s.part.ports ≤ getF w 31 16), 0x02),
      (decide (getF w 3 0 = 0 ∧ 1 < getF p 10 8), 0x03) ]
  | 2 =>
    let v := snapReg m .leveeCtl 0
    [ (decide (getF v 31 24 < 128), 0x02), (decide (110 < getF v 23 16), 0x02),
      (decide (getF v 23 16 ≤ getF v 15 8), 0x03),
      (decide (getF v 15 8 < 70 ∨ 105 < getF v 15 8), 0x02),
      (decide (getF v 7 0 < 70 ∨ 95 < getF v 7 0), 0x02) ]
  | 3 =>
    let sz := snapF m .gaugeRing 0 4 0
    [ (decide (sz ≠ 0 ∧ (sz < 6 ∨ 20 < sz)), 0x02), (decide (snapF m .gaugeCtl 0 15 0 = 0), 0x02) ]
  | 4 =>
    (List.range s.part.stackCount).flatMap (fun i =>
      [ (decide (snapF m .stackCtl i 9 8 = 3), 0x02), (decide (168 < snapF m .stackCtl i 7 0), 0x02) ])
  | 5 =>
    let v := snapReg m .netCtl 0
    [ (decide (getF v 47 32 = 0), 0x02),
      (decide (getF v 19 0 < 100 ∨ 1000000 < getF v 19 0), 0x02) ]
      ++ (List.range s.part.ports).map (fun i => (decide (6 ≤ snapF m .portCtl i 7 4), 0x02))
  | 6 => [(decide (13 ≤ snapF m .expertCtl 0 11 8), 0x02)]
  | 7 =>
    let v := snapReg m .faultCtl 0
    [ (decide (getF v 2 1 = 3), 0x02),
      (decide ((getF v 2 1 = 1 ∨ getF v 2 1 = 2)) && !getBit (s.reg ⟨.resumeStat, 0, 0⟩) 31, 0x03),
      (getBit v 0 && (!s.feature 2 || s.part != .cn4p64 || s.pkg == .b), 0x02) ]
  | 8 =>
    (List.range 16).flatMap (fun i =>
      let v := snapReg m .polderFuncs (i + 1)
      [ (decide (v ≠ 0) && !s.polderExists (i + 1), 0x02),
        ((List.range 64).any (fun fn =>
            getBit (s.reg ⟨.polderFuncs, i + 1, 0⟩) fn && !getBit v fn && s.holdsPolder fn (i + 1)),
          0x03) ])
  | _ => []

/-- The bits set in a group mask, ascending. -/
def maskBits (w : Nat) : List Nat := (List.range 32).filter w.testBit

/-- A commit that a function may not make, or that names what does not exist: CODE and GROUP (R513). -/
def State.commitBarred (s : State) (f : Nat) (groups : List Nat) (m : FMap Long) : Option (Nat × Nat) :=
  if f ≠ 0 then
    match groups.find? (fun g => decide (g ≠ 0)) with
    | some g => some (0x06, g)
    | none => none
  else
    match groups.find? (fun g => decide (9 ≤ g)) with
    | some g => some (0x01, g)
    | none =>
      match groups.find? (fun g => s.mirror && s.pkg == .b && [1, 2, 3, 4, 6, 8].contains g) with
      | some g => some (0x06, g)
      | none =>
        if groups.contains 0 && !s.featuresConfirmed &&
            (keyRings (s.groupKeys f 0 [m])).any
              (fun n => getBit (snapReg m .sqCtl n) 31 || getBit (snapReg m .cqCtl n) 31)
        then some (0x07, 0) else none

/-- The first failing check of a commit: CODE and GROUP (R513). -/
def State.commitCheck (s : State) (f : Nat) (groups : List Nat) (m : FMap Long) : Option (Nat × Nat) :=
  match s.commitBarred f groups m with
  | some r => some r
  | none =>
    groups.findSome? (fun g =>
      match (s.groupChecks m f g).find? (fun c => c.1) with
      | some c => some (c.2, g)
      | none => none)

/-- Write COMMIT_STATUS: PENDING, GROUP and CODE; DROPPED stands. -/
def State.setCommitStatus (s : State) (f : Nat) (pending : Bool) (group code : Nat) : State :=
  let r : Reg := ⟨.commitStatus, f, 0⟩
  s.setReg r (setF (setF (setBit (s.reg r) 31 pending) 23 16 group) 7 0 code)

/-- The commit of a function that waits for boundaries. -/
def State.pendCommit (s : State) (f : Nat) : Option PendCommit :=
  FMap.get (fun _ => none) s.regs.commits f

/-- Record or drop a function's waiting commit. -/
def State.setPend (s : State) (f : Nat) (p : Option PendCommit) : State :=
  { s with regs := { s.regs with commits := FMap.set (fun _ => none) s.regs.commits f p } }

/-- The busy fields a commit meets: group, register key and field, in group order. -/
def State.commitBusy (s : State) (f : Nat) (groups : List Nat) : List (Nat × Nat × Field) :=
  groups.flatMap (fun g =>
    (s.groupKeys f g [s.regs.shadow, s.regs.active]).flatMap (fun k =>
      match s.keyReg k with
      | none => []
      | some r => (s.busyFields r (s.shadowReg r)).map (fun fd => (g, k, fd))))

/-- A busy field: its shadow returns to the active value and the error log names it (R414). -/
def State.keepBusy (s : State) (f : Nat) (b : Nat × Nat × Field) : State :=
  match s.keyReg b.2.1 with
  | none => s
  | some r =>
    let fd := b.2.2
    let s := s.setShadow r (setF (s.shadowReg r) fd.hi fd.lo (getF (s.reg r) fd.hi fd.lo))
    s.logFor 0x0003 f b.2.1 fd.lo

/-- The order that a COMMIT gives: one that clears a ring's ENABLE or lowers the power level stops (Table 15.16, R416);
where it also makes other changes it still counts as a stop (log entry 111). -/
def State.commitOrder (s : State) (f : Nat) (groups : List Nat) (snap : FMap Long) : Order :=
  let at_ (r : Reg) : Long := FMap.get regDefault snap r.key
  let level : Reg := ⟨.powerCtl, 0, 0⟩
  let lower := decide (f = 0) && groups.contains 1 && decide (getF (at_ level) 1 0 < getF (s.reg level) 1 0)
  let off := groups.contains 0 && (s.groupKeys f 0 [snap, s.regs.active]).any (fun k =>
    match s.keyReg k with
    | some r => (r.kind == .sqCtl || r.kind == .cqCtl) && getBit (s.reg r) 31 && !getBit (at_ r) 31
    | none => false)
  funcOrder (lower || off) f 0

/-- A write to COMMIT by a function: snapshot, checks, and PENDING until every named group has applied
(R413 to R415). `against` is a contradicting order of the same control cycle (R416). -/
def State.commit (s : State) (f mask : Nat) (against : Option Order) : State :=
  let mask := mask % 2 ^ 32
  if mask = 0 then s
  else if (s.pendCommit f).isSome then s.latch ⟨.commitStatus, f, 0⟩ 30
  else
    let groups := maskBits mask
    let snap := s.snapshot f groups
    match s.commitCheck f groups snap with
    | some (code, group) => s.setCommitStatus f false group code
    | none =>
      let mine := s.commitOrder f groups snap
      match beatenBy mine against with
      | some _ =>
        (s.logOrders f mine against).setCommitStatus f false (groups.headD 0xFF) 0x05
      | none =>
        let s := s.logOrders f mine against
        let busy := s.commitBusy f groups
        let s := busy.foldl (fun t b => t.keepBusy f b) s
        let s := s.setPend f (some { groups := groups, snap := snap })
        match busy with
        | [] => s.setCommitStatus f true 0xFF 0x00
        | b :: _ => s.setCommitStatus f true b.1 0x04

/-- The idle-only fields of a group whose block runs at the group's boundary and whose value would change (R414). -/
def State.lateBusy (s : State) (f g : Nat) (snap : FMap Long) : List (Nat × Nat × Field) :=
  (s.groupKeys f g [snap, s.regs.active]).flatMap (fun k =>
    match s.keyReg k with
    | none => []
    | some r => (s.busyFields r (FMap.get regDefault snap k)).map (fun fd => (g, k, fd)))

/-- What a register takes from a snapshot at its group's boundary: an idle-only field whose block runs keeps its value (R414). -/
def State.boundaryValue (s : State) (snap : FMap Long) (k : Nat) : Long :=
  match s.keyReg k with
  | none => FMap.get regDefault snap k
  | some r => s.keptValue r (FMap.get regDefault snap k)

/-- Copy a group's snapshot into the active copies (R413 step 3). -/
def State.copyGroup (s : State) (f g : Nat) (snap : FMap Long) : State :=
  let ks := s.groupKeys f g [snap, s.regs.active]
  { s with regs := { s.regs with
      active := ks.foldl (fun m k => FMap.set regDefault m k (s.boundaryValue snap k)) s.regs.active } }

/-- What R414 does for the idle-only fields that are busy at the boundary: their shadows go back, the log names them, and
COMMIT_STATUS reports CFG_BUSY. -/
def State.keepLate (s : State) (f g : Nat) (snap : FMap Long) : State :=
  match s.lateBusy f g snap with
  | [] => s
  | bs =>
    let r : Reg := ⟨.commitStatus, f, 0⟩
    let g := if getF (s.reg r) 7 0 = 0x04 then min g (getF (s.reg r) 23 16) else g
    (bs.foldl (fun (s : State) b => s.keepBusy f b) s).setCommitStatus f true g 0x04

/-- In mirror mode package A passes the commit of a forwarded group to package B (R515). -/
def State.forwardGroup (s : State) (g : Nat) (snap : FMap Long) : State :=
  if s.mirror && s.pkg == .a && [1, 2, 3, 4, 6, 8].contains g then
    s.emit (.pairCommit g ((s.groupKeys 0 g [snap, s.regs.active]).map
      (fun k => (k, FMap.get regDefault snap k))))
  else s

/-- A group of a waiting commit applies at its boundary; PENDING clears with the last one. -/
def State.applyGroup (s : State) (f g : Nat) : State :=
  match s.pendCommit f with
  | none => s
  | some p =>
    if p.groups.contains g then
      let s := ((s.keepLate f g p.snap).copyGroup f g p.snap).forwardGroup g (s.copyGroup f g p.snap).regs.active
      let rest := p.groups.filter (fun h => h ≠ g)
      if rest.isEmpty then
        let r : Reg := ⟨.commitStatus, f, 0⟩
        (s.setPend f none).setReg r (setBit (s.reg r) 31 false)
      else s.setPend f (some { p with groups := rest })
    else s

/-- Groups whose boundary is an event of its own: the 10 µs window, the next STEP_COMMIT evaluation and
the next course submitted (R413). -/
def eventGroup (g : Nat) : Bool := [1, 2, 3, 6].contains g

/-- PAIR_COMMIT_FORWARD: in mirror mode package B applies a group that package A applied, in both its
copies, at its own boundary (R515). -/
def execPairCommitForward (group : Nat) (values : List (Nat × Long)) (s : State) :
    Host.Outcome State Fault Refusal :=
  if s.mirror && s.pkg == .b && [1, 2, 3, 4, 6, 8].contains group then
    let ok := values.filter (fun kv =>
      match s.keyReg kv.1 with
      | some r => decide (r.kind.group = some group)
      | none => false)
    .next { s with regs := { s.regs with
      active := FMap.setMany regDefault s.regs.active ok
      shadow := FMap.setMany regDefault s.regs.shadow ok } }
  else .next s

end Sys2Proof.Machine
end

