-- ==== Sys2Proof/Machine/Sha.lean ====
section
/-! DEFINITION. SHA-384 and AES-256 key wrap, which R474, R475 and R488 name. PRESUMED (log entry 84): they are those of FIPS 180-4 and
RFC 3394. -/

namespace Sys2Proof.Machine

/-- The greatest r below 2^`n` with `f r` at most `v`, for a rising `f`. -/
def rootBits (f : Nat → Nat) (v : Nat) : Nat → Nat → Nat
  | 0, r => r
  | n + 1, r => rootBits f v n (if f (r + 2 ^ n) ≤ v then r + 2 ^ n else r)

/-- The first 80 primes. -/
def primes80 : List Nat :=
  (List.range 410).filter (fun n => 2 ≤ n && (List.range 21).all (fun d => decide (d < 2 ∨ n ≤ d) || decide (n % d ≠ 0)))

/-- The round constants: 64 bits of the fraction of each prime's cube root. -/
def shaK : List Nat := primes80.map (fun p => rootBits (fun r => r * r * r) (p * 2 ^ 192) 68 0 % 2 ^ 64)

/-- The initial value: 64 bits of the fraction of the square roots of the ninth to sixteenth primes. -/
def shaInit : List Nat := ((primes80.drop 8).take 8).map (fun p => rootBits (fun r => r * r) (p * 2 ^ 128) 68 0 % 2 ^ 64)

/-- Rotate a 64-bit word right. -/
def rotr64 (x n : Nat) : Nat := (x / 2 ^ n) ||| (x * 2 ^ (64 - n) % 2 ^ 64)

/-- The sigma functions: three rotations, the last of which may be a shift. -/
def shaSigma (a b c : Nat) (shift : Bool) (x : Nat) : Nat :=
  rotr64 x a ^^^ rotr64 x b ^^^ (if shift then x / 2 ^ c else rotr64 x c)

/-- Extend the message schedule, latest word first. -/
def shaSchedule : Nat → List Nat → List Nat
  | 0, ws => ws
  | n + 1, ws =>
    let w := shaSigma 19 61 6 true (ws.getD 1 0) + ws.getD 6 0 + shaSigma 1 8 7 true (ws.getD 14 0) + ws.getD 15 0
    shaSchedule n (w % 2 ^ 64 :: ws)

/-- One round, with its constant and schedule word added. -/
def shaRound (st : List Nat) (kw : Nat) : List Nat :=
  match st with
  | [a, b, c, d, e, f, g, h] =>
    let ch := (e &&& f) ^^^ ((2 ^ 64 - 1 - e) &&& g)
    let maj := (a &&& b) ^^^ (a &&& c) ^^^ (b &&& c)
    let t := h + shaSigma 14 18 41 false e + ch + kw
    [(t + shaSigma 28 34 39 false a + maj) % 2 ^ 64, a, b, c, (d + t) % 2 ^ 64, e, f, g]
  | _ => st

/-- A big-endian number. -/
def beNat (bs : List Byte) : Nat := bs.foldl (fun a b => 256 * a + b.toNat) 0

/-- `n` big-endian bytes of a number. -/
def toBe (n v : Nat) : List Byte := (toLe n v).reverse

/-- Compress one 128-byte block. -/
def shaBlock (st : List Nat) (block : List Byte) : List Nat :=
  let ws := (shaSchedule 64 (((List.range 16).map (fun i => beNat ((block.drop (8 * i)).take 8))).reverse)).reverse
  let out := ((shaK.zip ws).map (fun q => q.1 + q.2)).foldl shaRound st
  List.zipWith (fun a b => (a + b) % 2 ^ 64) st out

/-- Compress the blocks of a padded message. -/
def shaBlocks : Nat → List Nat → List Byte → List Nat
  | 0, st, _ => st
  | n + 1, st, bs => shaBlocks n (shaBlock st (bs.take 128)) (bs.drop 128)

/-- SHA-384 of a byte string. -/
def sha384 (m : List Byte) : List Byte :=
  let z := (128 - (m.length + 17) % 128) % 128
  let p := m ++ [0x80] ++ List.replicate z 0 ++ toBe 16 (8 * m.length)
  ((shaBlocks (p.length / 128) shaInit p).take 6).flatMap (toBe 8)

/-- One step of the key wrap: the register A and the 64-bit blocks, of which number `i` of round `j` is taken. -/
def wrapStep (ks : List (List Nat)) (n : Nat) (a : List Nat × List (List Nat)) (t : Nat) : List Nat × List (List Nat) :=
  let i := t % n
  let b := aesEncrypt ks (a.1 ++ a.2.getD i [])
  let c := (toBe 8 (t + 1)).map (·.toNat)
  (xorList (b.take 8) c, a.2.set i (b.drop 8))

/-- AES-256 key wrap of a multiple of 8 bytes: 8 bytes more come out. -/
def aesWrap (key m : List Byte) : List Byte :=
  let ks := aesRoundKeys (key.map (·.toNat))
  let n := m.length / 8
  let blocks := (List.range n).map (fun i => ((m.drop (8 * i)).take 8).map (·.toNat))
  let r := (List.range (6 * n)).foldl (wrapStep ks n) (List.replicate 8 0xA6, blocks)
  (r.1 ++ r.2.flatten).map (BitVec.ofNat 8)

/-- One step of the key unwrap, the inverse of `wrapStep`. -/
def unwrapStep (ks : List (List Nat)) (n : Nat) (a : List Nat × List (List Nat)) (t : Nat) : List Nat × List (List Nat) :=
  let i := t % n
  let c := (toBe 8 (t + 1)).map (·.toNat)
  let b := aesDecrypt ks (xorList a.1 c ++ a.2.getD i [])
  (b.take 8, a.2.set i (b.drop 8))

/-- AES-256 key unwrap: nothing where the integrity check fails. -/
def aesUnwrap (key m : List Byte) : Option (List Byte) :=
  let ks := aesRoundKeys (key.map (·.toNat))
  let n := m.length / 8 - 1
  let blocks := (List.range (n + 1)).map (fun i => ((m.drop (8 * i)).take 8).map (·.toNat))
  let r := (List.range (6 * n)).reverse.foldl (unwrapStep ks n) (blocks.headD [], blocks.tail)
  if r.1 = List.replicate 8 0xA6 then some (r.2.flatten.map (BitVec.ofNat 8)) else none

end Sys2Proof.Machine
end

