-- ==== Sys2Proof/Machine/Crc.lean ====
section
/-! DEFINITION. The CRC-64 with the ECMA-182 polynomial (R461), which digests, descriptions and the freeboard
use. -/

namespace Sys2Proof.Machine

/-- One bit, most significant first, into the register. -/
def crcBit (c : Long) (b : Bool) : Long :=
  let top := getBit c 63
  let c := c <<< 1
  if top != b then c ^^^ 0x42F0E1EBA9EA3693 else c

/-- One byte into the register. -/
def crcByte (c : Long) (b : Byte) : Long :=
  (List.range 8).foldl (fun c i => crcBit c (b.getLsbD (7 - i))) c

/-- The CRC-64 of a byte string: initial value 0, no reflection, no final XOR. -/
def crc64 (bs : List Byte) : Long := bs.foldl crcByte 0

end Sys2Proof.Machine
end

