-- ==== Sys2Proof/Machine/Geometry.lean ====
section
/-! DEFINITION. Where things lie: the tile grid of a tensor (R64), the shard a device holds (R75, R76), the
slots of a home (R286) and the positions of elements in tiles and blocks (R94, R285). -/

namespace Sys2Proof.Machine

/-- A format that is an index or mask, not a number. -/
def indexFormat (f : Nat) : Bool := f == 0x08 || f == 0x09

/-! ## Shapes and the tile grid -/

/-- The shape with a rank-1 tensor read as (1, n) (R64). -/
def TensorDesc.dims (d : TensorDesc) : List Nat :=
  if d.rank = 1 then [1, d.shape.getD 0 0] else d.shape.take d.rank

/-- The sharding entries in step with `dims`; a rank-1 tensor's added dimension is replicated. -/
def TensorDesc.shards (d : TensorDesc) : List Nat :=
  if d.rank = 1 then [0, d.shard.getD 0 0] else d.shard.take d.rank

/-- The product of a list. -/
def prodNat (l : List Nat) : Nat := l.foldl (· * ·) 1

/-- The extents before the last two. -/
def TensorDesc.leading (d : TensorDesc) : List Nat := d.dims.take (d.dims.length - 2)

/-- Rows: the last dimension but one. -/
def TensorDesc.rows (d : TensorDesc) : Nat := d.dims.getD (d.dims.length - 2) 1

/-- Columns: the last dimension. -/
def TensorDesc.cols (d : TensorDesc) : Nat := d.dims.getD (d.dims.length - 1) 1

/-- Tile rows of the grid. -/
def TensorDesc.tileRows (d : TensorDesc) : Nat := ceilDiv d.rows 64

/-- Tile columns of the grid. -/
def TensorDesc.tileCols (d : TensorDesc) : Nat := ceilDiv d.cols 64

/-- Tiles of the global grid. -/
def TensorDesc.tileCount (d : TensorDesc) : Nat := prodNat d.leading * d.tileRows * d.tileCols

/-- Elements of the tensor. -/
def TensorDesc.elemCount (d : TensorDesc) : Nat := prodNat d.dims

/-- A tile's place: its leading index (row-major over the leading dimensions), tile row and tile column. -/
structure TilePos where
  lead : Nat
  i : Nat
  j : Nat
  deriving DecidableEq, Repr

/-- The place of a tile index. -/
def TensorDesc.tilePos (d : TensorDesc) (t : Nat) : TilePos :=
  let per := d.tileRows * d.tileCols
  ⟨t / per, t % per / d.tileCols, t % d.tileCols⟩

/-- The tile index of a place. -/
def TensorDesc.tileIndex (d : TensorDesc) (p : TilePos) : Nat :=
  (p.lead * d.tileRows + p.i) * d.tileCols + p.j

/-- Valid rows of a tile (R68). -/
def TensorDesc.extRows (d : TensorDesc) (t : Nat) : Nat := min 64 (d.rows - 64 * (d.tilePos t).i)

/-- Valid columns of a tile (R68). -/
def TensorDesc.extCols (d : TensorDesc) (t : Nat) : Nat := min 64 (d.cols - 64 * (d.tilePos t).j)

/-- The flat row-major index of an element of a tile in the global tensor (R108). -/
def TensorDesc.flat (d : TensorDesc) (t r c : Nat) : Nat :=
  let p := d.tilePos t
  (p.lead * d.rows + 64 * p.i + r) * d.cols + 64 * p.j + c

/-- The tile, row and column that hold a flat index. -/
def TensorDesc.ofFlat (d : TensorDesc) (x : Nat) : Nat × Nat × Nat :=
  let c := x % d.cols
  let r := x / d.cols % d.rows
  let l := x / d.cols / d.rows
  (d.tileIndex ⟨l, r / 64, c / 64⟩, r % 64, c % 64)

/-! ## Layout -/

/-- ELEM_ORDER is COL (Table 11.1). -/
def TensorDesc.colOrder (d : TensorDesc) : Bool := d.layout.testBit 0

/-- SPLIT_SCALES. -/
def TensorDesc.splitScales (d : TensorDesc) : Bool := d.layout.testBit 3

/-- PANEL_ORDER 1. -/
def TensorDesc.panelCol (d : TensorDesc) : Bool := d.layout.testBit 2

/-- A LAYOUT byte is valid (R284). -/
def layoutOk (layout scaleBlk format : Nat) : Bool :=
  decide (layout < 16) && decide (layout % 4 ≤ 1) && !(layout.testBit 3 && scaleBlk = 0 && format < 0x10)
    && !(decide (0x10 ≤ format) && layout.testBit 0)

/-- The element format of a tensor's values: FORMAT of a dense tensor, VALUE_FORMAT of a sparse one. -/
def TensorDesc.elemCode (d : TensorDesc) : Nat := if d.format < 0x10 then d.format else d.valueFormat

/-- The tensor is sparse. -/
def TensorDesc.sparse (d : TensorDesc) : Bool := decide (0x10 ≤ d.format)

/-- FP8 without block scales carries an outer scale (R100). -/
def TensorDesc.outerScaled (d : TensorDesc) : Bool :=
  (d.elemCode == 3 || d.elemCode == 4) && d.scaleBlk == 0

/-- The linear position of an element in its tile (R285). -/
def elemPos (col : Bool) (r c : Nat) : Nat := if col then 64 * c + r else 64 * r + c

/-- The scale block of an element of a dense tile (Table 3.4); B elements to a block. -/
def elemBlock (col : Bool) (blk r c : Nat) : Nat :=
  if blk = 0 then 0 else elemPos col r c / blockLen blk

/-- Scale bytes of a tile (Table 3.4). -/
def scalesPerTile (blk : Nat) : Nat := if blk = 0 then 0 else 4096 / blockLen blk

/-- Element bytes of a full tile. -/
def tileBytes (code : Nat) : Nat := 4096 * codeBits code / 8

/-- Z of R286. -/
def TensorDesc.slotBytes (d : TensorDesc) : Nat :=
  tileBytes d.format + (if d.scaleBlk ≠ 0 && !d.splitScales then roundUp (scalesPerTile d.scaleBlk) 64 else 0)

/-- The slot of tile (L, i, j) of a local grid of a × b tiles (R286). -/
def slotOf (panelCol : Bool) (a b lead i j : Nat) : Nat :=
  let P := i / 8
  let Q := j / 8
  let p := min 8 (a - 8 * P)
  let q := min 8 (b - 8 * Q)
  let s := if panelCol then (j - 8 * Q) * p + (i - 8 * P) else (i - 8 * P) * q + (j - 8 * Q)
  lead * a * b + 8 * P * b + 8 * Q * p + s

/-! ## Shards (R75) -/

/-- KIND, AXIS and BLOCK of a sharding entry (Table 2.12). -/
def shardKind (e : Nat) : Nat := e % 4
/-- AXIS. -/
def shardAxis (e : Nat) : Nat := e / 4 % 4
/-- BLOCK. -/
def shardBlock (e : Nat) : Nat := e / 16 % 2 ^ 24

/-- The size of a mesh axis; 1 without a mesh. -/
def axisSize (m : Option Mesh) (a : Nat) : Nat :=
  match m with
  | none => 1
  | some m => max 1 (m.axes.getD a 0)

/-- The coordinate of a device on an axis. -/
def coordOf (m : Option Mesh) (dev a : Nat) : Nat :=
  match m with
  | none => 0
  | some m =>
    match m.entries.find? (fun e => e.device = dev) with
    | some e => e.coord.getD a 0
    | none => 0

/-- This device's index in the mesh. -/
def selfDevice (m : Option Mesh) : Nat :=
  match m with
  | none => 0
  | some m => m.self

/-- Index `x` of a dimension of extent `n` with sharding entry `e` and unit `u` lies on coordinate `c`. -/
def holdsIndex (P e n u c x : Nat) : Bool :=
  match shardKind e with
  | 1 => decide (x / (u * ceilDiv n (u * P)) = c)
  | 2 => decide (x / max 1 (shardBlock e) % P = c)
  | _ => true

/-- The indices over the leading dimensions of a row-major leading index. -/
def leadIndices : List Nat → Nat → List Nat
  | [], _ => []
  | _ :: ns, l => (l / prodNat ns) :: leadIndices ns (l % prodNat ns)

/-- Device `dev` holds tile `t` of a tensor (R76): every dimension's index lies on its coordinates. -/
def holdsTile (m : Option Mesh) (dev : Nat) (d : TensorDesc) (t : Nat) : Bool :=
  let p := d.tilePos t
  let k := d.dims.length
  let idx := leadIndices d.leading p.lead ++ [64 * p.i, 64 * p.j]
  (List.range k).all (fun q =>
    let e := d.shards.getD q 0
    let u := if q + 2 < k then 1 else 64
    let a := shardAxis e
    holdsIndex (axisSize m a) e (d.dims.getD q 0) u (coordOf m dev a) (idx.getD q 0))

/-- This device holds the tile. -/
def State.holds (s : State) (d : TensorDesc) (t : Nat) : Bool :=
  holdsTile s.mesh (selfDevice s.mesh) d t

/-- The tiles of a tensor that this device holds, ascending. -/
def State.heldTiles (s : State) (d : TensorDesc) : List Nat :=
  (List.range d.tileCount).filter (s.holds d)

/-- A dimension is sharded over a mesh axis of more than one device. -/
def State.shardedDim (s : State) (d : TensorDesc) (q : Nat) : Bool :=
  let e := d.shards.getD q 0
  decide (shardKind e ≠ 0) && decide (1 < axisSize s.mesh (shardAxis e))

/-- No dimension is sharded across devices. -/
def State.replicated (s : State) (d : TensorDesc) : Bool :=
  (List.range d.dims.length).all (fun q => !s.shardedDim d q)

/-- Local tile grid of the shard along the last two dimensions (R286): the held tile rows and columns. -/
def State.localAxis (s : State) (d : TensorDesc) (q n : Nat) : List Nat :=
  let e := d.shards.getD q 0
  let a := shardAxis e
  (List.range n).filter (fun x =>
    holdsIndex (axisSize s.mesh a) e (d.dims.getD q 0) 64 (coordOf s.mesh (selfDevice s.mesh) a) (64 * x))

/-- Local indices over the leading dimensions that the device holds, as row-major global indices. -/
def State.localLeads (s : State) (d : TensorDesc) : List Nat :=
  (List.range (prodNat d.leading)).filter (fun l =>
    let idx := leadIndices d.leading l
    (List.range d.leading.length).all (fun q =>
      let e := d.shards.getD q 0
      let a := shardAxis e
      holdsIndex (axisSize s.mesh a) e (d.dims.getD q 0) 1 (coordOf s.mesh (selfDevice s.mesh) a)
        (idx.getD q 0)))

/-- The slot of a held tile in the device's home (R286). -/
def State.slot (s : State) (d : TensorDesc) (t : Nat) : Nat :=
  let p := d.tilePos t
  let k := d.dims.length
  let is := s.localAxis d (k - 2) d.tileRows
  let js := s.localAxis d (k - 1) d.tileCols
  slotOf d.panelCol is.length js.length ((s.localLeads d).idxOf p.lead) (is.idxOf p.i) (js.idxOf p.j)

/-- Halves of a home by policy (R332): 0 TRANSIENT and 1 SINGLE keep one, 2 DOUBLE two. -/
def TensorDesc.halves (d : TensorDesc) : Nat := if d.genPolicy = 2 then 2 else 1

/-- Bytes reserved for a home of `n` tiles or blocks (Table 12.4), in whole 64 KiB granules. -/
def TensorDesc.homeBytes (d : TensorDesc) (n : Nat) : Nat :=
  let bytes :=
    if d.sparse then d.halves * (roundUp (8 * n) 64 + d.pool * 65536)
    else
      let sc := if d.splitScales then roundUp (n * scalesPerTile d.scaleBlk) 64 else 0
      d.halves * (n * d.slotBytes + sc)
        + (if d.genPolicy = 2 then 2 * roundUp (ceilDiv n 8) 64 else 0)
  roundUp bytes 65536

/-! ## Scope units (R224) -/

/-- The units that a tile holds a part of. -/
def TensorDesc.unitsOfTile (d : TensorDesc) (scope k : Nat) : List Nat :=
  let p := d.tilePos k
  match scope with
  | 0 => [0]
  | 1 => [p.lead]
  | 2 => (List.range (d.extRows k)).map (fun r => p.lead * d.rows + 64 * p.i + r)
  | _ => [k]

/-- The unit of a position of a tile. -/
def TensorDesc.unitOf (d : TensorDesc) (scope k p : Nat) : Nat :=
  let q := d.tilePos k
  match scope with
  | 0 => 0
  | 1 => q.lead
  | 2 => q.lead * d.rows + 64 * q.i + p / 64
  | _ => k

/-- The units that the device holds any part of, ascending. -/
def State.maskUnits (s : State) (d : TensorDesc) (scope : Nat) : List Nat :=
  sortNat ((s.heldTiles d).flatMap (d.unitsOfTile scope))

/-- The held tiles of a unit. -/
def State.unitTiles (s : State) (d : TensorDesc) (scope u : Nat) : List Nat :=
  (s.heldTiles d).filter (fun k => (d.unitsOfTile scope k).contains u)

end Sys2Proof.Machine
end

