-- ==== Sys2Proof/Machine/Philox.lean ====
section
/-! DEFINITION. The counter generator Philox4x32-10 with the key and counter of Table 9.4 (R246, R247). -/

namespace Sys2Proof.Machine

/-- Four 32-bit words. -/
structure Quad where
  w0 : Nat
  w1 : Nat
  w2 : Nat
  w3 : Nat
  deriving DecidableEq, Repr

/-- Word `j` of four. -/
def Quad.word (q : Quad) (j : Nat) : Nat :=
  match j with
  | 0 => q.w0
  | 1 => q.w1
  | 2 => q.w2
  | _ => q.w3

/-- One round: the two multiplications and the mix with the key (R246). -/
def philoxRound (c : Quad) (k0 k1 : Nat) : Quad :=
  let p0 := 0xD2511F53 * c.w0
  let p1 := 0xCD9E8D57 * c.w2
  { w0 := Nat.xor (Nat.xor (p1 / 2 ^ 32) c.w1) k0
    w1 := p1 % 2 ^ 32
    w2 := Nat.xor (Nat.xor (p0 / 2 ^ 32) c.w3) k1
    w3 := p0 % 2 ^ 32 }

/-- Rounds with the key bumped between them. -/
def philoxRun : Nat → Quad → Nat → Nat → Quad
  | 0, c, _, _ => c
  | n + 1, c, k0, k1 =>
    philoxRun n (philoxRound c k0 k1) ((k0 + 0x9E3779B9) % 2 ^ 32) ((k1 + 0xBB67AE85) % 2 ^ 32)

/-- Philox4x32-10. -/
def philox (c : Quad) (k0 k1 : Nat) : Quad := philoxRun 10 c k0 k1

/-- Purposes (Table 9.5). -/
inductive Purpose where
  | rounding | dropout | regrowth | noise | user
  deriving DecidableEq, Repr

/-- The purpose code of Table 9.5. -/
def Purpose.code : Purpose → Nat
  | .rounding => 0
  | .dropout => 1
  | .regrowth => 2
  | .noise => 3
  | .user => 4

/-- The counter of Table 9.4 for a tensor id, f = x >> 2, a step and a purpose. -/
def philoxCounter (tensor f step : Nat) (p : Purpose) : Quad where
  w0 := f % 2 ^ 32
  w1 := (step % 256) * 2 ^ 24 + p.code * 2 ^ 20 + (f / 2 ^ 32) % 2 ^ 18
  w2 := (step / 2 ^ 8) % 2 ^ 32
  w3 := (tensor % 2 ^ 24) * 2 ^ 8 + (step / 2 ^ 40) % 256

/-- The random word of an element: its seed, tensor, flat index, step and purpose (R246). -/
def randomWord (seed tensor x step : Nat) (p : Purpose) : Nat :=
  (philox (philoxCounter tensor (x / 4) step p) (seed % 2 ^ 32) (seed / 2 ^ 32 % 2 ^ 32)).word (x % 4)

end Sys2Proof.Machine
end

