-- ==== Sys2Proof/Machine/TileOps.lean ====
section
/-! DEFINITION. Tiles as values: reading an element of a tile with its scales, and writing a tile of
values into a tensor's format, with the scales and random words the rules choose (R93 to R110). -/

namespace Sys2Proof.Machine

/-- The value of an element code under its block scale or outer scale (R92, R100). -/
def codeVal (code blk outer scale c : Nat) : Val :=
  match fmtOf code with
  | none => .nan
  | some f =>
    if blk ≠ 0 then scaledVal f c scale
    else if code = 3 ∨ code = 4 then (f.decode c).shift (outerExp outer)
    else f.decode c

/-- The value of element (r, c) of a dense tile; outside the valid extent it is +0 (R68). -/
def Tile.val (t : Tile) (x : TileCtx) (r c : Nat) : Val :=
  if r < t.rows ∧ c < t.cols then
    codeVal t.hdr.format t.hdr.scaleBlk x.outer
      (t.scales.getD (elemBlock x.col t.hdr.scaleBlk r c) 0x7F) (t.at r c)
  else Val.zero

/-- The element decoded to FP32, with the flags of R93. -/
def Tile.fp32 (t : Tile) (x : TileCtx) (r c : Nat) : Nat × Flags := ofVal32 (t.val x r c)

/-- OPTIONS bit 0: the round-up rule. -/
def ConvSpec.roundUp (k : ConvSpec) : Bool := k.desc.options.testBit 0

/-- OPTIONS bit 1: an E4M3 overflow gives NaN. -/
def ConvSpec.nanOvf (k : ConvSpec) : Bool := k.desc.options.testBit 1

/-- The rounding of one element of tile `t` (R105, R107). -/
def ConvSpec.mode (k : ConvSpec) (t r c : Nat) : Rounding :=
  if k.grad then .stochastic (randomWord k.seed k.tensor (k.desc.flat t r c) k.step .rounding) else .nearest

/-- Convert one value to a tensor's element format without block scales. -/
def ConvSpec.plain (k : ConvSpec) (mode : Rounding) (v : Val) : Nat × Flags :=
  match fmtOf k.desc.elemCode with
  | none => (0, 0)
  | some f =>
    let v := if k.desc.outerScaled then v.shift (-(outerExp k.outer)) else v
    f.convert mode k.nanOvf v

/-- The positions of a block in a tile of a valid extent (Table 3.4). -/
def blockElems (col : Bool) (blk j rows cols : Nat) : List (Nat × Nat) :=
  let B := blockLen blk
  ((List.range B).map (fun q =>
    let e := j * B + q
    if col then (e % 64, e / 64) else (e / 64, e % 64))).filter (fun p => decide (p.1 < rows ∧ p.2 < cols))

/-- The valid positions of an extent, row-major. -/
def extentPos (rows cols : Nat) : List (Nat × Nat) :=
  (List.range rows).flatMap (fun r => (List.range cols).map (fun c => (r, c)))

/-- List element codes at positions as a tile's table; the zero pattern is not listed. -/
def codesAt (ps : List ((Nat × Nat) × Nat)) : FMap Nat :=
  FMap.setMany (fun _ => 0) [] (ps.map (fun p => (64 * p.1.1 + p.1.2, p.2)))

/-- The header of a dense tile of a tensor that a station emits (R65); of a sparse tensor it carries the element
format of the values (R151). -/
def TensorDesc.header (d : TensorDesc) (id t gen epoch : Nat) : TileHdr where
  tensor := id
  index := t
  extRows := d.extRows t - 1
  extCols := d.extCols t - 1
  format := d.elemCode
  scaleBlk := d.scaleBlk
  gen := gen % 2 ^ 16
  epoch := epoch

/-- Write a tile of values: element codes, scales and flags (R96 to R110). -/
def ConvSpec.write (k : ConvSpec) (t : Nat) (v : Nat → Nat → Val) : FMap Nat × List Nat × Flags :=
  let rows := k.desc.extRows t
  let cols := k.desc.extCols t
  if k.desc.scaleBlk = 0 then
    let cs := (extentPos rows cols).map (fun p => (p, k.plain (k.mode t p.1 p.2) (v p.1 p.2)))
    (codesAt (cs.map (fun c => (c.1, c.2.1))), [], cs.foldl (fun a c => a ||| c.2.2) 0)
  else
    match fmtOf k.desc.elemCode with
    | none => ([], [], 0)
    | some f =>
      let bs := (List.range (scalesPerTile k.desc.scaleBlk)).map (fun j =>
        let ps := blockElems k.desc.colOrder k.desc.scaleBlk j rows cols
        (ps, convertBlock f k.roundUp (ps.map (fun p => (v p.1 p.2, k.mode t p.1 p.2)))))
      (codesAt (bs.flatMap (fun b => b.1.zip b.2.2.1)), bs.map (fun b => b.2.1),
        bs.foldl (fun a b => a ||| b.2.2.2) 0)

/-- A dense tile of values for a tensor, with its flags. -/
def ConvSpec.tile (k : ConvSpec) (t gen epoch : Nat) (v : Nat → Nat → Val) : Tile × Flags :=
  let w := k.write t v
  ({ hdr := k.desc.header k.tensor t gen epoch, elems := w.1, scales := w.2.1 }, w.2.2)

/-- A LONG_SUM tile of FP32 partials (R69). -/
def longTile (d : TensorDesc) (id t gen epoch : Nat) (v : Nat → Nat → Nat) : Tile :=
  let rows := d.extRows t
  let cols := d.extCols t
  { hdr := { d.header id t gen epoch with format := 0, scaleBlk := 0, longSum := true }
    elems := codesAt ((extentPos rows cols).map (fun p => (p, v p.1 p.2))) }

end Sys2Proof.Machine
end

