-- ==== Sys2Proof/Machine/Image.lean ====
section
/-! DEFINITION. Tiles as bytes: packed elements (R91), the slot of a dense tile (R286), and the host images of
dense tensors (R294). -/

namespace Sys2Proof.Machine

/-! ## Packing (R91) -/

/-- One number from up to eight codes of `w` bits, the first lowest. -/
def packGroup (w : Nat) : List Nat → Nat
  | [] => 0
  | c :: cs => c % 2 ^ w + 2 ^ w * packGroup w cs

/-- Pack codes of `w` bits in ascending order from bit 0 of the lowest byte, eight codes at a time; the fuel is
the number of groups. -/
def packFrom (w : Nat) : Nat → List Nat → List Byte
  | 0, _ => []
  | n + 1, cs => toLe (ceilDiv (w * (cs.take 8).length) 8) (packGroup w (cs.take 8)) ++ packFrom w n (cs.drop 8)

/-- Pack codes of `w` bits. -/
def packCodes (w : Nat) (cs : List Nat) : List Byte :=
  if w % 8 = 0 then cs.flatMap (toLe (w / 8)) else packFrom w (ceilDiv cs.length 8) cs

/-- The codes of a group. -/
def unpackGroup (w v : Nat) : Nat → List Nat
  | 0 => []
  | n + 1 => v % 2 ^ w :: unpackGroup w (v / 2 ^ w) n

/-- Unpack groups of eight codes of `w` bits. -/
def unpackFrom (w : Nat) : Nat → List Byte → List Nat
  | 0, _ => []
  | n + 1, bs => unpackGroup w (leNat (bs.take w)) 8 ++ unpackFrom w n (bs.drop w)

/-- The first `n` codes of `w` bits of a byte list. -/
def unpackCodes (w n : Nat) (bs : List Byte) : List Nat := (unpackFrom w (ceilDiv n 8) bs).take n

/-- Pad with zero bytes to a multiple of `k`. -/
def padTo (k : Nat) (bs : List Byte) : List Byte := bs ++ List.replicate (roundUp bs.length k - bs.length) 0

/-! ## Dense tiles (R286) -/

/-- The row and column of an element position of a tile (R285). -/
def elemAt (col : Bool) (e : Nat) : Nat × Nat := if col then (e % 64, e / 64) else (e / 64, e % 64)

/-- The number of a position of a tile in its element order. -/
def orderOf (col : Bool) (r c : Nat) : Nat := if col then 64 * c + r else 64 * r + c

/-- The 4,096 element codes of a dense tile in element order. -/
def Tile.codes (t : Tile) (col : Bool) : List Nat :=
  (List.range 4096).map (fun e => t.at (elemAt col e).1 (elemAt col e).2)

/-- The scale bytes of a dense tile. -/
def Tile.scaleBytes (t : Tile) (blk : Nat) : List Byte :=
  (List.range (scalesPerTile blk)).map (fun j => BitVec.ofNat 8 (t.scales.getD j 0x7F))

/-- The element bytes of a tile of a tensor. -/
def TensorDesc.elemBytes (d : TensorDesc) (t : Tile) : List Byte := packCodes (codeBits d.format) (t.codes d.colOrder)

/-- The Z bytes of a tile's slot with its scales beside it (SPLIT_SCALES = 0). -/
def TensorDesc.imageBytes (d : TensorDesc) (t : Tile) : List Byte :=
  d.elemBytes t ++ (if d.scaleBlk = 0 then [] else padTo 64 (t.scaleBytes d.scaleBlk))

/-- Element codes of a tile as its table: positions outside the valid extent are zero patterns (R68). -/
def TensorDesc.tableOf (d : TensorDesc) (t : Nat) (cs : List Nat) : FMap Nat :=
  let rows := d.extRows t
  let cols := d.extCols t
  codesAt (((List.range 4096).zip cs).filterMap (fun q =>
    let p := elemAt d.colOrder q.1
    if p.1 < rows ∧ p.2 < cols then some (p, q.2) else none))

/-- Bytes of one tile in an IMAGE: its elements, then its scales. -/
def TensorDesc.imageSize (d : TensorDesc) : Nat :=
  tileBytes d.format + (if d.scaleBlk = 0 then 0 else roundUp (scalesPerTile d.scaleBlk) 64)

/-- The tile that Z bytes of an IMAGE spell. -/
def TensorDesc.readImage (d : TensorDesc) (id t gen epoch : Nat) (bs : List Byte) : Tile :=
  { hdr := d.header id t gen epoch
    elems := d.tableOf t (unpackCodes (codeBits d.format) 4096 bs)
    scales := ((bs.drop (tileBytes d.format)).take (scalesPerTile d.scaleBlk)).map (·.toNat) }

/-! ## ROWMAJOR and PLANES (R294) -/

/-- The shard's global indices along dimension `q` of `dims` that this device holds. -/
def State.heldIndices (s : State) (d : TensorDesc) (q : Nat) : List Nat :=
  let n := d.dims.getD q 0
  let e := d.shards.getD q 0
  let a := shardAxis e
  let u := if q + 2 < d.dims.length then 1 else 64
  (List.range n).filter (holdsIndex (axisSize s.mesh a) e n u (coordOf s.mesh (selfDevice s.mesh) a))

/-- The shard's elements in row-major order: leading index, global row, global column. -/
def State.shardElems (s : State) (d : TensorDesc) : List (Nat × Nat × Nat) :=
  let k := d.dims.length
  let rs := s.heldIndices d (k - 2)
  let cs := s.heldIndices d (k - 1)
  (s.localLeads d).flatMap (fun l => rs.flatMap (fun r => cs.map (fun c => (l, r, c))))

/-- The tile, row and column within it of a global element. -/
def TensorDesc.place (d : TensorDesc) (x : Nat × Nat × Nat) : Nat × Nat × Nat :=
  (d.tileIndex ⟨x.1, x.2.1 / 64, x.2.2 / 64⟩, x.2.1 % 64, x.2.2 % 64)

/-- The blocks of the shard in the order of a ROWMAJOR scale array: leading index, row, first column. -/
def State.shardBlocks (s : State) (d : TensorDesc) : List (Nat × Nat × Nat) :=
  let k := d.dims.length
  let rs := s.heldIndices d (k - 2)
  let cs := s.heldIndices d (k - 1)
  let B := blockLen d.scaleBlk
  (s.localLeads d).flatMap (fun l => rs.flatMap (fun r =>
    ((cs.zip (List.range cs.length)).filter (fun q => q.2 % B = 0)).map (fun q => (l, r, q.1))))

/-- Bytes of the element part of a ROWMAJOR image. -/
def State.rowMajorElems (s : State) (d : TensorDesc) : Nat :=
  roundUp (ceilDiv ((s.shardElems d).length * codeBits d.format) 8) 64

/-- The whole ROWMAJOR image of tiles given by index. -/
def State.rowMajorBytes (s : State) (d : TensorDesc) (tile : Nat → Tile) : List Byte :=
  let elems := padTo 64 (packCodes (codeBits d.format) ((s.shardElems d).map (fun x =>
    let p := d.place x
    (tile p.1).at p.2.1 p.2.2)))
  if d.scaleBlk = 0 then elems
  else
    elems ++ padTo 64 ((s.shardBlocks d).map (fun x =>
      let p := d.place x
      BitVec.ofNat 8 ((tile p.1).scales.getD (elemBlock false d.scaleBlk p.2.1 p.2.2) 0x7F)))

/-- The tiles that a ROWMAJOR image spells. -/
def State.readRowMajor (s : State) (d : TensorDesc) (id gen epoch : Nat) (bs : List Byte) : Nat → Tile :=
  let xs := s.shardElems d
  let cs := unpackCodes (codeBits d.format) xs.length bs
  let es : FMap Nat := FMap.setMany (fun _ => 0) [] ((xs.zip cs).map (fun q =>
    let p := d.place q.1
    (p.1 * 4096 + 64 * p.2.1 + p.2.2, q.2)))
  let bks := if d.scaleBlk = 0 then [] else s.shardBlocks d
  let scs := (bs.drop (s.rowMajorElems d)).map (·.toNat)
  let sm : FMap Nat := FMap.setMany (fun _ => 0x7F) [] ((bks.zip scs).map (fun q =>
    let p := d.place q.1
    (p.1 * 256 + elemBlock false d.scaleBlk p.2.1 p.2.2, q.2)))
  fun t =>
    { hdr := d.header id t gen epoch
      elems := (es.filter (fun kv => kv.1 / 4096 = t)).map (fun kv => (kv.1 % 4096, kv.2))
      scales := (List.range (scalesPerTile d.scaleBlk)).map (fun j => FMap.get (fun _ => 0x7F) sm (t * 256 + j)) }

/-- Exponent and sign-mantissa widths of a PLANES image, where the format has one (R294). -/
def planeBits : Nat → Option (Nat × Nat)
  | 0x03 => some (4, 4)
  | 0x04 => some (5, 3)
  | 0x01 => some (8, 8)
  | _ => none

/-- The exponent field of a code, with `m` mantissa bits and `e` exponent bits. -/
def expField (e m c : Nat) : Nat := c / 2 ^ m % 2 ^ e

/-- The sign-mantissa field: (sign << M) | mantissa. -/
def signMan (e m c : Nat) : Nat := c / 2 ^ (e + m) % 2 * 2 ^ m + c % 2 ^ m

/-- The code of its two fields. -/
def joinPlanes (e m x y : Nat) : Nat := y / 2 ^ m % 2 * 2 ^ (e + m) + x % 2 ^ e * 2 ^ m + y % 2 ^ m

/-- A PLANES image of tiles in order. -/
def TensorDesc.planesBytes (d : TensorDesc) (ts : List Tile) : List Byte :=
  match planeBits d.format with
  | none => []
  | some (e, s) =>
    let cs := ts.flatMap (fun t => t.codes d.colOrder)
    padTo 64 (packCodes e (cs.map (expField e (s - 1)))) ++ padTo 64 (packCodes s (cs.map (signMan e (s - 1))))
      ++ padTo 64 (ts.flatMap (fun t => t.scaleBytes d.scaleBlk))

/-- Tile number `i` of `n` in a PLANES image. -/
def TensorDesc.readPlanes (d : TensorDesc) (id t gen epoch n i : Nat) (bs : List Byte) : Tile :=
  match planeBits d.format with
  | none => { hdr := d.header id t gen epoch }
  | some (e, s) =>
    let a := roundUp (ceilDiv (4096 * n * e) 8) 64
    let b := roundUp (ceilDiv (4096 * n * s) 8) 64
    let xs := unpackCodes e 4096 (bs.drop (512 * e * i))
    let ys := unpackCodes s 4096 (bs.drop (a + 512 * s * i))
    let k := scalesPerTile d.scaleBlk
    { hdr := d.header id t gen epoch
      elems := d.tableOf t (List.zipWith (joinPlanes e (s - 1)) xs ys)
      scales := ((bs.drop (a + b + k * i)).take k).map (·.toNat) }

end Sys2Proof.Machine
end

