-- ==== Sys2Proof/Machine/Sparse.lean ====
section
/-! DEFINITION. Sparse blocks (chapter 6): their forms, records and values, the choice of a form (R185), the
building of a block, its bytes in a generation, and the checks of a block that is read (R189). -/

namespace Sys2Proof.Machine

/-! ## Forms -/

/-- BFMT of EMPTY, TS-E, TS-B4, TS-NM 2:4, 1:4 and 2:8, and TS-D (Table 6.1). -/
def bfEmpty : Nat := 0
/-- TS-E. -/
def bfE : Nat := 1
/-- TS-B4. -/
def bfB4 : Nat := 2
/-- TS-D. -/
def bfD : Nat := 6

/-- The form that a sparse FORMAT names. -/
def formOf (format : Nat) : Nat := format - 0x0F

/-- The header FORMAT of a form in a stream: EMPTY carries the tensor's FORMAT (Table 6.1). -/
def formatOf (format form : Nat) : Nat := if form = bfEmpty then format else form + 0x0F

/-- N and M of an N:M form (Table 6.5). -/
def nmOf : Nat → Option (Nat × Nat)
  | 3 => some (2, 4)
  | 4 => some (1, 4)
  | 5 => some (2, 8)
  | _ => none

/-- NREC of a block (Table 6.1). -/
def Tile.nrec (t : Tile) : Nat := if t.form = bfB4 then t.recs.length / 4 else t.recs.length

/-- Values stored: n_v of Table 6.1. -/
def valueCount (form nrec : Nat) : Nat :=
  match form with
  | 1 => nrec | 2 => 4 * nrec | 3 => 2048 | 4 => 1024 | 5 => 1024 | 6 => 4096 | _ => 0

/-- Bytes of the record part (Table 6.1). -/
def recordBytes (form nrec : Nat) : Nat :=
  match form with
  | 1 => 2 * nrec | 2 => 2 * nrec | 3 => 512 | 4 => 256 | 5 => 384 | 6 => 512 | _ => 0

/-- The position 64 × row + column of an element. -/
def SpElem.pos (e : SpElem) : Nat := 64 * e.row + e.col

/-- The position lies within a valid extent. -/
def inExtent (rows cols p : Nat) : Bool := decide (p / 64 < rows ∧ p % 64 < cols)

/-- The scale blocks that a block of a form stores, ascending (R180). -/
def storedBlocks (form blk rows cols : Nat) (ps : List Nat) : List Nat :=
  if blk = 0 ∨ form = bfEmpty then []
  else if 3 ≤ form then List.range (scalesPerTile blk)
  else sortNat ((ps.filter (inExtent rows cols)).map (fun p => p / blockLen blk))

/-- The scale code of a stored position. -/
def Tile.spScale (t : Tile) (p : Nat) : Nat :=
  let blk := t.hdr.scaleBlk
  if blk = 0 then 0x7F
  else t.scales.getD ((storedBlocks t.form blk t.rows t.cols (t.recs.map SpElem.pos)).idxOf (p / blockLen blk)) 0x7F

/-- The value of a stored element; `vf` is the element format of the values. -/
def Tile.spVal (t : Tile) (vf outer : Nat) (e : SpElem) : Val :=
  codeVal vf t.hdr.scaleBlk outer (t.spScale e.pos) e.code

/-- The stored element at a position. -/
def Tile.rec? (t : Tile) (r c : Nat) : Option SpElem := t.recs.find? (fun e => e.row = r && e.col = c)

/-- The value at a position of a sparse block: absent outside the mask or the valid extent (R166, R175, R176). -/
def Tile.spAt (t : Tile) (vf outer r c : Nat) : Option Val :=
  if r < t.rows ∧ c < t.cols then (t.rec? r c).map (t.spVal vf outer) else none

/-- The positions of a block's mask within the valid extent. -/
def Tile.mask (t : Tile) : List Nat := sortNat ((t.recs.map SpElem.pos).filter (inExtent t.rows t.cols))

/-- An EMPTY block of a sparse tensor (R172). -/
def TensorDesc.emptyBlock (d : TensorDesc) (id t : Nat) : Tile :=
  { hdr := { d.header id t 0 0 with format := d.format }, form := bfEmpty }

/-! ## The choice of a form (R185) -/

/-- The repack threshold T of Table 6.7, as a fraction. -/
def repackThreshold (form vf : Nat) : Nat × Nat :=
  let fp4 := vf = 0x07
  let mid := 0x03 ≤ vf ∧ vf ≤ 0x06
  if form = bfE then (if fp4 then (3, 8) else if mid then (3, 4) else (1, 1))
  else if form = bfB4 then (if fp4 then (17, 40) else if mid then (17, 20) else (1, 1))
  else (1, 1)

/-- Mask positions with their KEEP and NEW flags. -/
abbrev MaskMap := FMap (Bool × Bool)

/-- A position is in the mask. -/
def MaskMap.has (m : MaskMap) (p : Nat) : Bool := m.any (fun q => q.1 = p)

/-- The mask of a block with its flags: of an N:M block every slot (R176), else the positions within the extent. -/
def Tile.maskMap (t : Tile) : MaskMap :=
  (t.recs.filter (fun e => (nmOf t.form).isSome || inExtent t.rows t.cols e.pos)).foldl
    (fun m e => FMap.insert m e.pos (e.keep, e.new)) []

/-- The four positions of a group, with the flags of its members joined. -/
def groupOf (m : MaskMap) (g : Nat) : MaskMap :=
  let ms := m.filter (fun q => q.1 / 4 = g)
  (List.range 4).map (fun i => (4 * g + i, (ms.any (fun q => q.2.1), ms.any (fun q => q.2.2))))

/-- Every stored group whole, as TS-B4 holds it. -/
def widen4 (m : MaskMap) : MaskMap := (sortNat (m.map (fun q => q.1 / 4))).flatMap (groupOf m)

/-- The positions of a mask are whole groups of four within an extent. -/
def aligned4 (rows cols : Nat) (m : MaskMap) : Bool :=
  (widen4 m).all (fun q => !inExtent rows cols q.1 || m.has q.1)

/-- A group of an N:M form holds too many positions. -/
def overfull (n M : Nat) (m : MaskMap) : Bool :=
  (sortNat (m.map (fun q => q.1 / M))).any (fun g => decide (n < (m.filter (fun q => q.1 / M = g)).length))

/-- The N positions of a group: those it has, then the lowest unused (R183). -/
def fillGroup (n M g : Nat) (m : MaskMap) : MaskMap :=
  let has := m.filter (fun q => q.1 / M = g)
  let free := ((List.range M).map (fun i => g * M + i)).filter (fun p => !m.has p)
  (free.take (n - has.length)).foldl (fun a p => FMap.insert a p (false, false)) has

/-- Every group of the block filled. -/
def fillNm (n M : Nat) (m : MaskMap) : MaskMap := (List.range (4096 / M)).flatMap (fun g => fillGroup n M g m)

/-- A chosen form with its positions in value order. -/
structure Layout where
  form : Nat
  pos : MaskMap
  lenient : Bool := false

/-- The default form or TS-D by the thresholds of R185, steps 3 and 4. -/
def repackForm (default vf oldForm n P : Nat) (keep : Bool) : Nat :=
  let T := repackThreshold default vf
  if keep then default
  else if oldForm = bfD then (if (16 * T.1 - T.2) * P < n * (16 * T.2) then bfD else default)
  else (if T.1 * P < n * T.2 then bfD else default)

/-- The form and positions of a block that stores the mask `m`: the cause of a refusal, or the layout (R183 to
R186). A mask of an N:M block carries its positions outside the extent with it, so that they stay as they are; no other
form stores one. `oldBad` says that the block read is a TS-D block of a TS-B4 tensor that is not group-aligned: every
write over it is refused, whatever form the new block takes (log entry 88). -/
def layoutBlock (d : TensorDesc) (rows cols oldForm : Nat) (oldBad : Bool) (m : MaskMap) : Except Nat Layout :=
  let default := formOf d.format
  let inner := m.filter (fun q => inExtent rows cols q.1)
  if oldBad then .error 0x09
  else if inner.isEmpty then .ok ⟨bfEmpty, [], false⟩
  else
    match nmOf default with
    | some (n, M) =>
      if overfull n M m then
        if d.options.testBit 2 then .ok ⟨bfE, inner, true⟩ else .error 0x06
      else .ok ⟨default, fillNm n M m, false⟩
    | none =>
      if default = bfD then .ok ⟨bfD, inner, false⟩
      else
        let w := if default = bfB4 then widen4 inner else inner
        let n := (w.filter (fun q => inExtent rows cols q.1)).length
        let form := repackForm default d.valueFormat oldForm n (rows * cols) (m.any (fun q => q.2.1))
        if form = bfD then
          .ok ⟨bfD, (w.filter (fun q => inExtent rows cols q.1)).map (fun q => (q.1, (false, false))), false⟩
        else .ok ⟨default, w, false⟩

/-! ## Building a block -/

/-- The elements of a layout with their codes. -/
def Layout.recs (l : Layout) (code : Nat → Nat) : List SpElem :=
  l.pos.map (fun q =>
    { row := q.1 / 64, col := q.1 % 64, keep := (l.form == bfE || l.form == bfB4) && q.2.1,
      new := (l.form == bfE || l.form == bfB4) && q.2.2, code := code q.1 })

/-- A block of a layout with codes and stored scales. -/
def Layout.tile (l : Layout) (d : TensorDesc) (id t : Nat) (codes : FMap Nat) (scales : List Nat) : Tile :=
  { hdr := { d.header id t 0 0 with format := formatOf d.format l.form }
    form := l.form, scales := scales, recs := l.recs (FMap.get (fun _ => 0) codes) }

/-- A block whose values are converted: scales chosen from the values at mask positions alone (R180). `mode` is
each position's rounding; a position outside the extent holds +0. -/
def ConvSpec.block (k : ConvSpec) (l : Layout) (t : Nat) (mode : Nat → Rounding) (v : Nat → Val) : Tile × Flags :=
  let d := k.desc
  let rows := d.extRows t
  let cols := d.extCols t
  let val (p : Nat) : Val := if inExtent rows cols p then v p else Val.zero
  let ps := l.pos.map (·.1)
  if d.scaleBlk = 0 then
    let cs := ps.map (fun p => (p, k.plain (mode p) (val p)))
    (l.tile d k.tensor t (FMap.setMany (fun _ => 0) [] (cs.map (fun c => (c.1, c.2.1)))) [],
      cs.foldl (fun a c => a ||| c.2.2) 0)
  else
    match fmtOf d.elemCode with
    | none => (l.tile d k.tensor t [] [], 0)
    | some f =>
      let bs := (storedBlocks l.form d.scaleBlk rows cols ps).map (fun j =>
        let qs := ps.filter (fun p => p / blockLen d.scaleBlk = j)
        (qs, convertBlock f k.roundUp (qs.map (fun p => (val p, mode p)))))
      (l.tile d k.tensor t (FMap.setMany (fun _ => 0) [] (bs.flatMap (fun b => b.1.zip b.2.2.1)))
          (bs.map (fun b => b.2.1)),
        bs.foldl (fun a b => a ||| b.2.2.2) 0)

/-- A block that takes its codes and scales from elsewhere bit for bit; a scale block whose stored values are
all zero takes 0x7F (R180, R182, R183). -/
def copyBlock (d : TensorDesc) (l : Layout) (id t : Nat) (code scale : Nat → Nat) (zero : Nat → Bool) : Tile :=
  let ps := l.pos.map (·.1)
  let js := storedBlocks l.form d.scaleBlk (d.extRows t) (d.extCols t) ps
  let scales := js.map (fun j =>
    if (ps.filter (fun p => p / blockLen d.scaleBlk = j)).all zero then 0x7F else scale j)
  l.tile d id t (FMap.setMany (fun _ => 0) [] (ps.map (fun p => (p, code p)))) scales

/-! ## Bytes (R168 to R178) -/

/-- Bytes of the scale part of a block. -/
def Tile.spScaleCount (t : Tile) : Nat := t.scales.length

/-- The size of a block's data (R169). -/
def blockSize (form nrec scales bits : Nat) : Nat :=
  if form = bfEmpty then 0
  else
    roundUp (recordBytes form nrec) 64
      + roundUp (roundUp scales 8 + ceilDiv (valueCount form nrec * bits) 8) 64

/-- A tile's data size for a tensor. -/
def TensorDesc.dataSize (d : TensorDesc) (t : Tile) : Nat :=
  blockSize t.form t.nrec t.scales.length (codeBits d.valueFormat)

/-- The record part of a block. -/
def Tile.recordPart (t : Tile) : List Byte :=
  match t.form with
  | 1 => t.recs.flatMap (fun e => toLe 2 (e.pos + (if e.new then 2 ^ 12 else 0) + (if e.keep then 2 ^ 13 else 0)))
  | 2 => (t.recs.filter (fun e => e.col % 4 = 0)).flatMap (fun e =>
      toLe 2 (16 * e.row + e.col / 4 + (if e.new then 2 ^ 12 else 0) + (if e.keep then 2 ^ 13 else 0)))
  | 3 | 4 => packCodes 2 (t.recs.map (fun e => e.col % 4))
  | 5 => packCodes 3 (t.recs.map (fun e => e.col % 8))
  | 6 => packCodes 1 ((List.range 4096).map (fun p => if t.recs.any (fun e => e.pos = p) then 1 else 0))
  | _ => []

/-- The value codes of a block in value order; TS-D holds +0 outside the mask (R178, R179). -/
def Tile.valueCodes (t : Tile) : List Nat :=
  if t.form = bfD then
    (List.range 4096).map (fun p => match t.recs.find? (fun e => e.pos = p) with
      | some e => e.code
      | none => 0)
  else t.recs.map (·.code)

/-- The data of a non-empty block (R169). -/
def TensorDesc.blockData (d : TensorDesc) (t : Tile) : List Byte :=
  if t.form = bfEmpty then []
  else
    padTo 64 t.recordPart
      ++ padTo 64 (padTo 8 (t.scales.map (BitVec.ofNat 8)) ++ packCodes (codeBits d.valueFormat) t.valueCodes)

/-- A block index entry (Table 6.2), OFF in units of 64 bytes. -/
def Tile.entry (t : Tile) (off : Nat) : Nat :=
  t.form + t.nrec * 8 + (if t.form = bfEmpty then 0 else off * 2 ^ 24)

/-- The payload of a sparse tile in a stream (R173): its entry with OFF = 0, padded to 64 bytes, then its data. -/
def TensorDesc.payload (d : TensorDesc) (t : Tile) : List Byte := padTo 64 (toLe 8 (t.entry 0)) ++ d.blockData t

/-- The entries and data of blocks in canonical order from a pool offset (R170). -/
def TensorDesc.placeBlocks (d : TensorDesc) : Nat → List Tile → List Byte × List Byte
  | _, [] => ([], [])
  | off, t :: ts =>
    let data := d.blockData t
    let r := d.placeBlocks (off + data.length / 64) ts
    (toLe 8 (t.entry off) ++ r.1, data ++ r.2)

/-- A canonical generation of blocks as an image (R168, R294). -/
def TensorDesc.generationBytes (d : TensorDesc) (ts : List Tile) : List Byte :=
  let r := d.placeBlocks 0 ts
  padTo 64 r.1 ++ r.2

/-- Pool bytes of a generation in canonical form. -/
def TensorDesc.poolBytes (d : TensorDesc) (ts : List Tile) : Nat := (ts.map d.dataSize).foldl (· + ·) 0

/-! ## Reading a block (R189) -/

/-- Why a block is refused: the cause of Table 6.10 and the byte offset of the failing entry or record. -/
abbrev Violation := Nat × Nat

/-- The NREC range of a form (Table 6.1). -/
def nrecOk (form nrec : Nat) : Bool :=
  match form with
  | 0 => nrec == 0
  | 1 => decide (nrec ≤ 4096)
  | 2 => decide (nrec ≤ 1024)
  | 3 => nrec == 2048
  | 4 | 5 => nrec == 1024
  | 6 => decide (nrec ≤ 4096)
  | _ => false

/-- The first violation among TS-E or TS-B4 records: extent before order (R174, R175). -/
def recordsBad (form rows cols : Nat) : Nat → Option Nat → List Nat → Option Violation
  | _, _, [] => none
  | i, prev, w :: ws =>
    let key := if form = bfE then w % 4096 else w % 1024
    let out :=
      if form = bfE then !inExtent rows cols key
      else !((List.range 4).any (fun k => inExtent rows cols (4 * key + k)))
    if out then some (if form = bfE then 0x10 else 0x11, 2 * i)
    else
      match prev with
      | some p => if key ≤ p then some (0x03, 2 * i) else recordsBad form rows cols (i + 1) (some key) ws
      | none => recordsBad form rows cols (i + 1) (some key) ws

/-- Two codes of an N:M group are not ascending, at the first such group: the byte of its second code, where a code has `bits`
bits and the group begins at code `i`. -/
def codesBad (n bits : Nat) : Nat → Nat → List Nat → Option Violation
  | 0, _, _ => none
  | k + 1, i, cs =>
    if n = 2 ∧ cs.getD 1 0 ≤ cs.getD 0 0 then some (0x04, (i + 1) * bits / 8) else codesBad n bits k (i + n) (cs.drop n)

/-- The scale blocks and values that follow the record part, given the positions in value order. -/
def TensorDesc.valuePart (d : TensorDesc) (form rows cols : Nat) (ps : List Nat) (nv : Nat) (bs : List Byte) :
    List Nat × List Nat :=
  let n := (storedBlocks form d.scaleBlk rows cols ps).length
  ((bs.take n).map (·.toNat), unpackCodes (codeBits d.valueFormat) nv (bs.drop (roundUp n 8)))

/-- Read a block of its index entry and data: the first violation, or the tile (R189). `pool` bounds the data
where the block lies in a pool. Every bit set in a bitmap counts against NREC, those outside the extent too (log entry
89). -/
def TensorDesc.readBlock (d : TensorDesc) (id t : Nat) (pool : Option Nat) (entry : Nat) (bs : List Byte) :
    Except Violation Tile :=
  let form := entry % 8
  let nrec := entry / 8 % 2 ^ 13
  let off := entry / 2 ^ 24
  let rows := d.extRows t
  let cols := d.extCols t
  let hdr := { d.header id t 0 0 with format := formatOf d.format form }
  if form = 7 then .error (0x01, 0)
  else if !nrecOk form nrec then .error (0x02, 0)
  else if form = bfEmpty ∨ ((form = bfE ∨ form = bfB4) ∧ nrec = 0) then .ok (d.emptyBlock id t)
  else
    let rb := bs.take (recordBytes form nrec)
    let vb := bs.drop (roundUp (recordBytes form nrec) 64)
    let nv := valueCount form nrec
    let mkTile (ps : MaskMap) : Tile :=
      let v := d.valuePart form rows cols (ps.map (·.1)) nv vb
      { hdr := hdr, form := form, scales := v.1
        recs := (ps.zip v.2).map (fun q =>
          { row := q.1.1 / 64, col := q.1.1 % 64, keep := q.1.2.1, new := q.1.2.2, code := q.2 }) }
    let within (ps : List Nat) : Bool :=
      match pool with
      | none => true
      | some p => decide (64 * off + blockSize form nrec (storedBlocks form d.scaleBlk rows cols ps).length
          (codeBits d.valueFormat) ≤ p)
    match nmOf form with
    | some (n, M) =>
      let cs := unpackCodes (if M = 4 then 2 else 3) nv rb
      let ps : MaskMap := (cs.zip (List.range nv)).map (fun q => (q.2 / n * M + q.1, (false, false)))
      if !within (ps.map (·.1)) then .error (0x12, 0)
      else match codesBad n (if M = 4 then 2 else 3) (nv / n) 0 cs with
        | some v => .error v
        | none => .ok (mkTile ps)
    | none =>
      if form = bfD then
        let bits := unpackCodes 1 4096 rb
        let set := ((bits.zip (List.range 4096)).filter (fun q => q.1 = 1)).map (·.2)
        if !within [] then .error (0x12, 0)
        else if set.length ≠ nrec then .error (0x05, 0)
        else
          let v := d.valuePart form rows cols [] nv vb
          .ok { hdr := hdr, form := form, scales := v.1
                recs := (set.filter (inExtent rows cols)).map (fun p =>
                  { row := p / 64, col := p % 64, code := v.2.getD p 0 }) }
      else
        let ws := unpackCodes 16 nrec rb
        let ps : MaskMap := ws.flatMap (fun w =>
          let fl := (w.testBit 13, w.testBit 12)
          if form = bfE then [(w % 4096, fl)] else (List.range 4).map (fun i => (4 * (w % 1024) + i, fl)))
        if !within (ps.map (·.1)) then .error (0x12, 0)
        else match recordsBad form rows cols 0 none ws with
          | some v => .error v
          | none => .ok (mkTile ps)

/-- The checks of a sparse tile that comes on a stream (R173, R189), in their order: the entry's BFMT, the header against
it, the rest of the entry, and the records; the cause with the byte offset in the tile's payload. -/
def TensorDesc.streamBlockBad (d : TensorDesc) (id : Nat) (x : Tile) : Option Violation :=
  if 7 ≤ x.form then some (0x01, 0)
  else if x.hdr.format ≠ formatOf d.format x.form then some (0x08, 0)
  else
    match d.readBlock id x.hdr.index none (x.entry 0) (d.blockData x) with
    | .error v => some (v.1, if v.1 ≤ 0x02 then 0 else 64 + v.2)
    | .ok _ => none

end Sys2Proof.Machine
end

