-- ==== Sys2Proof/Machine/Params.lean ====
section
/-! DEFINITION. Stations as data: the type codes (Table 2.3), the port ranges and engines of the catalogue
(Table 2.4), parameter fields, and the tensors a station reads, writes and names (R77). -/

namespace Sys2Proof.Machine

/-! ## Station types (Table 2.3) -/

/-- LOAD. -/
def stLoad : Nat := 0x01
/-- STORE. -/
def stStore : Nat := 0x02
/-- GATHER. -/
def stGather : Nat := 0x03
/-- SCATTER_ACC. -/
def stScatter : Nat := 0x04
/-- MATMUL. -/
def stMatmul : Nat := 0x05
/-- SPMM. -/
def stSpmm : Nat := 0x06
/-- SPMM_T. -/
def stSpmmT : Nat := 0x07
/-- SDDMM. -/
def stSddmm : Nat := 0x08
/-- SPSP. -/
def stSpsp : Nat := 0x09
/-- VEC. -/
def stVec : Nat := 0x0A
/-- ATTEND. -/
def stAttend : Nat := 0x0B
/-- REDUCE. -/
def stReduce : Nat := 0x0C
/-- EXCHANGE. -/
def stExchange : Nat := 0x0D
/-- ROUTE. -/
def stRoute : Nat := 0x0E
/-- UPDATE. -/
def stUpdate : Nat := 0x0F
/-- PRUNE. -/
def stPrune : Nat := 0x10
/-- REGROW. -/
def stRegrow : Nat := 0x11
/-- HIST. -/
def stHist : Nat := 0x12
/-- RNG. -/
def stRng : Nat := 0x13
/-- GAUGE. -/
def stGauge : Nat := 0x14
/-- FENCE. -/
def stFence : Nat := 0x15

/-- Least and greatest input and output ports of a type (Table 2.4); none for a reserved type. -/
def portRange (typ : Nat) : Option (Nat × Nat × Nat × Nat) :=
  match typ with
  | 0x01 => some (0, 0, 1, 1)
  | 0x02 => some (1, 1, 0, 0)
  | 0x03 => some (1, 1, 1, 1)
  | 0x04 => some (2, 2, 0, 0)
  | 0x05 | 0x06 | 0x07 | 0x08 => some (2, 3, 1, 2)
  | 0x09 => some (2, 3, 1, 1)
  | 0x0A => some (1, 4, 1, 4)
  | 0x0B => some (3, 4, 1, 2)
  | 0x0C => some (1, 8, 1, 1)
  | 0x0D => some (1, 4, 1, 4)
  | 0x0E => some (1, 2, 2, 3)
  | 0x0F => some (1, 2, 0, 1)
  | 0x10 | 0x11 => some (1, 2, 0, 0)
  | 0x12 => some (1, 1, 1, 1)
  | 0x13 => some (0, 0, 1, 1)
  | 0x14 => some (1, 1, 1, 1)
  | 0x15 => some (1, 8, 0, 1)
  | _ => none

/-- The types with a completion port (R58). -/
def hasCompletion (typ : Nat) : Bool := typ == 0x02 || typ == 0x10 || typ == 0x11

/-- The product stations. -/
def isProduct (typ : Nat) : Bool := decide (0x05 ≤ typ ∧ typ ≤ 0x09)

/-- Engines of a core (journal codes of Table 17.3). -/
inductive Engine where
  | me | ve | ue | mu | dma
  deriving DecidableEq, Repr

/-- The journal's code of an engine. -/
def Engine.code : Engine → Nat
  | .me => 0 | .ve => 1 | .ue => 2 | .mu => 3 | .dma => 4

/-- The engines that a type's tasks run on (Table 2.4). -/
def enginesOf (typ : Nat) : List Engine :=
  match typ with
  | 0x01 | 0x02 | 0x03 | 0x04 => [.dma]
  | 0x05 | 0x08 => [.me]
  | 0x06 | 0x07 | 0x09 => [.me, .mu]
  | 0x0A | 0x0C | 0x13 | 0x14 => [.ve]
  | 0x0B => [.me, .ve]
  | 0x0E => [.ve, .dma]
  | 0x0F | 0x12 => [.ue]
  | 0x10 | 0x11 => [.ue, .mu]
  | _ => []

/-- How many engines of a kind a core has (R84). -/
def engineCount (p : Part) : Engine → Nat
  | .me => mePerCore | .ve => p.vePerCore | .ue => 1 | .mu => muPerCore | .dma => 16

/-! ## Parameters -/

/-- `n` bytes of a station's parameter block at an offset. -/
def Station.p (st : Station) (off n : Nat) : Nat := leAt st.params off n

/-- One byte of the parameter block is as the table requires. -/
def Station.zero (st : Station) (off stop : Nat) : Bool := zeroIn st.params off stop

/-- The stream that ends at an input port of a station. -/
def Course.inStream (c : Course) (st port : Nat) : Option Stream :=
  c.streams.find? (fun x => x.cons = st && x.consPort = port)

/-- The streams that begin at an output port of a station. -/
def Course.outStreams (c : Course) (st port : Nat) : List Stream :=
  c.streams.filter (fun x => x.prod = st && x.prodPort = port)

/-- A station of a course. -/
def Course.station (c : Course) (st : Nat) : Option Station := c.stations[st]?

/-- The tensor whose stream ends at an input port (0 for none). -/
def Course.inTensor (c : Course) (st port : Nat) : Nat :=
  match c.inStream st port with
  | some x => x.tensor
  | none => 0

/-- The tensor whose stream begins at an output port (0 for none). -/
def Course.outTensor (c : Course) (st port : Nat) : Nat :=
  match c.outStreams st port with
  | x :: _ => x.tensor
  | [] => 0

/-- The tensors that a station reads from their homes (R77). -/
def Course.stationReads (c : Course) (st : Station) : List Nat :=
  let _ := c
  (match st.typ with
    | 0x01 => if st.p 0 1 = 0 then [st.p 4 3] else []
    | 0x03 => [st.p 0 3]
    | 0x08 => [st.p 4 3]
    | 0x0F => [st.p 4 3, st.p 12 3, st.p 16 3]
    | 0x10 | 0x11 => [st.p 12 3, st.p 16 3]
    | 0x0D => if 1 < st.p 6 1 then [st.p 12 3] else []
    | _ => []).filter (fun t => t ≠ 0)

/-- The tensors that a station writes into their homes (R77). -/
def Course.stationWrites (c : Course) (st : Station) : List Nat :=
  (match st.typ with
    | 0x02 => if st.p 0 1 = 0 then [c.inTensor st.id 0] else []
    | 0x04 => [st.p 2 3]
    | 0x0F => [st.p 4 3, st.p 8 3, st.p 12 3, st.p 16 3]
    | 0x10 | 0x11 => [st.p 12 3, st.p 16 3]
    | 0x0D => if 1 < st.p 6 1 then [st.p 12 3] else []
    | _ => []).filter (fun t => t ≠ 0)

/-- Every tensor that a station's parameters name. -/
def stationNames (st : Station) : List Nat :=
  (match st.typ with
    | 0x01 => if st.p 0 1 = 0 then [st.p 4 3] else []
    | 0x03 => [st.p 0 3]
    | 0x04 => [st.p 2 3]
    | 0x08 => [st.p 4 3]
    | 0x0F => [st.p 4 3, st.p 8 3, st.p 12 3, st.p 16 3]
    | 0x10 | 0x11 => [st.p 12 3, st.p 16 3]
    | 0x12 => [st.p 4 3, st.p 8 3]
    | 0x0D => [st.p 12 3]
    | 0x0E => [st.p 16 3, st.p 20 3, st.p 24 3, st.p 28 3, st.p 32 3]
    | _ => []).filter (fun t => t ≠ 0)

/-- Tensors read by a course, ascending. -/
def Course.reads (c : Course) : List Nat := sortNat (c.stations.flatMap c.stationReads)

/-- Tensors written by a course, ascending. -/
def Course.writes (c : Course) : List Nat := sortNat (c.stations.flatMap c.stationWrites)

/-- Tensors a course names, in streams or parameters, ascending. -/
def Course.names (c : Course) : List Nat :=
  sortNat (c.streams.map (·.tensor) ++ c.stations.flatMap stationNames)

/-- The stations directly downstream of a station: by stream, and a REGROW from the PRUNE it names
(R215). -/
def Course.nexts (c : Course) (st : Nat) : List Nat :=
  (c.streams.filter (fun x => x.prod = st)).map (·.cons) ++
    (c.stations.filter (fun r =>
      r.typ = stRegrow && (r.p 20 4).testBit 31 && decide (r.p 20 4 % 2 ^ 20 = st))).map (·.id)

/-- The stations that can be reached from a set in one more round. -/
def Course.spread (c : Course) (seen : List Nat) : List Nat :=
  sortNat (seen ++ seen.flatMap c.nexts)

/-- Every station downstream of a station (not itself, unless on a cycle). -/
def Course.downstream (c : Course) (st : Nat) : List Nat :=
  (List.range c.stations.length).foldl (fun seen _ => c.spread seen) (sortNat (c.nexts st))

/-- Station `b` is downstream of station `a`. -/
def Course.below (c : Course) (a b : Nat) : Bool := (c.downstream a).contains b

/-! ## Tensors by id -/

/-- A tensor by id. -/
def State.tensor (s : State) (id : Nat) : Option Tensor := FMap.get (fun _ => none) s.tensors id

/-- Write or remove a tensor. -/
def State.setTensor (s : State) (id : Nat) (t : Option Tensor) : State :=
  { s with tensors := FMap.set (fun _ => none) s.tensors id t }

/-- The function whose range holds a tensor id (R392). -/
def idFunc (id : Nat) : Nat := id / 2 ^ 18 % 64

/-- A tensor defined for a function and not yet named by a TENSOR_RELEASE (R79, R392). -/
def State.usable (s : State) (func id : Nat) : Option Tensor :=
  match s.tensor id with
  | some t => if t.func = func ∧ t.releasing = none then some t else none
  | none => none

/-- A course that runs or is held. -/
def State.course (s : State) (id : Nat) : Option Course := s.courses.find? (fun c => c.id = id)

/-- Write a course back. -/
def State.setCourse (s : State) (c : Course) : State :=
  { s with courses := s.courses.map (fun d => if d.id = c.id then c else d) }

/-- A running or held course names the tensor. -/
def State.namedByCourse (s : State) (id : Nat) : Bool := s.courses.any (fun c => c.names.contains id)

/-! ## Alias sets (R301) -/

/-- The base of a tensor's alias set: its own id, or that of the base of a view. -/
def State.baseOf (s : State) (id : Nat) : Nat :=
  match s.tensor id with
  | some t => match t.view with
    | some v => v.base
    | none => id
  | none => id

/-- Ids of the views defined on a base. -/
def State.viewsOf (s : State) (id : Nat) : List Nat :=
  (s.tensors.filter (fun kv => match kv.2 with
    | some t => match t.view with
      | some v => decide (v.base = id)
      | none => false
    | none => false)).map (·.1)

/-- A range of indices of one dimension, lo to hi − 1. -/
abbrev Box := List (Nat × Nat)

/-- The whole of a shape. -/
def wholeBox (dims : List Nat) : Box := dims.map (fun n => (0, n))

/-- A box moved by offsets. -/
def Box.shift (b : Box) (off : List Nat) : Box :=
  (b.zip (List.range b.length)).map (fun q => (q.1.1 + off.getD q.2 0, q.1.2 + off.getD q.2 0))

/-- The common part of two boxes. -/
def Box.meet (a b : Box) : Box := (a.zip b).map (fun q => (max q.1.1 q.2.1, min q.1.2 q.2.2))

/-- The box holds no element. -/
def Box.empty (b : Box) : Bool := b.any (fun r => decide (r.2 ≤ r.1))

/-- Every element of `a` lies in `b`. -/
def Box.within (a b : Box) : Bool :=
  a.empty || (a.zip b).all (fun q => decide (q.2.1 ≤ q.1.1 ∧ q.1.2 ≤ q.2.2))

/-- A box widened to whole tiles in the last two dimensions. -/
def Box.toTiles (b : Box) : Box :=
  let k := b.length
  (b.zip (List.range k)).map (fun q =>
    if q.2 + 2 < k then q.1 else (q.1.1 / 64 * 64, ceilDiv q.1.2 64 * 64))

/-- The valid elements of a tile as a box of the tensor's `dims`. -/
def TensorDesc.tileBox (d : TensorDesc) (t : Nat) : Box :=
  let p := d.tilePos t
  (leadIndices d.leading p.lead).map (fun x => (x, x + 1))
    ++ [(64 * p.i, 64 * p.i + d.extRows t), (64 * p.j, 64 * p.j + d.extCols t)]

/-- The offsets of a view in step with `dims`. -/
def Tensor.offsets (t : Tensor) : List Nat :=
  match t.view with
  | none => []
  | some v => if t.desc.rank = 1 then [0, v.offset.getD 0 0] else v.offset

/-- A box of a tensor in its base's coordinates. -/
def Tensor.toBase (t : Tensor) (b : Box) : Box := b.shift t.offsets

/-- The region of a tensor in its base's coordinates. -/
def Tensor.region (t : Tensor) : Box := t.toBase (wholeBox t.desc.dims)

/-- OPTIONS bit 3, BERM_OWNED. -/
def TensorDesc.bermOwned (d : TensorDesc) : Bool := d.options.testBit 3

/-- The write region of a STORE of a tensor, its berm included where it is BERM_OWNED (R301). -/
def Tensor.writeRegion (t : Tensor) : Box :=
  if t.desc.bermOwned then t.region.toTiles else t.region

/-! ## The tiles of a port -/

/-- A tensor's description by id; a blank one if it is not defined. -/
def State.descOf (s : State) (id : Nat) : TensorDesc :=
  match s.tensor id with
  | some t => t.desc
  | none => {}

/-- The tile range of a LOAD over a grid of `n` tiles: first and one past the last. -/
def Station.loadRange (st : Station) (n : Nat) : Nat × Nat :=
  let first := st.p 16 8 % 2 ^ 40
  let cnt := st.p 24 8 % 2 ^ 41
  (first, if cnt = 0 then n else min n (first + cnt))

/-- The tiles that a station's output port emits on this device, ascending (R55): those held of the port's tensor, of a LOAD
those in its range, of a HIST one for each scope unit of its target (R222). -/
def State.portTiles (s : State) (c : Course) (st port : Nat) : List Nat :=
  let d := s.descOf (c.outTensor st port)
  match c.station st with
  | some q =>
    if q.typ = stLoad then
      let r := q.loadRange d.tileCount
      (s.heldTiles d).filter (fun k => decide (r.1 ≤ k ∧ k < r.2))
    else if q.typ = stHist then s.maskUnits (s.descOf (q.p 4 3)) (q.p 0 1)
    else s.heldTiles d
  | none => []

end Sys2Proof.Machine
end

