-- ==== Sys2Proof/Machine/StackOps.lean ====
section
/-! DEFINITION. The lines of the stacks: where homes lie (R336), writes with fresh data or with the poison mark
(R325, R326), polder encryption (R329, R330) and the decoding of a read (R324). -/

namespace Sys2Proof.Machine

/-- A stack. -/
def State.stack (s : State) (n : Nat) : Stack := FMap.get (fun _ => {}) s.stackTab n

/-- Write a stack. -/
def State.setStack (s : State) (n : Nat) (k : Stack) : State :=
  { s with stackTab := FMap.set (fun _ => {}) s.stackTab n k }

/-- A stored line. -/
def Stack.line (k : Stack) (n : Nat) : Line := FMap.get (fun _ => {}) k.lines n

/-- Store a line. -/
def Stack.setLine (k : Stack) (n : Nat) (l : Line) : Stack :=
  { k with lines := FMap.set (fun _ => {}) k.lines n l }

/-- Bytes of one stack. -/
def stackSize : Nat := 48 * 2 ^ 30

/-- Lines of one stack. -/
def stackLines : Nat := stackSize / 64

/-- The stack is retired (R318). -/
def State.stackRetired (s : State) (n : Nat) : Bool := getBit (s.reg ⟨.stackStat, n, 0⟩) 31

/-! ## Homes (R336) -/

/-- Where a byte of a home lies: its stack and its byte address in the stack. Granules of 4 KiB go round the
home's stacks in ascending number, from the same base address in each. -/
def Tensor.homeByte (t : Tensor) (b : Nat) : Nat × Nat :=
  let n := max 1 t.stackIds.length
  let g := b / 4096
  (t.stackIds.getD (g % n) 0, t.base + g / n * 4096 + b % 4096)

/-- A line of a stack lies in the tensor's home. -/
def Tensor.hasLine (t : Tensor) (stack line : Nat) : Bool :=
  let a := 64 * line
  let n := t.stackIds.length
  match (List.range n).find? (fun k => decide (t.stackIds.getD k 0 = stack)) with
  | none => false
  | some k => decide (t.base ≤ a ∧ ((a - t.base) / 4096 * n + k) * 4096 < t.bytes)

/-- The home byte of the first byte of a stack line that lies in a home (R336). -/
def Tensor.byteOfLine (t : Tensor) (stack line : Nat) : Nat :=
  let n := t.stackIds.length
  let k := ((List.range n).find? (fun k => decide (t.stackIds.getD k 0 = stack))).getD 0
  let a := 64 * line
  ((a - t.base) / 4096 * n + k) * 4096 + a % 4096

/-- The tensor whose live home holds a line. -/
def State.homeAt (s : State) (stack line : Nat) : Option (Nat × Tensor) :=
  s.tensors.findSome? (fun kv => match kv.2 with
    | some t => if t.hasLine stack line then some (kv.1, t) else none
    | none => none)

/-- Bytes of a stream's stack space for one tile: a header of 64 bytes and the longest payload (R57, R173). -/
def spaceStride : Nat := 25600

/-- Bytes of a stream's stack space: one place for each tile that its port emits. -/
def State.spaceBytes (s : State) (c : Course) (x : Stream) : Nat := spaceStride * (s.portTiles c x.prod x.prodPort).length

/-- The byte of a stream's space at which a tile's place begins. -/
def State.spaceByte (s : State) (c : Course) (x : Stream) (k : Nat) : Nat :=
  spaceStride * (s.portTiles c x.prod x.prodPort).idxOf k

/-- A stream's space seen as a home: its granules go round its stacks in the same way. -/
def Space.home (p : Space) : Tensor := { stackIds := p.stackIds, base := p.base, bytes := p.bytes }

/-- The tensor of the stream whose stack space holds a line. -/
def State.spaceAt (s : State) (stack line : Nat) : Option Tensor :=
  s.courses.findSome? (fun c => c.streams.findSome? (fun x => x.space.bind (fun p =>
    if p.home.hasLine stack line then s.tensor x.tensor else none)))

/-- The polder whose key protects a line: that of the home or the stream's space it lies in, 0 for none (R78). -/
def State.linePolder (s : State) (stack line : Nat) : Nat :=
  match s.homeAt stack line with
  | some h => h.2.desc.polder
  | none =>
    match s.spaceAt stack line with
    | some t => t.desc.polder
    | none => 0

/-- The tweak of a line (R329): line number in bits 29:0, stack number in bits 34:30. -/
def lineTweak (stack line : Nat) : Nat := line % 2 ^ 30 + stack % 32 * 2 ^ 30

/-- A line's key: none for a line in clear, `some none` for an empty slot. -/
def State.lineKey (s : State) (stack line : Nat) : Option (Option (List Byte)) :=
  let p := s.linePolder stack line
  if p = 0 then none
  else
    match FMap.get (fun _ => []) (s.stack stack).keys p with
    | [] => some none
    | k => some (some k)

/-- Data bytes as stored: encrypted for a polder's line. -/
def cipher (encrypt : Bool) (key : Option (List Byte)) (stack line : Nat) (data : List Byte) : List Byte :=
  match key with
  | none => data
  | some k => xtsLine encrypt k (lineTweak stack line) data

/-! ## Writes -/

/-- Store a line with fresh data and valid check bytes: the poison directory's entry goes, and a queued heal
write of the line is dropped (R325, R326, R328). -/
def Stack.writeFresh (k : Stack) (n : Nat) (data : List Byte) : Stack :=
  { k.setLine n (goodLine data) with
    dir := k.dir.filter (fun l => l ≠ n)
    heals := k.heals.filter (fun h => h.1 ≠ n) }

/-- Room in the poison directory. -/
def Stack.dirRoom (k : Stack) : Bool := decide (k.dir.length < 4096)

/-- Enter a line in the poison directory. -/
def Stack.enter (k : Stack) (n : Nat) : Stack := { k with dir := insertNat n k.dir }

/-- Store a line with the poison mark and enter it in the directory; a full directory is logged (R326). -/
def State.writeMark (s : State) (stack n : Nat) (data : List Byte) : State :=
  let k := s.stack stack
  let k := { k.setLine n (markedLine data) with heals := k.heals.filter (fun h => h.1 ≠ n) }
  if k.dir.contains n then s.setStack stack k
  else if k.dirRoom then s.setStack stack (k.enter n)
  else (s.setStack stack k).logEntry 0x0029 (stack / 8) stack deviceWide (64 * n) 0

/-- A write of one line by a client, in clear; `poisoned` writes the mark. A polder line whose key slot is
empty is not written, and that is logged (R330). -/
def State.writeLine (s : State) (stack n : Nat) (poisoned : Bool) (data : List Byte) : State :=
  match s.lineKey stack n with
  | some none => s.logEntry 0x0025 (stack / 8) stack deviceWide (64 * n) 1
  | key =>
    let bytes := cipher true (key.getD none) stack n data
    if poisoned then s.writeMark stack n bytes
    else s.setStack stack ((s.stack stack).writeFresh n bytes)

/-- The lines of a byte range of a home with the bytes to write there: whole lines from byte `b`. -/
def homeLines (t : Tensor) (b : Nat) : Nat → List Byte → List (Nat × Nat × List Byte)
  | 0, _ => []
  | n + 1, bs =>
    let p := t.homeByte b
    (p.1, p.2 / 64, fitBytes 64 (bs.take 64)) :: homeLines t (b + 64) n (bs.drop 64)

/-- Write bytes into a home, line by line, with the poison mark on each line if poisoned. -/
def State.writeHome (s : State) (t : Tensor) (b : Nat) (poisoned : Bool) (bytes : List Byte) : State :=
  if t.stackIds.isEmpty then s
  else
    (homeLines t b (ceilDiv bytes.length 64) bytes).foldl (fun s l => s.writeLine l.1 l.2.1 poisoned l.2.2) s

/-- Bytes that a home spans in each of its stacks. -/
def Tensor.span (t : Tensor) : Nat := ceilDiv (ceilDiv t.bytes 4096) (max 1 t.stackIds.length) * 4096

/-- Every line of a home is zeros with valid check bytes, as the FILL of TENSOR_DEFINE leaves it; a polder's
home holds encrypted zeros (R329, Table 11.2). -/
def State.fillHome (s : State) (t : Tensor) : State :=
  let s := t.stackIds.foldl (fun s n =>
    let k := s.stack n
    s.setStack n
      { k with lines := FMap.keep (fun l _ => !t.hasLine n l) k.lines
               dir := k.dir.filter (fun l => !t.hasLine n l)
               heals := k.heals.filter (fun h => !t.hasLine n h.1) }) s
  if t.desc.polder = 0 then s
  else
    (List.range (t.bytes / 64)).foldl (fun s i =>
      let p := t.homeByte (64 * i)
      s.writeLine p.1 (p.2 / 64) false (List.replicate 64 0)) s

/-- At a release the home's lines leave the poison directory and are rewritten as zeros (R326). -/
def State.clearMarks (s : State) (t : Tensor) : State :=
  t.stackIds.foldl (fun s n =>
    let k := s.stack n
    s.setStack n ((k.dir.filter (t.hasLine n)).foldl (fun k l => k.writeFresh l (List.replicate 64 0)) k)) s

/-! ## Reads (R324) -/

/-- A line of the control region: the lowest 8 MiB of each stack of die 0 (R25; log entry 113). -/
def controlLine (stack n : Nat) : Bool := decide (stack < 8 ∧ n < 2 ^ 17)

/-- The data of a stored line. What the control cluster's tables lay in the region's lines is a free value (log entry 113). -/
def State.dataOf (s : State) (stack n : Nat) (l : Line) : List Byte :=
  if controlLine stack n then (List.range 64).map (fun i => Config.controlByte s.free (2 ^ 23 * stack + 64 * n + i)) else l.data

/-- Change stored bytes of a line: what the stack's cells did between two accesses. -/
def damageLine (l : Line) (damage : List (Nat × Byte)) : Line :=
  let bs := damage.foldl (fun bs d => bs.set d.1 (bs.getD d.1 0 ^^^ d.2)) (l.data ++ l.check)
  { data := bs.take 64, check := bs.drop 64 }

/-- The controller's decoding mode. -/
def State.eccMode (s : State) (stack : Nat) : Nat := s.regF .stackCtl stack 9 8

/-- How a line read decodes, with the directory consulted first: poisoned by the directory, or the outcome of
decoding. -/
inductive ReadStep where
  | listed
  | decoded (r : LineRead)
  deriving DecidableEq, Repr

/-- The outcome of reading a line (R324 steps 1 to 5). -/
def State.readStep (s : State) (stack n : Nat) : ReadStep :=
  let k := s.stack stack
  if k.dir.contains n then .listed else .decoded (decodeLine (s.eccMode stack) (k.line n))

/-- Latch an uncorrectable line in MEM_UE_ADDR unless one is latched. -/
def State.latchUe (s : State) (stack n : Nat) : State :=
  let r : Reg := ⟨.memUeAddr, stack, 0⟩
  if getBit (s.reg r) 63 then s
  else s.setReg r (setBit (setF (setF (s.reg r) 40 36 stack) 35 0 (64 * n)) 63 true)

/-- The counters, latch and log entries of a read (R324); a mark found without an entry enters the directory
if there is room (R326). -/
def State.countRead (s : State) (stack n cls : Nat) (r : ReadStep) : State :=
  let e : Reg := ⟨.memErr, stack, 0⟩
  match r with
  | .listed => s.countReg e 31 16 1
  | .decoded .clean => s
  | .decoded .mark =>
    let s := s.countReg e 31 16 1
    let k := s.stack stack
    if k.dirRoom then s.setStack stack (k.enter n) else s
  | .decoded (.corrected _ _) => (s.countReg e 63 48 1).logEntry 0x0022 (stack / 8) stack deviceWide (64 * n) 0
  | .decoded .bad =>
    ((s.countReg e 47 32 1).latchUe stack n).logEntry cls (stack / 8) stack deviceWide (64 * n) 0

/-- The bytes delivered and the poison tag. -/
def State.readBytes (s : State) (stack n : Nat) (r : ReadStep) : List Byte × Bool :=
  let l := (s.stack stack).line n
  match r with
  | .decoded .clean => (s.dataOf stack n l, false)
  | .decoded (.corrected w _) => (s.dataOf stack n w, false)
  | _ => (s.dataOf stack n l, true)

end Sys2Proof.Machine
end

