-- ==== Sys2Proof/Machine/Rings.lean ====
section
/-! DEFINITION. Rings and descriptors (15.3, 15.4): doorbells, the fetch of descriptors with their
structural checks, bus errors, held completion records, FENCE and POWER_HINT. -/

namespace Sys2Proof.Machine

/-! ## Doorbells (R396) -/

/-- The global ring behind a function's doorbell page, where the function has it. -/
def State.pageRing (s : State) (func page : Nat) : Option Nat :=
  if func = 0 then (if page < 4096 then some page else none)
  else if page < 64 ∧ page < (s.vfMap func).2 then some (s.globalRing func page) else none

/-- A doorbell fault: logged, and nothing else changes (R396). -/
def State.doorbellFault (s : State) (func page value : Nat) : State :=
  s.logFor 0x0002 func (funcRequester func) (page * 2 ^ 32 + value % 2 ^ 32)

/-- SQ_TAIL is acceptable: below the ring's size, the ring enabled, and not behind descriptors that have
not been fetched. -/
def State.tailOk (s : State) (n v : Nat) : Bool :=
  let q := s.sq n
  let size := s.sqSize n
  s.sqEnabled n && decide (v < size) &&
    decide ((q.tail + size - q.head) % size ≤ (v + size - q.head) % size)

/-- CQ_HEAD is acceptable: below the ring's size, the ring enabled, and releasing only written records. -/
def State.headOk (s : State) (n v : Nat) : Bool :=
  let q := s.cq n
  let size := s.cqSize n
  s.cqEnabled n && decide (v < size) &&
    decide ((v + size - q.head) % size ≤ (q.tail + size - q.head) % size)

/-- SQ_TAIL: a write of a submission ring's doorbell; bits 31:16 are ignored. -/
def execSqTail (func page value : Nat) (s : State) : Host.Outcome State Fault Refusal :=
  if !s.hostLink then .next s else
  let v := value % 2 ^ 16
  match s.pageRing func page with
  | none => .next (s.doorbellFault func page value)
  | some n =>
    if s.tailOk n v then .next (s.setSq n { s.sq n with tail := v })
    else .next (s.doorbellFault func page value)

/-- CQ_HEAD: a write of a completion ring's doorbell; bits 31:16 are ignored. -/
def execCqHead (func page value : Nat) (s : State) : Host.Outcome State Fault Refusal :=
  if !s.hostLink then .next s else
  let v := value % 2 ^ 16
  match s.pageRing func page with
  | none => .next (s.doorbellFault func page value)
  | some n =>
    if s.headOk n v then .next (s.setCq n { s.cq n with head := v })
    else .next (s.doorbellFault func page value)

/-! ## Fetch -/

/-- An uncompleted FENCE holds its own ring's fetch (R404). -/
def State.fenceHolds (s : State) (n : Nat) : Bool :=
  s.host.inflight.any (fun d => d.ring = n && d.ty = 0x06)

/-- A descriptor of ring `n` may be fetched: the ring is enabled, not halted and not empty, its completion
ring has room and holds no due record, and no FENCE holds it. -/
def State.mayFetch (s : State) (n : Nat) : Bool :=
  let q := s.sq n
  let c := s.cqOf n
  s.sqEnabled n && !q.halted && decide (q.head ≠ q.tail) && !s.cqFull c && (s.cq c).held.isEmpty
    && !s.fenceHolds n && s.hostUp

/-- The ring whose turn it is: the next in ascending order after the one last served (R399). -/
def State.nextRing (s : State) : Option Nat :=
  let ready := (s.host.sq.map (·.1)).filter s.mayFetch
  match ready.find? (fun n => s.host.lastRing < n) with
  | some n => some n
  | none => ready.head?

/-- Descriptor bytes of a ring's FORMAT: 64 for v1, read with bytes 127:64 as 0, or 128 for v2 (R403). -/
def State.descBytes (s : State) (n : Nat) (bytes : List Byte) : List Byte :=
  let v2 := getBit (s.reg ⟨.sqCtl, n, 0⟩) 30
  fitBytes 128 (bytes.take (if v2 then 128 else 64))

/-- The reserved bytes of a descriptor are 0 (R405 code 0x02; every byte that Tables 15.5 and 15.6 do not
name, and unused FENCE ring entries). -/
def descReservedOk (b : List Byte) : Bool :=
  decide (leAt b 1 1 < 2) && zeroIn b 2 8 &&
  match leAt b 0 1 with
  | 0x01 => zeroIn b 24 128
  | 0x02 => zeroIn b 28 64 && zeroIn b 72 128
  | 0x03 => zeroIn b 19 128
  | 0x04 => zeroIn b 24 128
  | 0x05 => zeroIn b 24 128
  | 0x06 => zeroIn b (if leAt b 17 1 ≤ 4 then 18 + 2 * leAt b 17 1 else 26) 128
  | 0x07 => zeroIn b 28 128
  | 0x08 => zeroIn b 20 128
  | 0x09 => zeroIn b 17 24 && zeroIn b 36 128
  | 0x0A => zeroIn b 20 24 && zeroIn b 36 128
  | _ => true

/-- A required address: present and aligned. -/
def addrOk (a align : Nat) : Bool := decide (a ≠ 0 ∧ a % align = 0)

/-- The addresses of a descriptor are aligned, and present where required (R405 code 0x03). -/
def descAddrOk (b : List Byte) : Bool :=
  match leAt b 0 1 with
  | 0x01 => addrOk (leAt b 16 8) 8
  | 0x02 => addrOk (leAt b 16 8) 8 && decide (leAt b 64 8 % 8 = 0)
  | 0x07 => addrOk (leAt b 16 8) 8
  | 0x09 => addrOk (leAt b 24 8) 64
  | 0x0A => addrOk (leAt b 24 8) 64
  | _ => true

/-- A dense format code (Table 2.8). -/
def denseCode (f : Nat) : Bool := decide (f < 0x0A)

/-- A sparse format code (Table 2.8). -/
def sparseCode (f : Nat) : Bool := decide (0x10 ≤ f ∧ f ≤ 0x15)

/-- The fields of a descriptor are in range (R405 code 0x04); `desc` is the tensor description. -/
def descRangeOk (b desc : List Byte) : Bool :=
  match leAt b 0 1 with
  | 0x02 => !(denseCode (leAt desc 5 1) && decide (leAt b 24 4 ≠ 0))
  | 0x06 =>
    let scope := leAt b 16 1
    let count := leAt b 17 1
    decide (scope ≤ 1) && (if scope = 1 then decide (1 ≤ count ∧ count ≤ 4) else decide (count = 0))
  | 0x07 => decide (leAt b 24 4 % 8 = 0 ∧ 8 ≤ leAt b 24 4 ∧ leAt b 24 4 ≤ 2 ^ 24)
  | 0x09 => decide (leAt b 16 1 ≤ 2 ∧ 64 ≤ leAt b 32 4)
  | _ => true

/-- The rings a FENCE lists, as global numbers. -/
def State.fenceRings (s : State) (d : Desc) : List Nat :=
  (List.range (d.field 17 1)).map (fun i => s.globalRing d.func (d.field (18 + 2 * i) 2))

/-- Each ring that a FENCE lists is enabled and belongs to the function (R404). -/
def State.fenceRingsOk (s : State) (d : Desc) : Bool :=
  (List.range (d.field 17 1)).all (fun i =>
    let k := d.field (18 + 2 * i) 2
    let n := s.globalRing d.func k
    decide (n < 4096) && decide (s.ringFunc n = d.func) && s.sqEnabled n)

/-- The first structural check that a descriptor fails, in the order of Table 15.7. -/
def State.malformed (s : State) (d : Desc) : Option Nat :=
  let b := d.bytes
  if d.ty = 0 ∨ 0x0A < d.ty then some 0x01
  else if !descReservedOk b then some 0x02
  else if !descAddrOk b then some 0x03
  else if !descRangeOk b (d.block 0) then some 0x04
  else if d.ty = 0x06 && d.field 16 1 = 1 && !s.fenceRingsOk d then some 0x05
  else if d.ty = 0x02 && d.field 64 8 ≠ 0 && sparseCode (leAt (d.block 0) 5 1) then some 0x06
  else none

/-- Take a descriptor in hand: checked (R405), completed at once on a device fault (R459) or on package B
in mirror mode (R391), else it waits for the command that acts on it. -/
def State.takeIn (s : State) (d : Desc) : State :=
  let s := { s with host := { s.host with inflight := s.host.inflight ++ [d] } }
  match s.malformed d with
  | some code => s.completeStatus d 0x0001 code
  | none =>
    match s.host.deviceFault with
    | some cls => if d.ty = 0x09 then s else s.completeStatus d 0x0018 cls
    | none =>
      if s.mirror && s.pkg == .b && !d.forwarded then s.completeStatus d 0x0003
      else s

/-- Advance a ring past the descriptor at HEAD and give it its place in fetch order. -/
def State.takeSlot (s : State) (n : Nat) : State :=
  let q := s.sq n
  let s := s.setSq n { q with head := (q.head + 1) % s.sqSize n }
  { s with host := { s.host with lastRing := n, nextSeq := s.host.nextSeq + 1 } }

/-- DESC_FETCH: the engines fetch the next descriptor in fetch order, with the structures it names as the
host returns them; in mirror mode package A forwards it to package B (R391). -/
def execDescFetch (bytes : List Byte) (blocks : List (List Byte)) (s : State) :
    Host.Outcome State Fault Refusal :=
  match s.nextRing with
  | none => .next s
  | some n =>
    let d : Desc :=
      { seq := s.host.nextSeq, func := s.ringFunc n, ring := n, bytes := s.descBytes n bytes,
        blocks := blocks }
    let s := s.takeSlot n
    let s := if s.mirror && s.pkg == .a then s.emit (.pairDesc d) else s
    .next (s.takeIn d)

/-- DESC_FETCH_BUS_ERROR: the host read of a descriptor (`bytes` absent) or of a structure it names meets
a bus error: BUS_ERROR with the cause, HALTED set, and no further fetch from the ring (R401). -/
def execDescFetchBusError (cause : Nat) (bytes : Option (List Byte)) (s : State) :
    Host.Outcome State Fault Refusal :=
  match s.nextRing with
  | none => .next s
  | some n =>
    let b := match bytes with
      | some b => s.descBytes n b
      | none => fitBytes 16 (Config.unreadDescriptor s.free)
    let d : Desc := { seq := s.host.nextSeq, func := s.ringFunc n, ring := n, bytes := b }
    let s := s.takeSlot n
    let s := s.logFor 0x0033 d.func n cause
    let s := s.setSq n { s.sq n with halted := true }
    .next (s.complete d { d.record 0x0013 cause with logged := true })

/-- COMPLETION_RECORD_RESUME: the records held for a completion ring are written in order once it has room
(R402). -/
def execCompletionRecordResume (cq : Nat) (s : State) : Host.Outcome State Fault Refusal :=
  .next (s.drainHeld cq (s.cq cq).held)

/-- The rings in a FENCE's scope contain a descriptor's ring. -/
def State.inScope (s : State) (f d : Desc) : Bool :=
  if f.field 16 1 = 0 then decide (d.func = f.func) else (s.fenceRings f).contains d.ring

/-- FENCE_DESC: a FENCE completes once every descriptor fetched before it from the rings of its scope has
completed (R404). -/
def execFenceDesc (ring : Nat) (s : State) : Host.Outcome State Fault Refusal :=
  match s.host.inflight.find? (fun d => d.ring = ring && d.ty = 0x06) with
  | none => .next s
  | some f =>
    if s.host.inflight.any (fun d => decide (d.seq < f.seq) && s.inScope f d) then .next s
    else .next (s.completeStatus f 0x0000)

/-- POWER_HINT: the ring's wake-latency tolerance is recorded (R437). -/
def execPowerHint (ring : Nat) (s : State) : Host.Outcome State Fault Refusal :=
  match s.dueDesc ring 0x08 with
  | none => .next s
  | some d =>
    let s := s.setSq ring { s.sq ring with wakeTol := some (d.field 16 4) }
    .next (s.completeStatus d 0x0000)

/-- Clear HALTED of a submission ring: fetch resumes at HEAD (R401). -/
def State.resumeRing (s : State) (n : Nat) : State := s.setSq n { s.sq n with halted := false }

end Sys2Proof.Machine
end

