-- ==== Sys2Proof/Machine/Define.lean ====
section
/-! DEFINITION. Tensors: TENSOR_DEFINE with its checks (Table 2.10), views (Table 11.6), the reservation of
homes (R33, R336) and pending resume records (R471); TENSOR_RELEASE (R79). -/

namespace Sys2Proof.Machine

/-- The fields of a 128-byte tensor description (Table 2.11). -/
def parseDesc (b : List Byte) (pool : Nat) : TensorDesc where
  rank := leAt b 4 1
  format := leAt b 5 1
  valueFormat := leAt b 6 1 % 32
  scaleBlk := leAt b 6 1 / 32
  layout := leAt b 7 1
  polder := leAt b 8 1
  genPolicy := leAt b 9 1
  options := leAt b 10 1
  shape := (List.range 8).map (fun i => leAt b (16 + 8 * i) 8)
  shard := (List.range 8).map (fun i => leAt b (80 + 4 * i) 4)
  pool := pool
  crc := (crc64 (fitBytes 128 b)).toNat

/-- Extents are at least 1 within RANK, 0 beyond it, and the grid has at most 2^40 tiles (R73). -/
def extentsOk (d : TensorDesc) : Bool :=
  ((List.range 8).all (fun i =>
    if i < d.rank then decide (1 ≤ d.shape.getD i 0) else decide (d.shape.getD i 0 = 0)))
    && decide (d.tileCount ≤ 2 ^ 40)

/-- An arithmetic format code that the feature set admits: FP4 needs its feature (Table 15.12). -/
def State.formatOk (s : State) (f : Nat) : Bool := f != 0x07 || s.feature 3

/-- FORMAT and VALUE_FORMAT (check 0x03). -/
def State.formatsOk (s : State) (d : TensorDesc) : Bool :=
  if denseCode d.format then decide (d.valueFormat = 0) && s.formatOk d.format
  else sparseCode d.format && decide (d.valueFormat ≤ 0x07) && s.formatOk d.valueFormat

/-- A sharding entry of dimension `q` of extent `n` (R75). -/
def State.shardOk (s : State) (d : TensorDesc) (q : Nat) : Bool :=
  let e := d.shard.getD q 0
  if d.rank ≤ q then decide (e = 0)
  else
    let k := shardKind e
    let b := shardBlock e
    let u := if q + 2 < d.rank then 1 else 64
    decide (e < 2 ^ 28) && decide (k ≠ 3) &&
      (if k = 0 then decide (e = 0)
       else
        (match s.mesh with
          | none => false
          | some m => decide (m.axes.getD (shardAxis e) 0 ≠ 0))
        && ((List.range d.rank).all (fun r =>
              decide (r = q) || decide (shardKind (d.shard.getD r 0) = 0)
                || decide (shardAxis (d.shard.getD r 0) ≠ shardAxis e)))
        && (if k = 1 then decide (b = 0) else decide (b ≠ 0 ∧ b % u = 0)))

/-- The polder of a description may be named by the function (R477, feature POLDERS). -/
def State.polderOk (s : State) (func p : Nat) : Bool :=
  decide (p = 0) ||
    (decide (p ≤ 16) && s.feature 1 && s.polderExists p && getBit (s.reg ⟨.polderFuncs, p, 0⟩) func)

/-- The reserved fields of a description are 0 (R536). -/
def descZero (b : List Byte) : Bool :=
  zeroIn b 3 4 && zeroIn b 11 16 && zeroIn b 112 128 && decide (leAt b 10 1 < 16)

/-- The checks of a tensor description in ascending code: whether each fails, and its code (Table 2.10). -/
def State.descChecks (s : State) (func : Nat) (b : List Byte) (d : TensorDesc) : List (Bool × Nat) :=
  let id := leAt b 0 3
  [ (!decide (1 ≤ d.rank ∧ d.rank ≤ 8), 0x01),
    (!extentsOk d, 0x02),
    (!s.formatsOk d, 0x03),
    (!scaleBlkOk d.elemCode d.scaleBlk, 0x04),
    (!layoutOk d.layout d.scaleBlk d.format, 0x05),
    (!s.polderOk func d.polder, 0x06),
    (decide (3 ≤ d.genPolicy), 0x07),
    (!(List.range 8).all (s.shardOk d), 0x08),
    (decide (id = 0) || decide (idFunc id ≠ func) || (s.tensor id).isSome, 0x09),
    (!descZero b, 0x0A) ]

/-! ## Views (R299, R300) -/

/-- A view record's fields. Its reserved bytes and bits, and offsets from RANK on, are passed over (log entry 132). -/
def parseView (b : List Byte) : ViewRec where
  base := leAt b 0 3
  offset := (List.range 8).map (fun i => leAt b (8 + 8 * i) 8)
  bytes := fitBytes 72 b

/-- The dimension that is contiguous in memory; under COL a rank-1 tensor has the added dimension of extent 1 there (R64). -/
def TensorDesc.contiguous (d : TensorDesc) : Option Nat :=
  if d.colOrder then (if d.rank = 1 then none else some (d.rank - 2)) else some (d.rank - 1)

/-- The first reason of Table 11.6 that refuses a view. -/
def State.viewDenied (s : State) (func : Nat) (d : TensorDesc) (v : ViewRec) : Option Nat :=
  match s.usable func v.base with
  | none => some 0x1
  | some t =>
    let e := t.desc
    let off (i : Nat) := v.offset.getD i 0
    let ext (i : Nat) := d.shape.getD i 0
    let dims := List.range d.rank
    if t.view.isSome || e.sparse then some 0x1
    else if d.genPolicy ≠ 1 ∨ e.genPolicy ≠ 1 then some 0x2
    else if d.rank ≠ e.rank ∨ d.format ≠ e.format ∨ d.valueFormat ≠ e.valueFormat
        ∨ d.scaleBlk ≠ e.scaleBlk ∨ d.layout ≠ e.layout ∨ d.polder ≠ e.polder then some 0x3
    else if d.outerScaled then some 0x3
    else if dims.any (fun i => decide (e.shape.getD i 0 < off i + ext i)) then some 0x4
    else if dims.any (fun i => decide (shardKind (e.shard.getD i 0) ≠ 0) &&
        (decide (off i ≠ 0) || decide (ext i ≠ e.shape.getD i 0)
          || decide (d.shard.getD i 0 ≠ e.shard.getD i 0))) then some 0x5
    else
      let B := blockLen d.scaleBlk
      match d.contiguous with
      | none => none
      | some c =>
        if d.scaleBlk ≠ 0 ∧ (off c % B ≠ 0 ∨
            ((off c + ext c) % B ≠ 0 ∧ off c + ext c ≠ e.shape.getD c 0)) then some 0x6
        else none

/-! ## Homes -/

/-- Stack bytes for homes: the stacks in service, less the control region of die 0 (R25). -/
def State.stackBytes (s : State) : Nat :=
  ((List.range s.part.stackCount).filter (fun i => !getBit (s.reg ⟨.stackStat, i, 0⟩) 31)).length
    * (48 * 2 ^ 30) - 64 * 2 ^ 20

/-- Bytes reserved for the streams of courses (R34, R315). -/
def State.spaceReserved (s : State) : Nat :=
  ((s.courses.flatMap (fun c => c.streams.filterMap (fun x => x.space))).map (fun p => p.bytes)).foldl (· + ·) 0

/-- Bytes reserved for homes, and for streams. -/
def State.reservedBytes (s : State) : Nat :=
  s.tensors.foldl (fun a kv => match kv.2 with | some t => a + t.bytes | none => a) s.spaceReserved

/-- Free stack bytes. -/
def State.freeBytes (s : State) : Nat := s.stackBytes - s.reservedBytes

/-- Bytes of a tensor's home on this device; a TRANSIENT tensor has one only where the placer gives it
stacks (R77, R332), a view none (R299). -/
def State.homeOf (s : State) (d : TensorDesc) (stackIds : List Nat) (view : Bool) : Nat :=
  if view || (d.genPolicy = 0 && stackIds.isEmpty) then 0 else d.homeBytes (s.heldTiles d).length

/-- The pending resume record for an id and a description (R471). -/
def State.pendingRec (s : State) (id crc : Nat) : Option ResumeRec :=
  s.resume.pending.find? (fun r => r.id = id && r.crc = crc)

/-- A tensor takes the state of a pending record, which is used up; RESTORED counts it. -/
def State.claim (s : State) (id : Nat) (t : Tensor) : State :=
  match s.pendingRec id t.desc.crc with
  | none => s.setTensor id (some t)
  | some r =>
    let t := { t with genNo := r.genNo, scale := r.scale, dry := r.dry, fired := r.fired }
    let s := { s with resume := { s.resume with pending := s.resume.pending.filter (fun q => q.id ≠ id) } }
    (s.setTensor id (some t)).countReg ⟨.resumeStat, 0, 0⟩ 15 0 1

/-- The tensor that a TENSOR_DEFINE makes: every element zero, every block EMPTY (R172, Table 11.2). -/
def newTensor (func : Nat) (d : TensorDesc) (v : Option ViewRec) (stackIds : List Nat) (base bytes : Nat) :
    Tensor :=
  { func := func, desc := d, view := v, stackIds := stackIds, base := base, bytes := bytes }

/-- Every controller in service has trained and zeroed its stack (R320). -/
def State.stacksReady (s : State) : Bool :=
  (List.range s.part.stackCount).all (fun n => s.stackRetired n || (s.stack n).zeroed)

/-- Where homes begin in a stack: above the control region, the lowest 8 MiB of each stack of die 0 (R25 names the die
only; log entry 113). -/
def homeFloor (stack : Nat) : Nat := if stack < 8 then 8 * 2 ^ 20 else 0

/-- Stack numbers in strictly ascending order. -/
def ascending : List Nat → Bool
  | a :: b :: r => decide (a < b) && ascending (b :: r)
  | _ => true

/-- Two homes share bytes of a stack. -/
def homesMeet (t u : Tensor) : Bool :=
  t.stackIds.any u.stackIds.contains && decide (t.base < u.base + u.span ∧ u.base < t.base + t.span)

/-! ## Space for streams (R34, R57, R315) -/

/-- What lies in the stacks: homes, and spaces of streams. -/
def State.inStacks (s : State) : List Tensor :=
  s.tensors.filterMap (fun kv => kv.2) ++ s.courses.flatMap (fun c => c.streams.filterMap (fun x => x.space.map Space.home))

/-- The lowest base at which a space lies on its stacks beside everything else there: their floor, or the end of something
there. -/
def State.fitSpace (s : State) (p : Space) : Option Space :=
  let there := s.inStacks.filter (fun u => u.stackIds.any p.stackIds.contains)
  let bases := sortNat ((p.stackIds.map homeFloor).foldl max 0 :: there.map (fun u => u.base + u.span))
  ((bases.map (fun b => { p with base := b })).find? (fun q =>
    p.stackIds.all (fun n => decide (homeFloor n ≤ q.base)) && decide (q.base + q.home.span ≤ stackSize)
      && !there.any (homesMeet q.home)))

/-- Stacks in service. -/
def State.stacksUp (s : State) : List Nat := (List.range s.part.stackCount).filter (fun n => !s.stackRetired n)

/-- Free room for a stream's tiles: on one stack where one has it, else across all stacks in service (log entry 55). -/
def State.freeSpace (s : State) (bytes : Nat) : Option Space :=
  (s.stacksUp.map (fun n => [n]) ++ [s.stacksUp]).findSome? (fun ids =>
    if ids.isEmpty then none else s.fitSpace { stackIds := ids, base := 0, bytes := roundUp bytes 4096 })

/-- A stream with the space that it has or is given. -/
def State.withSpace (s : State) (c : Course) (x : Stream) : Stream :=
  match x.space with
  | some _ => x
  | none => { x with space := s.freeSpace (s.spaceBytes c x) }

/-! ## TENSOR_DEFINE -/

/-- The placer's place for a home is one it may choose: stacks in service, whole granules, room in each, and
no other home or stream's space there. -/
def State.placeOk (s : State) (t : Tensor) : Bool :=
  decide (t.bytes = 0) ||
    (!t.stackIds.isEmpty && ascending t.stackIds && decide (t.base % 4096 = 0)
      && t.stackIds.all (fun n => decide (n < s.part.stackCount ∧ homeFloor n ≤ t.base ∧ t.base + t.span ≤ stackSize)
          && !s.stackRetired n)
      && s.tensors.all (fun kv => match kv.2 with
          | some u => !homesMeet t u
          | none => true)
      && s.courses.all (fun c => c.streams.all (fun x => match x.space with
          | some p => !homesMeet t p.home
          | none => true)))

/-- TENSOR_DEFINE: the checks of Table 2.10, then those of a view, then the reservation. `stacks` and `base` are
the placer's choice of a place. -/
def State.define (s : State) (d : Desc) (stackIds : List Nat) (base : Nat) : State :=
  let b := d.block 0
  let id := leAt b 0 3
  let td := parseDesc b (d.field 24 4)
  match (s.descChecks d.func b td).find? (fun c => c.1) with
  | some c => s.completeStatus d 0x0002 c.2 id
  | none =>
    let view := if d.field 64 8 = 0 then none else some (parseView (d.block 1))
    let denied := match view with
      | none => none
      | some v => s.viewDenied d.func td v
    match denied with
    | some r => s.completeStatus d 0x0007 r id
    | none =>
      let bytes := s.homeOf td stackIds view.isSome
      if s.freeBytes < bytes then s.completeStatus d 0x0005 0 id
      else
        let t := newTensor d.func td view (if bytes = 0 then [] else stackIds) base bytes
        if s.placeOk t && (decide (bytes = 0) || !s.sysChannelsHalted) then ((s.claim id t).fillHome t).completeStatus d 0x0000 else s

/-- TENSOR_DEFINE: the ring's next descriptor, if it is one; none completes before every controller has zeroed
its stack (R320). -/
def execTensorDefine (ring : Nat) (stackIds : List Nat) (base : Nat) (s : State) :
    Host.Outcome State Fault Refusal :=
  match s.dueDesc ring 0x02 with
  | none => .next s
  | some d => if s.stacksReady then .next (s.define d stackIds base) else .next s

/-! ## Release (R79) -/

/-- The tensor must stay: a running or held course names it, or it is a base with views (R79, R301). -/
def State.releaseHeld (s : State) (id : Nat) : Bool :=
  s.namedByCourse id || !(s.viewsOf id).isEmpty

/-- Remove a tensor: its home's poison marks and directory entries go with it (R326). -/
def State.dropTensor (s : State) (id : Nat) : State :=
  match s.tensor id with
  | none => s
  | some t => (s.clearMarks t).setTensor id none

/-- TENSOR_RELEASE: release, defer, or complete DESC_INVALID for an id that is not defined for the
function. -/
def State.releaseTensor (s : State) (d : Desc) : State :=
  let id := d.field 16 3
  match s.usable d.func id with
  | none => s.completeStatus d 0x0002 0x15 id
  | some t =>
    if s.releaseHeld id then (s.setTensor id (some { t with releasing := some d })).markActed d
    else (s.dropTensor id).completeStatus d 0x0000

/-- TENSOR_RELEASE: the ring's next descriptor, if it is one. -/
def execTensorRelease (ring : Nat) (s : State) : Host.Outcome State Fault Refusal :=
  match s.dueDesc ring 0x03 with
  | none => .next s
  | some d => .next (s.releaseTensor d)

/-- TENSOR_RELEASE_DEFERRED: a deferred release takes effect once nothing holds the tensor. -/
def execTensorReleaseDeferred (id : Nat) (s : State) : Host.Outcome State Fault Refusal :=
  match s.tensor id with
  | none => .next s
  | some t =>
    match t.releasing with
    | none => .next s
    | some d =>
      if s.releaseHeld id then .next s else .next ((s.dropTensor id).completeStatus d 0x0000)

end Sys2Proof.Machine
end

