-- ==== Sys2Proof/Machine/Submit.lean ====
section
/-! DEFINITION. COURSE_SUBMIT: the course header, stations and streams (2.1 to 2.3), the checks of Table 2.10
and after (R80, R130, R306, R84), the stream contexts (R60) and the holding of courses (R81, R400, R444);
COURSE_RELEASE_HELD. -/

namespace Sys2Proof.Machine

/-! ## Reading the structures -/

/-- Cut `n` records of `size` bytes from a byte list. -/
def recordsOf (size : Nat) : Nat → List Byte → List (List Byte)
  | 0, _ => []
  | n + 1, bs => fitBytes size (bs.take size) :: recordsOf size n (bs.drop size)

/-- A submitted course as read: its header, its station and stream records, and what they mean. -/
structure CourseIn where
  hdr : List Byte
  sts : List (List Byte)
  strs : List (List Byte)
  course : Course

/-- STATION_COUNT of a header (Table 2.1). -/
def stationCount (hdr : List Byte) : Nat := leAt hdr 4 4

/-- STREAM_COUNT of a header. -/
def streamCount (hdr : List Byte) : Nat := leAt hdr 8 4

/-- A station of its record (Table 2.2) and parameter block; a block of invalid length reads empty. -/
def readStation (i : Nat) (r params : List Byte) : Station where
  id := i
  typ := leAt r 4 1
  inPorts := leAt r 5 1
  outPorts := leAt r 6 1
  pin := if (leAt r 7 1).testBit 0 then some (leAt r 8 2) else none
  params := let n := leAt r 10 2; if n % 8 = 0 ∧ n ≤ 4096 then fitBytes n params else []

/-- A stream of its record (R52); `completion` is set for the port kinds of R58 and R59. -/
def readStream (sts : List Station) (i : Nat) (r : List Byte) : Stream :=
  let prod := leAt r 4 4 % 2 ^ 20
  { id := i, tensor := leAt r 12 3, prod := prod, prodPort := leAt r 4 4 / 2 ^ 20 % 16,
    cons := leAt r 8 4 % 2 ^ 20, consPort := leAt r 8 4 / 2 ^ 20 % 16,
    completion := match sts[prod]? with
      | some st => hasCompletion st.typ || st.typ == stFence
      | none => false }

/-- Read the structures of a COURSE_SUBMIT: block 0 is the header, 1 the stations, 2 the streams, and block
3 + i the parameter block of station i. -/
def readCourse (d : Desc) : CourseIn :=
  let hdr := fitBytes 64 (d.block 0)
  let srecs := recordsOf 32 (stationCount hdr) (d.block 1)
  let xrecs := recordsOf 32 (streamCount hdr) (d.block 2)
  let sts := (srecs.zip (List.range srecs.length)).map (fun q => readStation q.2 q.1 (d.block (3 + q.2)))
  { hdr := hdr, sts := srecs, strs := xrecs
    course :=
      { id := leAt hdr 0 4, desc := d, reachLog2 := leAt hdr 12 1, stepMode := leAt hdr 13 1 == 1,
        seed := leAt hdr 16 8, step := leAt hdr 24 8, epoch := leAt hdr 48 2, stations := sts,
        streams := (xrecs.zip (List.range xrecs.length)).map (fun q => readStream sts q.2 q.1) } }

/-! ## The checks of Table 2.10 -/

/-- ID of a station in a record (R80). -/
def stationItem (i : Nat) : Nat := 2 ^ 30 + i

/-- ID of a stream in a record. -/
def streamItem (i : Nat) : Nat := 2 ^ 31 + i

/-- Check 0x10: the counts are in range (R48, R60). -/
def State.countsBad (s : State) (hdr : List Byte) : Bool :=
  decide (stationCount hdr < 1 ∨ 65536 < stationCount hdr ∨ streamCount hdr < 1
    ∨ s.part.courseContexts < streamCount hdr)

/-- Check 0x11: a station id differs from its index, or TYPE is reserved. -/
def CourseIn.check11 (c : CourseIn) : Option Nat :=
  ((c.sts.zip c.course.stations).find? (fun q =>
    decide (leAt q.1 0 4 % 2 ^ 20 ≠ q.2.id) || (portRange q.2.typ).isNone)).map (fun q => stationItem q.2.id)

/-- Check 0x12: a port count outside Table 2.4. -/
def CourseIn.check12 (c : CourseIn) : Option Nat :=
  (c.course.stations.find? (fun st =>
    match portRange st.typ with
    | some (a, b, x, y) => !decide (a ≤ st.inPorts ∧ st.inPorts ≤ b ∧ x ≤ st.outPorts ∧ st.outPorts ≤ y)
    | none => true)).map (fun st => stationItem st.id)

/-- Both ends of a stream name ports that exist and may carry it (R52, R58, R59). The TENSOR_ID of a completion stream or of a
FENCE's output is not checked against the tensor that R58 and R59 name (log entry 102). -/
def Course.endsOk (c : Course) (x : Stream) : Bool :=
  match c.station x.prod, c.station x.cons with
  | some p, some q =>
    (if hasCompletion p.typ then decide (x.prodPort = 0) else decide (x.prodPort < p.outPorts))
      && decide (x.consPort < q.inPorts) && (!x.completion || (q.typ == stFence && p.id != q.id))
  | _, _ => false

/-- A stream stands on a port with too many streams and is the lowest on it: an input port takes one, an
output port feeds at most four. -/
def Course.crowded (c : Course) (x : Stream) : Bool :=
  let ins := c.streams.filter (fun y => y.cons = x.cons && y.consPort = x.consPort)
  let outs := c.streams.filter (fun y => y.prod = x.prod && y.prodPort = x.prodPort)
  (decide (1 < ins.length) && decide (ins.head?.map (·.id) = some x.id))
    || (decide (4 < outs.length) && decide (outs.head?.map (·.id) = some x.id))

/-- A used port lacks its stream (R52), or PRUNE_ID names no PRUNE of the same target (R215). -/
def Course.portsMissing (c : Course) (st : Station) : Bool :=
  (List.range st.inPorts).any (fun p => (c.inStream st.id p).isNone)
    || (List.range st.outPorts).any (fun p => (c.outStreams st.id p).isEmpty)
    || (st.typ == stRegrow && (st.p 20 4).testBit 31 &&
        (match c.station (st.p 20 4 % 2 ^ 20) with
          | some q => !(q.typ == stPrune && decide (q.p 12 3 = st.p 12 3))
          | none => true))

/-- Check 0x13: ports and endpoints; a stream is named before a station (R80). -/
def CourseIn.check13 (c : CourseIn) : Option Nat :=
  match (c.strs.zip c.course.streams).find? (fun q =>
      decide (leAt q.1 0 4 % 2 ^ 20 ≠ q.2.id) || !c.course.endsOk q.2 || c.course.crowded q.2) with
  | some q => some (streamItem q.2.id)
  | none => (c.course.stations.find? c.course.portsMissing).map (fun st => stationItem st.id)

/-- Check 0x14: the graph has a cycle; the lowest station on one is named (R47). -/
def CourseIn.check14 (c : CourseIn) : Option Nat :=
  (c.course.stations.find? (fun st => c.course.below st.id st.id)).map (fun st => stationItem st.id)

/-- The dimension along which a product reduces its input 0 (Table 7.1, Table 5.6: A transposed), counted in
`dims`. -/
def reductionDim (st : Station) (d : TensorDesc) : Nat :=
  if st.typ = stSddmm ∨ (st.typ = stMatmul ∧ (st.p 0 1).testBit 0) then d.dims.length - 2
  else d.dims.length - 1

/-- An output port carries LONG_SUM partials: a reduction whose dimension is sharded over more than one
device (R132, R138, R159, R192). -/
def State.longPort (s : State) (c : Course) (st : Station) (port : Nat) : Bool :=
  match s.tensor (c.inTensor st.id 0) with
  | none => false
  | some t =>
    if isProduct st.typ then
      (port == 0 || (st.typ == stSddmm && port == 1)) && s.shardedDim t.desc (reductionDim st t.desc)
    else if st.typ = stReduce then
      decide (st.p 0 1 ≤ 1 ∧ st.p 1 1 = 1 ∧ st.p 3 1 < t.desc.rank) &&
        s.shardedDim t.desc (if t.desc.rank = 1 then 1 else st.p 3 1)
    else false

/-- An input port accepts a LONG_SUM stream (R69): REDUCE, EXCHANGE, and a C port that folds partials. -/
def acceptsLong (st : Station) (port : Nat) : Bool :=
  st.typ == stReduce || st.typ == stExchange
    || (port == 2 && ((st.typ == stMatmul && (st.p 0 1).testBit 2)
        || ((st.typ == stSpmm || st.typ == stSpmmT || st.typ == stSpsp) && (st.p 0 1).testBit 1)))

/-- The always-arithmetic ports of R73. -/
def alwaysArithmetic (typ port : Nat) : Bool :=
  if typ = stMatmul ∨ typ = stSpmm ∨ typ = stSpmmT ∨ typ = stSpsp ∨ typ = stAttend then decide (port ≤ 2)
  else if typ = stSddmm ∨ typ = stUpdate then decide (port ≤ 1)
  else (port == 0 && (typ == stReduce || typ == stGauge || typ == stHist || typ == stRegrow))
    || (port == 1 && typ == stPrune)

/-- A tensor whose TENSOR_RELEASE is deferred (R79). -/
def State.releaseDue (s : State) (id : Nat) : Bool :=
  match s.tensor id with
  | some t => t.releasing.isSome
  | none => false

/-- Check 0x15: a stream's tensor (R79), a LONG_SUM stream's port (R69), an index tensor at an arithmetic port
(R73); then a station whose parameters name a tensor with a TENSOR_RELEASE (R79; log entry 104). -/
def State.check15 (s : State) (func : Nat) (c : Course) : Option Nat :=
  (c.streams.find? (fun x =>
    match s.usable func x.tensor, c.station x.prod, c.station x.cons with
    | some t, some p, some q =>
      (!x.completion && s.longPort c p x.prodPort && !acceptsLong q x.consPort)
        || (indexFormat t.desc.format && alwaysArithmetic q.typ x.consPort)
    | _, _, _ => true)).map (fun x => streamItem x.id)
  <|> (c.stations.find? (fun st => (stationNames st).any s.releaseDue)).map (fun st => stationItem st.id)

/-- Check 0x16: REACH_LOG2 (R49). -/
def State.check16 (s : State) (c : Course) : Bool :=
  decide (c.reachLog2 < 8 ∨ 12 < c.reachLog2) || (decide (c.reachLog2 < 12) && !s.feature 4)

/-- Check 0x18: the lowest tensor both read and written that is not DOUBLE (R77). -/
def State.check18 (s : State) (c : Course) : Option Nat :=
  let w := c.writes
  c.reads.find? (fun id => w.contains id &&
    (match s.tensor id with
      | some t => decide (t.desc.genPolicy ≠ 2)
      | none => false))

/-- Check 0x19: PARAMS_LEN. -/
def CourseIn.check19 (c : CourseIn) : Option Nat :=
  ((c.sts.zip c.course.stations).find? (fun q =>
    decide (leAt q.1 10 2 % 8 ≠ 0 ∨ 4096 < leAt q.1 10 2))).map (fun q => stationItem q.2.id)

/-- What a station writes of a tensor, in its base's coordinates (R301): of a STORE the tensor's whole region, also where its LOAD
brings a part of it (log entry 133). -/
def State.writeBox (s : State) (st : Station) (id : Nat) : Box :=
  match s.tensor id with
  | none => []
  | some t => if st.typ = stStore then t.writeRegion else t.region

/-- Two stations write one tensor, or overlapping elements of one alias set. -/
def State.writeClash (s : State) (c : Course) (a b : Station) : Bool :=
  (c.stationWrites a).any (fun x => (c.stationWrites b).any (fun y =>
    x == y || (s.baseOf x == s.baseOf y && !(Box.meet (s.writeBox a x) (s.writeBox b y)).empty)))

/-- Check 0x1A: the lowest of the higher ids of clashing writers, neither downstream of the other (R80). -/
def State.check1A (s : State) (c : Course) : Option Nat :=
  (c.stations.find? (fun b =>
    (c.stations.take b.id).any (fun a =>
      s.writeClash c a b && !c.below a.id b.id && !c.below b.id a.id))).map (fun b => stationItem b.id)

/-- Check 0x1C: reserved fields; the header, then streams, then stations (R537). -/
def CourseIn.check1C (c : CourseIn) : Option Nat :=
  if !(zeroIn c.hdr 14 16 && zeroIn c.hdr 50 64) then some 0
  else
    match (c.strs.zip c.course.streams).find? (fun q =>
        !(decide (leAt q.1 0 4 < 2 ^ 20 ∧ leAt q.1 4 4 < 2 ^ 24 ∧ leAt q.1 8 4 < 2 ^ 24
          ∧ leAt q.1 12 4 < 2 ^ 24) && zeroIn q.1 16 32)) with
    | some q => some (streamItem q.2.id)
    | none =>
      ((c.sts.zip c.course.stations).find? (fun q =>
        !(decide (leAt q.1 0 4 < 2 ^ 20 ∧ leAt q.1 7 1 < 2) && zeroIn q.1 12 16 && zeroIn q.1 24 32))).map
        (fun q => stationItem q.2.id)

/-- The first failing check of a course: its code and ID (R80). A check of the header names no item of the three kinds: its ID is 0
(log entry 103). -/
def State.courseCheck (s : State) (func : Nat) (c : CourseIn) : Option (Nat × Nat) :=
  let fail (code : Nat) (r : Option Nat) : Option (Nat × Nat) := r.map (fun i => (code, i))
  let bad (code : Nat) (b : Bool) : Option (Nat × Nat) := if b then some (code, 0) else none
  fail 0x11 c.check11 <|> fail 0x12 c.check12 <|> fail 0x13 c.check13 <|> fail 0x14 c.check14
    <|> fail 0x15 (s.check15 func c.course) <|> bad 0x16 (s.check16 c.course)
    <|> bad 0x17 (decide (2 ≤ leAt c.hdr 13 1)) <|> fail 0x18 (s.check18 c.course)
    <|> fail 0x19 c.check19 <|> fail 0x1A (s.check1A c.course)
    <|> bad 0x1B (s.course c.course.id).isSome <|> fail 0x1C c.check1C

/-! ## KLEN, OVERLAP and pins -/

/-- Positions that one slot of a VEC program sums: each ACC of a sum kind takes, in each of its passes, a
row's elements over the task's tiles (R276). -/
def vecSlotLength (st : Station) (cols slot : Nat) : Nat :=
  let row := if st.p 0 1 = 1 then cols else min 64 cols
  ((List.range (st.p 4 2)).map (fun i =>
    let w := st.p (144 + 8 * i) 8
    let imm := w % 2 ^ 19
    if w / 2 ^ 58 = 0x0D ∧ imm.testBit 5 ∧ imm % 16 ≤ 3 ∧ imm / 64 % 4 = slot then
      row * ((List.range (st.p 1 1)).filter (fun q => (w / 2 ^ 53).testBit q)).length
    else 0)).foldl (· + ·) 0

/-- The longest reduction of a station, in positions (R130, R252). That of an ATTEND is the D of its scores (R281); a CLIP gauges its
input. -/
def State.reductionLength (s : State) (c : Course) (st : Station) : Nat :=
  match s.tensor (if st.typ = stUpdate ∧ st.p 4 3 ≠ 0 then st.p 4 3 else c.inTensor st.id 0) with
  | none => 0
  | some t =>
    let d := t.desc
    if isProduct st.typ then d.dims.getD (reductionDim st d) 0
    else if st.typ = stReduce then
      if st.p 1 1 = 1 ∧ st.p 0 1 ≤ 3 ∧ st.p 3 1 < d.rank then
        d.dims.getD (if d.rank = 1 then 1 else st.p 3 1) 0
      else 0
    else if st.typ = stAttend then d.cols
    else if st.typ = stUpdate ∨ st.typ = stGauge then d.elemCount
    else if st.typ = stVec then (List.range 4).foldl (fun a k => max a (vecSlotLength st d.cols k)) 0
    else 0

/-- R130: the first station whose reduction is longer than 2^36. -/
def State.klenBad (s : State) (c : Course) : Option Nat :=
  (c.stations.find? (fun st => decide (2 ^ 36 < s.reductionLength c st))).map (·.id)

/-- PERM of a LOAD (Table 11.4): the source dimension of output dimension `i`. -/
def Station.perm (st : Station) (i : Nat) : Nat := st.p 8 3 / 8 ^ i % 8

/-- A LOAD's PERM is the identity on a rank. -/
def Station.permIsId (st : Station) (rank : Nat) : Bool :=
  (List.range rank).all (fun i => decide (st.perm i = i))

/-- A box of a LOAD's output in its source's coordinates. -/
def Station.srcBox (st : Station) (b : Box) : Box :=
  (List.range b.length).map (fun q =>
    match (List.range b.length).find? (fun i => decide (st.perm i = q)) with
    | some i => b.getD i (0, 0)
    | none => b.getD q (0, 0))

/-- The boxes of the source that a LOAD reads: the whole of it, or one per tile of a partial range. -/
def State.loadBoxes (s : State) (c : Course) (st : Station) : List Box :=
  match s.tensor (st.p 4 3), s.tensor (c.outTensor st.id 0) with
  | some src, some y =>
    let n := y.desc.tileCount
    let (a, b) := st.loadRange n
    if a = 0 ∧ b = n then [wholeBox src.desc.dims]
    else (List.range (b - a)).map (fun k => st.srcBox (y.desc.tileBox (a + k)))
  | _, _ => []

/-- The boxes of a tensor that a station reads, in its base's coordinates. -/
def State.readBoxes (s : State) (c : Course) (st : Station) (id : Nat) : List Box :=
  match s.tensor id with
  | none => []
  | some t => if st.typ = stLoad then (s.loadBoxes c st).map t.toBase else [t.region]

/-- The tiles of a tensor that a box touches. -/
def TensorDesc.boxTiles (d : TensorDesc) (b : Box) : List Nat :=
  (List.range d.tileCount).filter (fun t => !(Box.meet (d.tileBox t) b).empty)

/-- The most source bytes that any device reads for a LOAD, in slots of Z bytes (R306). -/
def State.mostRead (s : State) (c : Course) (st : Station) : Nat :=
  match s.tensor (st.p 4 3) with
  | none => 0
  | some t =>
    let ts := sortNat ((s.loadBoxes c st).flatMap t.desc.boxTiles)
    let devs := match s.mesh with
      | none => [0]
      | some m => m.entries.map MeshEntry.device
    devs.foldl (fun a v => max a ((ts.filter (holdsTile s.mesh v t.desc)).length * t.desc.slotBytes)) 0

/-- A LOAD and the STORE that its one output stream feeds form a copy pair (11.7). -/
def Course.copyPair (c : Course) (a b : Station) : Bool :=
  a.typ == stLoad && decide (a.p 0 1 = 0) && b.typ == stStore && decide (b.p 0 1 = 0) &&
    (match c.outStreams a.id 0 with
      | [x] => decide (x.cons = b.id)
      | _ => false)

/-- The read of `a` and the write of `b` touch overlapping elements of one alias set. -/
def State.readWriteMeet (s : State) (c : Course) (a b : Station) : Bool :=
  (c.stationReads a).any (fun x => (c.stationWrites b).any (fun y =>
    x != y && s.baseOf x == s.baseOf y &&
      (s.readBoxes c a x).any (fun r => !(Box.meet r (s.writeBox b y)).empty)))

/-- The pair of `a` reading and `b` writing is refused by R306: an overlap that is no copy pair, or a
permuting copy of more than 4 MiB. -/
def State.overlapBad (s : State) (c : Course) (a b : Station) : Bool :=
  s.readWriteMeet c a b &&
    (!c.copyPair a b ||
      (match s.tensor (a.p 4 3) with
        | some t => !a.permIsId t.desc.rank && decide (4 * 2 ^ 20 < s.mostRead c a)
        | none => false))

/-- R306: the first station, in ascending id, of an overlap that is refused. -/
def State.overlap (s : State) (c : Course) : Option Nat :=
  (c.stations.find? (fun a =>
    c.stations.any (fun b => s.overlapBad c a b || s.overlapBad c b a))).map (·.id)

/-- A core. -/
def State.core (s : State) (n : Nat) : Core := FMap.get (fun _ => {}) s.cores n

/-- Write a core. -/
def State.setCore (s : State) (n : Nat) (k : Core) : State :=
  { s with cores := FMap.set (fun _ => {}) s.cores n k }

/-- A matrix engine of a core. -/
def Core.me (k : Core) (i : Nat) : Me := FMap.get (fun _ => {}) k.mes i

/-- Engines of a kind that a core has in service (R84, R162). -/
def State.enginesIn (s : State) (n : Nat) (e : Engine) : Nat :=
  match e with
  | .me => ((List.range mePerCore).filter (fun i => !((s.core n).me i).oos)).length
  | e => engineCount s.part e

/-- How many pinned stations of a course count one engine of a kind on a core. Those of other courses do not count (log entry
101). -/
def Course.pinned (c : Course) (core : Nat) (e : Engine) : Nat :=
  (c.stations.filter (fun st => decide (st.pin = some core) && (enginesOf st.typ).contains e)).length

/-- The polders of the tensors that a station reads or writes, by stream or in their homes. -/
def State.stationPolders (s : State) (c : Course) (st : Station) : List Nat :=
  let ids := (c.streams.filter (fun x => x.prod = st.id || x.cons = st.id)).map (·.tensor)
    ++ c.stationReads st ++ c.stationWrites st
  sortNat ((ids.map (fun id => match s.tensor id with
    | some t => t.desc.polder
    | none => 0)).filter (fun p => p ≠ 0))

/-- The stations pinned to a core need more engines of one kind than it has (reason 0x5 of Table 2.13). -/
def State.pinsExceed (s : State) (c : Course) (core : Nat) : Bool :=
  [Engine.me, .ve, .ue, .mu, .dma].any (fun e => decide (s.enginesIn core e < c.pinned core e))

/-- The lowest reason of Table 2.13 that refuses a station's pin. -/
def State.pinDenied (s : State) (c : Course) (st : Station) : Option Nat :=
  match st.pin with
  | none => none
  | some n =>
    let k := s.core n
    if s.part.cores ≤ n ∨ k.retired then some 0x1
    else if st.typ = stExchange ∨ st.typ = stFence then some 0x2
    else if (s.stationPolders c st).any (fun p => decide (k.allot ≠ 0 ∧ k.allot ≠ p)) then some 0x3
    else if k.thermal = .hold then some 0x4
    else if s.pinsExceed c n then some 0x5
    else none

/-- R84: the first station whose pin fails, and the reason. -/
def State.pinsBad (s : State) (c : Course) : Option (Nat × Nat) :=
  c.stations.findSome? (fun st => (s.pinDenied c st).map (fun r => (st.id, r)))

/-- Why a course is refused: status, DETAIL and ID (R80, R130, R306, R84). -/
def State.refusal (s : State) (func : Nat) (c : CourseIn) : Option (Nat × Nat × Nat) :=
  (s.courseCheck func c).map (fun r => (0x0002, r.1, r.2))
    <|> (s.klenBad c.course).map (fun i => (0x0008, 0, i))
    <|> (s.overlap c.course).map (fun i => (0x0009, 0, i))
    <|> (s.pinsBad c.course).map (fun r => (0x0006, r.2, r.1))

/-! ## Holding and starting -/

/-- Stream contexts that courses hold. -/
def State.contextsUsed (s : State) : Nat :=
  ((s.courses.filter (·.ctx)).map (fun c => c.streams.length)).foldl (· + ·) 0

/-- Courses fetched before a course. -/
def State.earlier (s : State) (c : Course) : List Course :=
  s.courses.filter (fun e => decide (e.desc.seq < c.desc.seq))

/-- A stream whose spilled tiles have no home to go to: that of a TRANSIENT tensor without stacks, and a HIST's (R34, R222,
R315). -/
def State.homeless (s : State) (c : Course) (x : Stream) : Bool :=
  !x.completion && ((c.station x.prod).any (fun p => p.typ == stHist) || (match s.tensor x.tensor with
    | some t => t.desc.genPolicy == 0 && t.stackIds.isEmpty && t.view.isNone
    | none => false))

/-- The streams of a course with the space that the placer reserves for those without a home; none where the stacks have no
room for one (R34, R315; log entry 55). -/
def State.grantSpaces (s : State) (c : Course) : List Stream → Option (List Stream)
  | [] => some []
  | x :: xs =>
    let y := if s.homeless c x then s.withSpace c x else x
    if s.homeless c x && y.space.isNone then none
    else
      let taken : Course := { c with streams := [y] }
      (({ s with courses := taken :: s.courses } : State).grantSpaces c xs).map (fun ys => y :: ys)

/-- A course takes its stream contexts and the space for its streams, if enough are free and no earlier-fetched course waits for
them; its contexts are then OPEN (R60, R62, R315). -/
def State.grantCtx (s : State) (c : Course) : Course :=
  if c.ctx then c
  else if (s.earlier c).all (·.ctx) && decide (s.contextsUsed + c.streams.length ≤ s.part.courseContexts) then
    match s.grantSpaces c c.streams with
    | some xs => { c with ctx := true, streams := xs.map (fun x => { x with state := .opened }) }
    | none => c
  else c

/-- The base of every tensor of a list, so that an alias set counts as one tensor (R301). -/
def State.bases (s : State) (ids : List Nat) : List Nat := sortNat (ids.map s.baseOf)

/-- Two lists have a common member. -/
def meets (a b : List Nat) : Bool := a.any b.contains

/-- A course must wait for another: it names a tensor the other writes, or writes one that it reads
(R81). -/
def State.conflicts (s : State) (c e : Course) : Bool :=
  meets (s.bases c.names) (s.bases e.writes) || meets (s.bases c.writes) (s.bases e.reads)

/-- A function's step machine. -/
def State.stepM (s : State) (f : Nat) : StepM := FMap.get (fun _ => {}) s.steps f

/-- Write a function's step machine. -/
def State.setStepM (s : State) (f : Nat) (m : StepM) : State :=
  { s with steps := FMap.set (fun _ => {}) s.steps f m }

/-- A STEP_COMMIT or STEP_ABORT of the course's step, fetched before it, has not completed (R444). -/
def State.stepClosing (s : State) (c : Course) : Bool :=
  s.host.inflight.any (fun d => decide (d.func = c.desc.func ∧ d.seq < c.desc.seq ∧ d.field 16 8 = c.step)
    && (d.ty == 0x04 || d.ty == 0x05))

/-- The step machine lets a course start (R444, Table 17.2). -/
def State.stepAdmits (s : State) (c : Course) : Bool :=
  if !c.stepMode then true
  else
    let m := s.stepM c.desc.func
    match m.state with
    | .idle => true
    | .committing => false
    | _ => decide (m.step = c.step) && !s.stepClosing c

/-- A DMA channel is halted. -/
def State.dmaHalted (s : State) (core ch : Nat) : Bool := getBit (s.reg ⟨.dmaStat, core, ch⟩) 31

/-- A core has a channel in service, without which nothing moves between its CM, its operand buffers, DM and the stacks (R289,
R312). -/
def State.coreDmaUp (s : State) (core : Nat) : Bool := !(List.range 16).all (s.dmaHalted core)

/-- Every core channel of the cores in service is halted. -/
def State.coreChannelsHalted (s : State) : Bool :=
  (List.range s.part.cores).all (fun n => (s.core n).retired || (List.range 16).all (s.dmaHalted n))

/-- A course moves data between host memory and the device: a LOAD from the host, or a STORE in mode HOST or
COMPARE. -/
def Course.usesHost (c : Course) : Bool :=
  c.stations.any (fun st => (st.typ == stLoad && st.p 0 1 == 1) || (st.typ == stStore && st.p 0 1 != 0))

/-- A channel class that the course needs has every channel halted: that of the core channels, which fill the operands of every
engine, or that of the system channels (R289, R312). -/
def State.channelsShort (s : State) (c : Course) : Bool :=
  (c.stations.any (fun st => !(enginesOf st.typ).isEmpty) && s.coreChannelsHalted)
    || (c.usesHost && s.sysChannelsHalted)

/-- An earlier-fetched course waits that goes before `c`: one of its ring or with a conflict, and, where `c` itself has been held,
any that neither its step nor a halted channel holds back: held courses run in fetch order (R81, R400). -/
def State.goesBefore (s : State) (c : Course) (fresh : Bool) (e : Course) : Bool :=
  !e.started && (decide (e.desc.ring = c.desc.ring) || s.conflicts c e
    || (!fresh && s.stepAdmits e && !s.channelsShort e))

/-- A course may start: it has its contexts, nothing holds it, and no course goes before it (R60, R81, R312, R400, R444).
`fresh` says that it has not been held. -/
def State.mayStart (s : State) (c : Course) (fresh : Bool) : Bool :=
  c.ctx && !c.started && s.issuing
    && !((s.earlier c).any (s.goesBefore c fresh))
    && !(s.courses.any (fun e => e.started && decide (e.id ≠ c.id) && s.conflicts c e))
    && s.stepAdmits c && !s.channelsShort c

/-- A step course opens its step or joins the open one (Table 17.2). -/
def State.joinStep (s : State) (c : Course) : State :=
  if !c.stepMode then s
  else
    let f := c.desc.func
    let m := s.stepM f
    match m.state with
    | .idle =>
      s.setStepM f { m with
        state := .opened, step := c.step, attempt := 0, seed := c.seed, vetoed := false, rerun := none
        mark := s.logTotal }
    | .complete | .vetoed => s.setStepM f { m with state := .opened }
    | _ => s

/-- The generation number a stream's tiles carry when its tensor is read, low 16 bits. -/
def State.genOf (s : State) (id : Nat) : Nat :=
  match s.tensor id with
  | some t => t.genNo % 2 ^ 16
  | none => 0

/-- A course starts: its streams open. A step course of a FAILED step completes at once with NOT_PERMITTED
and runs nothing (Table 17.2). -/
def State.startCourse (s : State) (c : Course) : State :=
  if c.stepMode && (s.stepM c.desc.func).state == .failed then
    let s := { s with courses := s.courses.filter (fun e => e.id ≠ c.id) }
    s.complete c.desc { c.desc.record 0x0003 with course := c.id }
  else
    let m := s.stepM c.desc.func
    let att := if c.stepMode && m.state == .repeating then m.attempt else 0
    let c := { c with started := true, attempt := att
                      streams := c.streams.map (fun x =>
                        { x with state := .opened, epoch := c.epoch, gen := s.genOf x.tensor }) }
    (s.setCourse c).joinStep c

/-- The course belongs to a FAILED step: it completes at once and runs nothing (Table 17.2). -/
def State.failsAtOnce (s : State) (c : Course) : Bool :=
  c.stepMode && !c.started && (s.stepM c.desc.func).state == .failed && s.stepAdmits c

/-- Give contexts to a waiting course, and start it if it may. -/
def State.release (s : State) (id : Nat) (fresh : Bool := false) : State :=
  match s.course id with
  | none => s
  | some c =>
    let c := s.grantCtx c
    let s := s.setCourse c
    if s.mayStart c fresh || s.failsAtOnce c then s.startCourse c else s

/-! ## Berm warnings (R304) -/

/-- Defined members of a tensor's alias set, ascending. -/
def State.aliasSet (s : State) (id : Nat) : List Nat := let b := s.baseOf id; sortNat (b :: s.viewsOf b)

/-- The lowest base tile where the berm of `t` meets the region of `u`, both members of base `d`. -/
def bermMeets (d : TensorDesc) (t u : Tensor) : Option Nat :=
  (List.range d.tileCount).find? (fun k =>
    let tb := d.tileBox k
    let touched := !(Box.meet tb t.region).empty
    let inU := Box.meet tb u.region
    touched && !inU.empty && !inU.within t.region)

/-- The BERM_OVERLAP warnings at a submission, over every alias set: code, the member with the berm, the overlapped member and the
base tile. -/
def State.bermWarnings (s : State) : List (Nat × Nat × Nat × Nat) :=
  (s.bases (s.tensors.map (fun kv => kv.1))).flatMap (fun b =>
    let ms := s.aliasSet b
    ms.flatMap (fun x => ms.filterMap (fun y =>
      match s.tensor b, s.tensor x, s.tensor y with
      | some bt, some t, some u =>
        if x ≠ y ∧ y ≠ b ∧ t.desc.bermOwned then (bermMeets bt.desc t u).map (fun k => (0x0001, x, y, k))
        else none
      | _, _, _ => none)))

/-! ## Submission -/

/-- Insert a course in fetch order. -/
def insertCourse (c : Course) : List Course → List Course
  | [] => [c]
  | e :: es => if c.desc.seq < e.desc.seq then c :: e :: es else e :: insertCourse c es

/-- The first core that takes stations: in service and not in thermal hold, or else in service (R19, R82). -/
def State.firstCore (s : State) : Nat :=
  let up (n : Nat) : Bool := !(s.core n).retired
  (((List.range s.part.cores).find? (fun n => up n && (s.core n).thermal != .hold))
    <|> (List.range s.part.cores).find? up).getD 0

/-- The placer gives every station its first place: the pinned core, or the first that takes stations (R82, R83; log entry
105). -/
def State.placeStations (s : State) (c : Course) : Course :=
  { c with stations := c.stations.map (fun (st : Station) => { st with place := { st.place with core := st.pin.getD s.firstCore } }) }

/-- An accepted course: the interim record, its place in the step (R444), its contexts, and its start unless it is held
(R406, R60). The
first step course after a RESTORE discards the pending records (R471); group EXPERT applies (R413). -/
def State.acceptCourse (s : State) (d : Desc) (c : Course) : State :=
  let s := (s.applyGroup 0 6).markActed d
  let s := if c.stepMode then { s with resume := { s.resume with pending := [] } } else s
  let s := if d.forwarded then s else s.postRecord { d.record 0x0000 with interim := true, course := c.id }
  let c := { s.placeStations c with
    desc := { d with acted := true }, warnings := s.bermWarnings, ship := s.regF .expertCtl 0 7 0 }
  let s : State := { s with courses := insertCourse c s.courses }
  (if s.stepAdmits c then s.joinStep c else s).release c.id true

/-- COURSE_SUBMIT: checks, then acceptance or one record. -/
def State.submit (s : State) (d : Desc) : State :=
  let hdr := fitBytes 64 (d.block 0)
  if s.countsBad hdr then
    s.complete d { d.record 0x0002 0x10 with course := leAt hdr 0 4 }
  else
    let c := readCourse d
    match s.refusal d.func c with
    | some r => s.complete d { d.record r.1 r.2.1 r.2.2 with course := c.course.id }
    | none => s.acceptCourse d c.course

/-- COURSE_SUBMIT: the ring's next descriptor, if it is one. -/
def execCourseSubmit (o : SubmitOrder) (s : State) : Host.Outcome State Fault Refusal :=
  match s.dueDesc o.ring 0x01 with
  | none => .next s
  | some d =>
    let mine := d.order false (s.localRing d.func d.ring)
    let s := s.logOrders d.func mine o.against
    match beatenBy mine o.against with
    | some r => .next (s.completeStatus d 0x0004 r)
    | none => .next (s.submit d)

/-- COURSE_RELEASE_HELD: a held course starts once nothing holds it (R60, R81). -/
def execCourseReleaseHeld (course : Nat) (s : State) : Host.Outcome State Fault Refusal :=
  match s.course course with
  | none => .next s
  | some c => if c.started then .next s else .next (s.release c.id)

end Sys2Proof.Machine
end

