-- ==== Sys2Proof/Machine/Warden.lean ====
section
/-! DEFINITION. The dike warden (18.3): the source polders of a task (R478), what each policy permits (Tables 18.3
and 18.4), refusals with their counters, and the CLEAN bits of R486. -/

namespace Sys2Proof.Machine

/-- POLICY of a polder: 0 OPEN, 1 AGGREGATE, 2 NOISED. -/
def Polder.policy (p : Polder) : Nat := leAt p.body 1 1

/-- IDE_REQ of a polder. -/
def Polder.ideReq (p : Polder) : Bool := (leAt p.body 2 1).testBit 0

/-- K of a polder. -/
def Polder.minimum (p : Polder) : Nat := leAt p.body 4 4

/-- The policy of a polder by id; OPEN where none. -/
def State.policyOf (s : State) (p : Nat) : Nat :=
  match s.polder p with
  | some q => q.policy
  | none => 0

/-- The polder of a tensor, 0 for none. -/
def State.polderOf (s : State) (id : Nat) : Nat :=
  match s.tensor id with
  | some t => t.desc.polder
  | none => 0

/-- The non-zero polders of some tensors, ascending. -/
def State.poldersOf (s : State) (ids : List Nat) : List Nat := sortNat ((ids.map s.polderOf).filter (fun p => p ≠ 0))

/-- The tensors whose tiles a station's tasks consume (R478). -/
def Course.sourceTensors (c : Course) (st : Station) : List Nat :=
  sortNat ((c.streams.filter (fun x => x.cons = st.id)).map (fun x => x.tensor) ++ c.stationReads st)

/-- The tensors that a station's tasks write or emit (R478). -/
def Course.outputTensors (c : Course) (st : Station) : List Nat :=
  sortNat ((c.streams.filter (fun x => x.prod = st.id && !x.completion)).map (fun x => x.tensor) ++ c.stationWrites st)

/-- The polder of a station's tasks (R478). -/
def State.taskPolder (s : State) (c : Course) (st : Station) : Nat :=
  match s.poldersOf (c.sourceTensors st) with
  | p :: _ => p
  | [] => (s.poldersOf (c.outputTensors st)).headD 0

/-- A port carries traffic: enabled, not isolated, with a link up (R337, R366). -/
def State.portUp (s : State) (n : Nat) : Bool :=
  getBit (s.reg ⟨.portCtl, n, 0⟩) 0 && !getBit (s.reg ⟨.portStat, n, 0⟩) 31 && decide (s.regF .portStat n 7 0 ≠ 0)

/-- A port whose MACSEC_REQ is 1 is up (R484). -/
def State.securePortUp (s : State) : Bool :=
  (List.range s.part.ports).any (fun n => s.portUp n && getBit (s.reg ⟨.portCtl, n, 0⟩) 8)

/-- What leaves a polder (18.3): a host write, a crossing to a tensor of another polder, with the contributors
that an aggregate station counts and whether the output is a LONG_SUM partial, or a port send. -/
inductive Egress where
  | hostWrite
  | crossing (contributors : Option Nat) (part : Bool)
  | portSend

/-- The cause for which Table 18.3 refuses an egress of polder `p`. `clean` says that every input of the polder is
clean. -/
def State.egressCause (s : State) (p : Nat) (clean : Bool) (e : Egress) : Option Nat :=
  let pol := s.policyOf p
  match e with
  | .hostWrite =>
    if pol = 0 then none else if pol = 1 then some 0x01 else if clean then none else some 0x04
  | .crossing n part =>
    if pol = 0 then none
    else if part then some 0x08
    else if pol = 1 then
      match n with
      | none => some 0x02
      | some n => if n < ((s.polder p).map Polder.minimum).getD 0 then some 0x03 else none
    else if clean then none else some 0x04
  | .portSend => if pol = 0 || s.securePortUp then none else some 0x05

/-- The inputs of polder `p` are clean (R486). -/
def State.cleanInputs (s : State) (p : Nat) (ids : List Nat) : Bool :=
  ids.all (fun id => decide (s.polderOf id ≠ p) || (match s.tensor id with
    | some t => t.clean
    | none => false))

/-- The first refusal of the egresses of a task that draws on some tensors: the polder and the cause. -/
def State.wardenCheck (s : State) (sources : List Nat) (es : List (Nat × Egress)) : Option (Nat × Nat) :=
  let ps := s.poldersOf sources
  match ps.filter (fun p => s.policyOf p ≠ 0) with
  | p :: _ :: _ => some (p, 0x07)
  | _ => es.findSome? (fun e => (s.egressCause e.1 (s.cleanInputs e.1 sources) e.2).map (fun c => (e.1, c)))

/-- The crossings of a station's task: its source polders to each tensor of another polder that it writes. -/
def State.crossings (s : State) (c : Course) (st : Station) (n : Option Nat) (part : Nat → Bool) :
    List (Nat × Egress) :=
  let outs := c.outputTensors st
  (s.poldersOf (c.sourceTensors st)).flatMap (fun p =>
    (outs.filter (fun id => s.polderOf id ≠ p)).map (fun id => (p, .crossing n (part id))))

/-- The host transfer lies wholly inside an established selective IDE stream (R489). -/
def State.insideIde (s : State) (addr len : Nat) : Bool :=
  s.secure.ide.any (fun x => x.2.up && x.2.ranges.any (fun r => decide (r.1 ≤ addr ∧ addr + len ≤ r.1 + r.2)))

/-- A host transfer of a polder with IDE_REQ needs a stream (R483). -/
def State.ideCause (s : State) (p addr len : Nat) : Option (Nat × Nat) :=
  match s.polder p with
  | some q => if q.ideReq && !s.insideIde addr len then some (p, 0x06) else none
  | none => none

/-- The counters of a refusal (Tables 18.9 and 18.10). -/
def State.countDenial (s : State) (p cause : Nat) : State :=
  let w : Reg := ⟨.wardenStat, 0, 0⟩
  let s := (s.countReg ⟨.polderStat, p, 0⟩ 15 0 1).countReg w 63 32 1
  s.setReg w (setF (setF (s.reg w) 28 24 p) 15 8 cause)

/-! ## CLEAN (R486) -/

/-- How a write bears on CLEAN: a noised UPDATE sets it, a PRUNE or REGROW by MAGNITUDE or RANDOM keeps it, every
other write clears it. -/
inductive WriteKind where
  | noised | keeps | other
  deriving DecidableEq, Repr

/-- A tensor's CLEAN state after a write. A plain course's write takes effect at once. -/
def Tensor.noteWrite (t : Tensor) (step : Bool) : WriteKind → Tensor
  | .keeps => t
  | .noised => if step then { t with noised := true } else { t with clean := false }
  | .other => if step then { t with dirtied := true } else { t with clean := false }

/-- A write of a tensor: it clears CLEAN of every other member of its alias set. -/
def State.noteWrite (s : State) (step : Bool) (id : Nat) (k : WriteKind) : State :=
  (s.aliasSet id).foldl (fun s m =>
    match s.tensor m with
    | none => s
    | some t => s.setTensor m (some (t.noteWrite step (if m = id then k else if k = .keeps then .keeps else .other)))) s

/-- The CLEAN bit of the generation that a step wrote (R486). -/
def Tensor.settleClean (t : Tensor) (commit : Bool) : Tensor :=
  { t with
    clean := if commit then (!t.dirtied && (t.noised || t.clean)) else t.clean
    noised := false
    dirtied := false }

end Sys2Proof.Machine
end

