-- ==== Sys2Proof/Machine/Home.lean ====
section
/-! DEFINITION. The generations in a tensor's home (12.6): which half holds a tile, reads of the current
generation, writes by plain and step courses, views (R299), the berm (R302), and the bytes of dense homes in the
stacks. -/

namespace Sys2Proof.Machine

/-- A tile or block as TENSOR_DEFINE leaves it: zero elements and scale bytes, or an EMPTY block (R172, Table
11.2). -/
def TensorDesc.blank (d : TensorDesc) (id t : Nat) : Tile :=
  if d.sparse then d.emptyBlock id t
  else { hdr := d.header id t 0 0, scales := List.replicate (scalesPerTile d.scaleBlk) 0 }

/-- DOUBLE. -/
def TensorDesc.double (d : TensorDesc) : Bool := d.genPolicy == 2

/-- One half of a home. -/
def Tensor.half (t : Tensor) (h : Bool) : FMap Tile := if h then t.half1 else t.half0

/-- The half that holds the current generation of a tile (R333, R334). -/
def Tensor.curHalf (t : Tensor) (k : Nat) : Bool :=
  if !t.desc.double then false else if t.desc.sparse then t.flag else FMap.get (fun _ => false) t.map k

/-- A tile of a half. -/
def Tensor.inHalf (t : Tensor) (id : Nat) (h : Bool) (k : Nat) : Tile := FMap.get (t.desc.blank id) (t.half h) k

/-- A tile of the current generation. -/
def Tensor.current (t : Tensor) (id k : Nat) : Tile := t.inHalf id (t.curHalf k) k

/-- The open step has written the tile. -/
def Tensor.isWritten (t : Tensor) (k : Nat) : Bool := FMap.get (fun _ => false) t.written k

/-- Writes of a course go to the other half: a step course on a DOUBLE tensor (R333 to R335). -/
def Tensor.toNext (t : Tensor) (step : Bool) : Bool := step && t.desc.double

/-- A tile of the generation being written, as it stands: what the step wrote, else the current tile (R213). -/
def Tensor.dest (t : Tensor) (step : Bool) (id k : Nat) : Tile :=
  if t.toNext step && t.isWritten k then t.inHalf id (!t.curHalf k) k else t.current id k

/-- The generation number of the tiles that a course writes. -/
def Tensor.writeGen (t : Tensor) (step : Bool) : Nat := (t.genNo + if t.toNext step then 1 else 0) % 2 ^ 16

/-- The place of a block of a half in the table of blocks that cannot be read. -/
def brokenKey (h : Bool) (k : Nat) : Nat := 2 * k + if h then 1 else 0

/-- Why a block of the current generation cannot be read as its bytes stand: the cause and the byte of the home that
fails (R189). -/
def Tensor.brokenAt (t : Tensor) (k : Nat) : Option (Nat × Nat) :=
  match FMap.get (fun _ => 0) t.broken (brokenKey (t.curHalf k) k) with
  | 0 => none
  | v => some (v % 256, v / 256)

/-- Put a tile into a half. -/
def Tensor.putHalf (t : Tensor) (id : Nat) (h : Bool) (k : Nat) (x : Tile) : Tensor :=
  let b := FMap.set (fun _ => 0) t.broken (brokenKey h k) 0
  if h then { t with half1 := FMap.set (t.desc.blank id) t.half1 k x, broken := b }
  else { t with half0 := FMap.set (t.desc.blank id) t.half0 k x, broken := b }

/-- Put a tile into the generation that a course writes. -/
def Tensor.put (t : Tensor) (step : Bool) (id k : Nat) (x : Tile) : Tensor :=
  if t.toNext step then
    { t.putHalf id (!t.curHalf k) k x with
      written := FMap.set (fun _ => false) t.written k true, building := t.desc.sparse || t.building }
  else t.putHalf id (t.curHalf k) k x

/-- A tile as its home keeps it: its header names the tensor and the tile, with no generation or epoch. -/
def TensorDesc.homed (d : TensorDesc) (id k : Nat) (x : Tile) : Tile :=
  let h := d.header id k 0 0
  { x with hdr := { h with format := if d.sparse then formatOf d.format x.form else d.format
                           poison := x.hdr.poison } }

/-! ## The berm of a tile (R302) -/

/-- Scale block `j` of a dense tile holds a valid position. -/
def TensorDesc.blockValid (d : TensorDesc) (k j : Nat) : Bool :=
  !(blockElems d.colOrder d.scaleBlk j (d.extRows k) (d.extCols k)).isEmpty

/-- The scales that a write of a dense tile leaves in its slot: scale blocks that hold only berm positions take 0x7F where
the write lays the berm, and otherwise keep what they held. -/
def TensorDesc.overBerm (d : TensorDesc) (berm : Bool) (k : Nat) (old x : Tile) : Tile :=
  if d.sparse ∨ d.scaleBlk = 0 then x
  else
    { x with scales := (List.range (scalesPerTile d.scaleBlk)).map (fun j =>
        if d.blockValid k j then x.scales.getD j 0x7F
        else if berm then 0x7F else old.scales.getD j 0) }

/-- The element codes that a write of a dense tile leaves in its slot: outside the valid extent zero patterns where the
write lays the berm, and otherwise what the slot held. -/
def TensorDesc.slotCodes (d : TensorDesc) (berm : Bool) (k : Nat) (old : List Nat) (x : Tile) : List Nat :=
  ((x.codes d.colOrder).zip (List.range 4096)).map (fun q =>
    let p := elemAt d.colOrder q.2
    if p.1 < d.extRows k ∧ p.2 < d.extCols k then q.1 else if berm then 0 else old.getD q.2 0)

/-! ## Bytes in the stacks -/

/-- Bytes of one half of a dense home, without the maps (Table 12.4). -/
def State.halfBytes (s : State) (d : TensorDesc) : Nat :=
  let n := (s.heldTiles d).length
  n * d.slotBytes + (if d.splitScales then roundUp (n * scalesPerTile d.scaleBlk) 64 else 0)

/-- The 64 bytes of the home's line at byte `a` as a read delivers them, in clear (R324); zeros where the polder's key slot is
empty. -/
def State.homeLine (s : State) (t : Tensor) (a : Nat) : List Byte :=
  let p := t.homeByte a
  let n := p.2 / 64
  match s.lineKey p.1 n with
  | some none => List.replicate 64 0
  | key => cipher false (key.getD none) p.1 n (s.readBytes p.1 n (s.readStep p.1 n)).1

/-- A read of the line would be delivered poisoned (R324, R330). -/
def State.lineBad (s : State) (stack line : Nat) : Bool :=
  match s.lineKey stack line with
  | some none => true
  | _ => (s.readBytes stack line (s.readStep stack line)).2

/-- The key slot of a polder's tensor is empty in a stack of its home: no line of the home is written there, and a read of one is
poisoned (R330). -/
def State.keyAbsent (s : State) (t : Tensor) : Bool :=
  decide (t.desc.polder ≠ 0)
    && t.stackIds.any (fun n => (FMap.get (fun _ => []) (s.stack n).keys t.desc.polder).isEmpty)

/-- `n` bytes of a home from byte `b`, in clear. -/
def State.homeRange (s : State) (t : Tensor) (b n : Nat) : List Byte :=
  let first := b / 64
  (((List.range (ceilDiv (b + n) 64 - first)).flatMap (fun i => s.homeLine t (64 * (first + i)))).drop (b - 64 * first)).take n

/-- Overlay bytes of a home on its lines, of which `only` may name some; a line written only in part keeps its other bytes, and a
mark on it goes, as with every write of fresh data (log entry 114). -/
def State.overlay (s : State) (t : Tensor) (b : Nat) (poisoned : Bool) (bytes : List Byte)
    (only : Option (List Nat) := none) : State :=
  let first := b / 64
  let last := ceilDiv (b + bytes.length) 64
  ((List.range (last - first)).filter (fun i => only.all (fun ls => ls.contains (first + i)))).foldl (fun s i =>
    let a := 64 * (first + i)
    let p := t.homeByte a
    let old := s.homeLine t a
    s.writeLine p.1 (p.2 / 64) poisoned ((List.range 64).map (fun j =>
      if b ≤ a + j ∧ a + j < b + bytes.length then bytes.getD (a + j - b) 0 else old.getD j 0))) s

/-- Where a dense tile's elements and its scales begin in its home, in half `h` (R286). -/
def State.slotPlace (s : State) (d : TensorDesc) (h : Bool) (k : Nat) : Nat × Nat :=
  let start := if h then s.halfBytes d else 0
  let slot := s.slot d k
  let e := start + slot * d.slotBytes
  (e, if d.splitScales then start + (s.heldTiles d).length * d.slotBytes + slot * scalesPerTile d.scaleBlk
      else e + tileBytes d.format)

/-- The element codes that the slot of a dense tile holds; none of them where the tile fills its slot. -/
def State.slotHeld (s : State) (t : Tensor) (h : Bool) (k : Nat) : List Nat :=
  let d := t.desc
  if t.stackIds.isEmpty || decide (d.extRows k = 64 ∧ d.extCols k = 64) then []
  else unpackCodes (codeBits d.format) 4096 (s.homeRange t (s.slotPlace d h k).1 (tileBytes d.format))

/-- The home byte at which byte `i` of a tile's image lies, in half `h` of a dense home. -/
def State.imageByte (s : State) (d : TensorDesc) (h : Bool) (k i : Nat) : Nat :=
  let p := s.slotPlace d h k
  if tileBytes d.format ≤ i then p.2 + (i - tileBytes d.format) else p.1 + i

/-- Bytes of a tile's image that its home holds. -/
def TensorDesc.homeImage (d : TensorDesc) : Nat :=
  if d.splitScales then tileBytes d.format + scalesPerTile d.scaleBlk else d.slotBytes

/-- The lines that hold a dense tile's bytes, as home bytes. -/
def State.slotLines (s : State) (d : TensorDesc) (h : Bool) (k : Nat) : List Nat :=
  (List.range (ceilDiv d.homeImage 64)).map (fun i => s.imageByte d h k (64 * i))

/-- A line of a dense tile's home would be delivered poisoned. -/
def State.slotBad (s : State) (t : Tensor) (h : Bool) (k : Nat) : Bool :=
  !t.stackIds.isEmpty && (s.slotLines t.desc h k).any (fun a => s.lineBad (t.homeByte a).1 ((t.homeByte a).2 / 64))

/-- The bytes of a tile's image that hold an element and its scale. -/
def TensorDesc.posBytes (d : TensorDesc) (r c : Nat) : List Nat :=
  let w := codeBits d.format
  let i := orderOf d.colOrder r c
  [i * w / 8, (i * w + w - 1) / 8] ++
    (if d.scaleBlk = 0 then [] else [tileBytes d.format + elemBlock d.colOrder d.scaleBlk r c])

/-- Write a dense tile's slot and scale bytes into the lines of its home, in half `h`, or into those lines that `only` names; `berm`
lays the berm, and `mark` puts the poison mark on the lines of the slot (R325). -/
def State.writeSlot (s : State) (t : Tensor) (h : Bool) (k : Nat) (x : Tile) (berm : Bool := false) (mark : Bool := false)
    (only : Option (List Nat) := none) : State :=
  if t.stackIds.isEmpty || t.desc.sparse || !s.holds t.desc k then s
  else
    let d := t.desc
    let p := s.slotPlace d h k
    let s := s.overlay t p.1 mark
      (packCodes (codeBits d.format) (d.slotCodes berm k (s.slotHeld t h k) x)) only
    if d.scaleBlk = 0 then s
    else if d.splitScales then s.overlay t p.2 false (x.scaleBytes d.scaleBlk) only
    else s.overlay t p.2 mark (padTo 64 (x.scaleBytes d.scaleBlk)) only

/-! ## Sparse homes (R168, R170) -/

/-- Bytes of the block index and the pool of one generation. -/
def State.sparseHalf (s : State) (d : TensorDesc) : Nat := roundUp (8 * (s.heldTiles d).length) 64 + d.pool * 65536

/-- Where the index entry of a block and the pool begin in a sparse home, in half `h` (R168). -/
def State.blockPlace (s : State) (d : TensorDesc) (h : Bool) (k : Nat) : Nat × Nat :=
  let ks := s.heldTiles d
  let start := if h then s.sparseHalf d else 0
  (start + 8 * ks.idxOf k, start + roundUp (8 * ks.length) 64)

/-- The listed lines of a home between two of its bytes become zeros. -/
def State.zeroRange (s : State) (t : Tensor) (a b : Nat) : State :=
  t.stackIds.foldl (fun s n =>
    (((s.stack n).lines.map (fun kv => kv.1)).filter (fun l =>
      t.hasLine n l && decide (a ≤ t.byteOfLine n l ∧ t.byteOfLine n l < b))).foldl
      (fun s l => s.writeLine n l false (List.replicate 64 0)) s) s

/-- The data of blocks goes into the pool from an offset in 64-byte units, as far as the pool reaches; a poisoned block's
lines carry the mark, but those of block `fresh`, whose writer puts none (R325). -/
def State.writeData (s : State) (t : Tensor) (pool : Nat) (fresh : Option Nat) : Nat → List Tile → State
  | _, [] => s
  | off, x :: xs =>
    let data := t.desc.blockData x
    let s := if data.isEmpty then s
      else s.overlay t (pool + 64 * off) (x.hdr.poison && fresh != some x.hdr.index) (data.take (t.desc.pool * 65536 - 64 * off))
    s.writeData t pool fresh (off + data.length / 64) xs

/-- A generation goes into the lines of a sparse home in canonical form (R170): the index, the data, and zeros beyond. -/
def State.writeBlocks (s : State) (id : Nat) (t : Tensor) (h : Bool) (fresh : Option Nat := none) : State :=
  if t.stackIds.isEmpty then s
  else
    let d := t.desc
    let xs := (s.heldTiles d).map (t.inHalf id h)
    let start := if h then s.sparseHalf d else 0
    let index := padTo 64 (d.placeBlocks 0 xs).1
    let s := (s.overlay t start false index).writeData t (start + index.length) fresh 0 xs
    s.zeroRange t (start + index.length + d.poolBytes xs) (start + s.sparseHalf d)

/-- The half that a course writes of a tile: of a generation that a step builds the other one. -/
def Tensor.halfFor (t : Tensor) (step : Bool) (k : Nat) : Bool := if t.toNext step then !t.curHalf k else t.curHalf k

/-- Put a tile into the generation that a course writes of a tensor that is no view, and into its home's lines, with the mark of
a poisoned tile where the writer puts it (R325); the half that a step builds of a sparse tensor reaches the lines with its
compaction copy (R334). Without the polder's key the write is not made (R330). -/
def State.putTile (s : State) (step : Bool) (id k : Nat) (x : Tile) (berm : Bool := false) (marks : Bool := false) : State :=
  match s.tensor id with
  | none => s
  | some t =>
    let h := t.halfFor step k
    let x := t.desc.homed id k (t.desc.overBerm berm k (t.inHalf id h k) x)
    let u := t.put step id k x
    let s := if s.keyAbsent t then s else s.setTensor id (some u)
    if t.desc.sparse then (if t.toNext step then s else s.writeBlocks id u h (if marks then none else some k))
    else s.writeSlot t h k x berm (marks && x.hdr.poison)

/-! ## Views (R299) -/

/-- The base's tile and the row and column in it of an element of a view's tile. -/
def viewPlace (d base : TensorDesc) (off : List Nat) (k r c : Nat) : Nat × Nat × Nat :=
  let p := d.tilePos k
  let n := d.dims.length
  let lead := leadIndices d.leading p.lead
  let lead' := (lead.zip (List.range lead.length)).map (fun q => q.1 + off.getD q.2 0)
  let l := (lead'.zip base.leading).foldl (fun a q => a * q.2 + q.1) 0
  base.place (l, 64 * p.i + r + off.getD (n - 2) 0, 64 * p.j + c + off.getD (n - 1) 0)

/-- A tile of a view, read element by element from its base. -/
def viewTile (id k : Nat) (v base : Tensor) (bid : Nat) : Tile :=
  let d := v.desc
  let e := base.desc
  let at' (r c : Nat) := viewPlace d e v.offsets k r c
  let ps := extentPos (d.extRows k) (d.extCols k)
  { hdr := { d.header id k 0 0 with
      poison := (sortNat (ps.map (fun p => (at' p.1 p.2).1))).any (fun b => (base.current bid b).hdr.poison) }
    elems := codesAt (ps.map (fun p =>
      let q := at' p.1 p.2
      (p, (base.current bid q.1).at q.2.1 q.2.2)))
    scales := (List.range (scalesPerTile d.scaleBlk)).map (fun j =>
      match blockElems d.colOrder d.scaleBlk j (d.extRows k) (d.extCols k) with
      | [] => 0x7F
      | p :: _ =>
        let q := at' p.1 p.2
        (base.current bid q.1).scales.getD (elemBlock e.colOrder e.scaleBlk q.2.1 q.2.2) 0x7F) }

/-- The elements of a view's tile that lie in a tile of its base, each with its place there. -/
def viewHits (k : Nat) (v base : Tensor) (b : Nat) : List ((Nat × Nat) × (Nat × Nat × Nat)) :=
  ((extentPos (v.desc.extRows k) (v.desc.extCols k)).map (fun p =>
    (p, viewPlace v.desc base.desc v.offsets k p.1 p.2))).filter (fun q => q.2.1 = b)

/-- A base tile after a view's tile is written over it: the view's elements and scales, and first, where the
write lays the berm, zeros and 0x7F outside the view's region (R302, R303). -/
def overBase (berm : Bool) (id k : Nat) (v base : Tensor) (bid b : Nat) (x : Tile) : Tile :=
  let _ := id
  let d := v.desc
  let e := base.desc
  let old := base.current bid b
  let hits := viewHits k v base b
  let inView (r c : Nat) : Bool :=
    let bb := e.tileBox b
    let box := bb.take (bb.length - 2) ++
      [(64 * (e.tilePos b).i + r, 64 * (e.tilePos b).i + r + 1),
       (64 * (e.tilePos b).j + c, 64 * (e.tilePos b).j + c + 1)]
    !(Box.meet box v.region).empty
  let cleared := if berm then old.elems.filter (fun q => inView (q.1 / 64) (q.1 % 64)) else old.elems
  let scales0 := if berm then
      (List.range old.scales.length).map (fun j =>
        if (blockElems e.colOrder e.scaleBlk j (e.extRows b) (e.extCols b)).any (fun p => inView p.1 p.2)
        then old.scales.getD j 0x7F else 0x7F)
    else old.scales
  { old with
    hdr := { old.hdr with poison := x.hdr.poison }
    elems := FMap.setMany (fun _ => 0) cleared (hits.map (fun q => (64 * q.2.2.1 + q.2.2.2, x.at q.1.1 q.1.2)))
    scales := if e.scaleBlk = 0 then []
      else hits.foldl (fun sc q =>
        sc.set (elemBlock e.colOrder e.scaleBlk q.2.2.1 q.2.2.2)
          (x.scales.getD (elemBlock d.colOrder d.scaleBlk q.1.1 q.1.2) 0x7F)) scales0 }

/-- The base tiles that a view's tile touches. -/
def viewTouches (k : Nat) (v base : Tensor) : List Nat :=
  sortNat ((extentPos (v.desc.extRows k) (v.desc.extCols k)).map (fun p =>
    (viewPlace v.desc base.desc v.offsets k p.1 p.2).1))

/-- A dense tile in a half of a tensor, poisoned as its lines stand or as the writer's tile is; not made without the key (R330). -/
def State.installTile (s : State) (id : Nat) (h : Bool) (k : Nat) (x : Tile) : State :=
  match s.tensor id with
  | none => s
  | some t =>
    if s.keyAbsent t then s
    else s.setTensor id (some (t.putHalf id h k { x with hdr := { x.hdr with poison := x.hdr.poison || s.slotBad t h k } }))

/-- Write a tile of a view into its base, in place: only the lines that hold one of its elements or scales, and all of a touched
tile where the berm is laid. -/
def State.putView (s : State) (id k : Nat) (v : Tensor) (bid : Nat) (base : Tensor) (x : Tile) (berm : Bool := false)
    (marks : Bool := false) : State :=
  (viewTouches k v base).foldl (fun s b =>
    match s.tensor bid with
    | none => s
    | some t =>
      let y := overBase berm id k v t bid b x
      let lines := sortNat ((viewHits k v t b).flatMap (fun q =>
        (t.desc.posBytes q.2.2.1 q.2.2.2).map (fun i => s.imageByte t.desc false b i / 64)))
      (s.writeSlot t false b y berm (marks && x.hdr.poison) (if berm then none else some lines)).installTile bid false b y) s

/-! ## Reads and writes by tensor id -/

/-- A tile of the generation that a course reads, as it leaves its home: with the tensor's generation number in
its header, and poisoned where the polder's key is absent (R330). -/
def State.readTile (s : State) (id k epoch : Nat) : Tile :=
  match s.tensor id with
  | none => {}
  | some t =>
    let q := match t.view with
      | none => (t.current id k, s.keyAbsent t)
      | some v =>
        match s.tensor v.base with
        | some b => (viewTile id k t b v.base, s.keyAbsent b)
        | none => (t.current id k, false)
    { q.1 with hdr := { q.1.hdr with gen := t.genNo % 2 ^ 16, epoch := epoch, poison := q.1.hdr.poison || q.2 } }

/-- Keep the blocks of a generation as they stand before a course first writes it in place (R234). -/
def State.keepBefore (s : State) (c : Course) (id : Nat) : State :=
  match s.tensor id with
  | none => s
  | some t =>
    if t.toNext c.stepMode || !t.desc.sparse || t.before.map (·.1) == some c.id then s
    else s.setTensor id (some { t with before := some (c.id, t.half (t.curHalf 0)) })

/-- A block of a sparse generation that is written in place is noted (R171). -/
def State.noteInPlace (s : State) (c : Course) (id k : Nat) : State :=
  match s.tensor id with
  | none => s
  | some t =>
    if t.toNext c.stepMode || !t.desc.sparse then s
    else s.setTensor id (some { t with inPlace := FMap.set (fun _ => false) t.inPlace k true })

/-- Write a tile in the generation that a course writes: through a view into its base, else into the home. `berm` lays the
berm, as a STORE into a BERM_OWNED tensor does (R302), and `marks` puts a poisoned tile's mark on its lines, as a STORE alone
of the stations does (R325; log entry 115). -/
def State.storeTile (s : State) (c : Course) (id k : Nat) (x : Tile) (w : WriteKind := .other) (berm : Bool := false)
    (marks : Bool := false) : State :=
  match s.tensor id with
  | none => s
  | some t =>
    let s := s.noteWrite c.stepMode id w
    match t.view with
    | none => ((s.keepBefore c id).putTile c.stepMode id k x berm marks).noteInPlace c id k
    | some v =>
      match s.tensor v.base with
      | some b => s.putView id k t v.base b x berm marks
      | none => s

/-- A block of M_r: the generation that the course reads, before the course where it writes in place (R213,
R234). -/
def Tensor.readMask (t : Tensor) (c : Course) (id k : Nat) : Tile :=
  match t.before with
  | some (cid, m) => if cid = c.id then FMap.get (t.desc.blank id) m k else t.current id k
  | none => t.current id k

/-- The outer scale S with which a reader decodes a tensor, and the element order of its tiles. -/
def State.tileCtx (s : State) (id : Nat) : TileCtx :=
  match s.tensor id with
  | some t => { col := t.desc.colOrder, outer := t.scale.s }
  | none => {}

end Sys2Proof.Machine
end

