-- ==== Sys2Proof/Machine/CoreOps.lean ====
section
/-! DEFINITION. The parts of a core that tile tasks move: its tile queues (1.8) with the segments of a tile (R35), and the
accumulator banks of its matrix engines (5.3). -/

namespace Sys2Proof.Machine

/-! ## Tile queues -/

/-- Tile queues of a core (Table 1.1). -/
def queuesPerCore : Nat := 48

/-- A tile queue. -/
def State.queue (s : State) (core q : Nat) : TileQueue := FMap.get (fun _ => {}) (s.core core).queues q

/-- Write a tile queue. -/
def State.setQueue (s : State) (core q : Nat) (x : TileQueue) : State :=
  let k := s.core core
  s.setCore core { k with queues := FMap.set (fun _ => {}) k.queues q x }

/-- The queue exists, on a core in service. -/
def State.queueOk (s : State) (core q : Nat) : Bool :=
  decide (core < s.part.cores ∧ q < queuesPerCore) && !s.coreRetired core && s.hostUp

/-- A bank of a queue. -/
def TileQueue.bank (x : TileQueue) (b : Bool) : TqBank := if b then x.bank1 else x.bank0

/-- Write a bank of a queue. -/
def TileQueue.setBank (x : TileQueue) (b : Bool) (k : TqBank) : TileQueue :=
  if b then { x with bank1 := k } else { x with bank0 := k }

/-- FORMAT and SCALE_BLK of a header's two words (Table 2.7). -/
def headerFormat (h : List Nat) : Nat × Nat := let w := h.getD 1 0; (w / 2 ^ 12 % 32, w / 2 ^ 17 % 8)

/-- Payload words of a segment (Table 1.4); none for a format that the table does not list. -/
def segmentWords (h : List Nat) : Option Nat :=
  let (f, b) := headerFormat h
  let plain (n : Nat) : Option Nat := if b = 0 then some n else none
  let scaled (n : Nat) : Option Nat := if 1 ≤ b ∧ b ≤ 4 then some (n + 512 / blockLen b) else none
  match f with
  | 0 | 9 => plain 1024
  | 1 | 2 => plain 1024
  | 3 | 4 => if b = 0 then some 512 else scaled 512
  | 5 | 6 => scaled 384
  | 7 => scaled 256
  | 8 => plain 512
  | _ => none

/-- The tile travels as two segments: FP32 and UINT32. -/
def twoSegments (h : List Nat) : Bool :=
  let (f, b) := headerFormat h
  (f == 0 || f == 9) && b == 0

/-- The producer's words go into the bank it fills; the last one makes the bank full, or empty where the segment is
discarded, and the other bank is next. -/
def TileQueue.fillWords (x : TileQueue) (ws : List Nat) : TileQueue :=
  let k := x.bank x.fill
  if k.state ≠ .filling then x
  else
    let words := (k.words ++ ws.map (fun w => w % 2 ^ 64)).take k.length
    if words.length < k.length then x.setBank x.fill { k with words := words }
    else
      let done : TqBank := if k.dropped then {} else { k with state := .full, words := words }
      let y := x.setBank x.fill done
      { y with fill := !x.fill, take := if k.dropped then !x.take else x.take }

/-- A header goes into the next bank of the producer's order, if that is empty (R36, R38). -/
def TileQueue.start (x : TileQueue) (h : List Nat) : TileQueue :=
  let two := twoSegments h
  let k : TqBank :=
    { state := .filling, header := h, length := (segmentWords h).getD 1024, second := x.secondDue
      poison := (segmentWords h).isNone, dropped := x.dropSecond && x.secondDue }
  { x.setBank x.fill k with
    secondDue := two && !x.secondDue
    dropSecond := x.dropSecond && !x.secondDue }

/-- The bank under read becomes empty, and the other one is next. -/
def TileQueue.release (x : TileQueue) : TileQueue := { x.setBank x.take {} with take := !x.take }

/-- The second segment of the tile that the consumer has begun is discarded: at once if it is full, as it arrives if it
is being written or still to come (R42). -/
def TileQueue.discardSecond (x : TileQueue) : TileQueue :=
  let x := { x with midTile := false }
  let k := x.bank x.take
  match k.state with
  | .full => x.release
  | .filling => x.setBank x.take { k with dropped := true }
  | _ => { x with dropSecond := true }

/-- The segment under read ends: the tile's second segment is next after the first of two. -/
def TileQueue.endSegment (x : TileQueue) : TileQueue :=
  let k := x.bank x.take
  { x.release with midTile := twoSegments k.header && !k.second }

/-- DROP_REMAINDER (R42). `same` says that the command falls into the cycle in which the last word of a segment is
read. -/
def TileQueue.drop (x : TileQueue) (same : Bool) : TileQueue :=
  if (x.bank x.take).state = .reading then
    let y := x.endSegment
    if y.midTile then y.discardSecond else y
  else if same && x.midTile then x.discardSecond
  else x

/-! ## Segments (R35) -/

/-- 64-bit words of a byte list, the first lowest; the fuel is the number of words. -/
def wordsOf : Nat → List Byte → List Nat
  | 0, _ => []
  | n + 1, bs => leNat (bs.take 8) :: wordsOf n (bs.drop 8)

/-- The payload words of a dense tile (Table 1.4): its elements in element order, zero patterns outside the valid extent,
then its scales. -/
def Tile.queueWords (x : Tile) (col : Bool) : List Nat :=
  let cs := (List.range 4096).map (fun e =>
    let p := elemAt col e
    if p.1 < x.rows ∧ p.2 < x.cols then x.at p.1 p.2 else 0)
  let bs := packCodes (codeBits x.hdr.format) cs ++ x.scaleBytes x.hdr.scaleBlk
  wordsOf (ceilDiv bs.length 8) bs

/-- A segment of a tile: its header words, its payload words, and the payload words that carry the poison tag (R161). -/
structure Segment where
  header : List Nat
  words : List Nat
  tags : List Nat := []

/-- The payload words of a tile that hold its tagged elements. -/
def Tile.tagWords (x : Tile) (col : Bool) : List Nat :=
  x.tags.map (fun p => orderOf col (p / 64) (p % 64) * codeBits x.hdr.format / 64)

/-- The segments of a tile. A 32-bit format travels as two segments of 32 rows, or of 32 columns in a column-contiguous tile
(R35, R152), each with the same header; a tagged element tags its word (R161). -/
def Tile.segments (x : Tile) (col : Bool) : List Segment :=
  let v := x.hdr.toNat
  let h := [v % 2 ^ 64, v / 2 ^ 64]
  let ws := x.queueWords col
  let ts := x.tagWords col
  if twoSegments h then
    [{ header := h, words := ws.take 1024, tags := ts.filter (fun i => i < 1024) },
     { header := h, words := ws.drop 1024, tags := (ts.filter (fun i => 1024 ≤ i)).map (fun i => i - 1024) }]
  else [{ header := h, words := ws, tags := ts }]

/-- The producer has room for a whole tile: each bank that its segments fill next is empty (R38). -/
def TileQueue.roomFor (q : TileQueue) (n : Nat) : Bool :=
  (q.bank q.fill).state == .empty && (decide (n ≤ 1) || (q.bank (!q.fill)).state == .empty)

/-- The segments of a tile go into a queue. -/
def TileQueue.push (q : TileQueue) (ss : List Segment) : TileQueue :=
  ss.foldl (fun (k : TileQueue) g =>
    let y := k.start g.header
    (y.setBank y.fill { y.bank y.fill with tags := g.tags }).fillWords g.words) q

/-- TILE_INDEX of the segment that the consumer reads next (Table 2.7); none where its bank holds no header. -/
def TileQueue.frontIndex (q : TileQueue) : Option Nat :=
  let k := q.bank q.take
  match k.state with
  | .full | .reading => some ((k.header.getD 0 0 / 2 ^ 24) % 2 ^ 40)
  | _ => none

/-- The consumer has read the tile at the front: its segments leave the queue. -/
def TileQueue.pop (q : TileQueue) : TileQueue :=
  let two := twoSegments (q.bank q.take).header && !(q.bank q.take).second
  if two then q.release.release else { q.release with midTile := false }

/-! ## Accumulator banks -/

/-- Write a matrix engine. -/
def State.setMe (s : State) (core i : Nat) (m : Me) : State :=
  let k := s.core core
  s.setCore core { k with mes := FMap.set (fun _ => {}) k.mes i m }

/-- A bank of an ME: false for A. -/
def Me.bank (m : Me) (b : Bool) : Bank := if b then m.bankB else m.bankA

/-- Write a bank of an ME. -/
def Me.setBank (m : Me) (b : Bool) (k : Bank) : Me := if b then { m with bankB := k } else { m with bankA := k }

/-- The bank in which a task's output tile stands, if any. -/
def Me.bankOf (m : Me) (j : Nat) : Option Bool :=
  if m.bankA.state ≠ .idle ∧ m.bankA.task = j then some false
  else if m.bankB.state ≠ .idle ∧ m.bankB.task = j then some true
  else none

/-- A bank whose task ends without its drain falls IDLE, and so do the window registers that serve it (Table 5.3). -/
def State.freeBanks (s : State) (j : Nat) (e : JEntry) : State :=
  if e.engine ≠ 0 then s
  else
    let m := (s.core e.core).me e.index
    let mine (k : Bank) : Bool := k.state != .idle && decide (k.task = j)
    if !mine m.bankA && !mine m.bankB then s
    else
      s.setMe e.core e.index { m with
        bankA := if mine m.bankA then {} else m.bankA
        bankB := if mine m.bankB then {} else m.bankB
        wregs := m.wregs.filter (fun w => !(if w.bankB then mine m.bankB else mine m.bankA)) }

end Sys2Proof.Machine
end

