-- ==== Sys2Proof/Machine/Sram.lean ====
section
/-! DEFINITION. Working copies and stream buffers: tile images in core memory (R287, R288), slots in CM and in the data part
of DM (R24, R316), and the spillway (R33, R34, R57, R315). -/

namespace Sys2Proof.Machine

/-! ## Core memory (R287, R288) -/

/-- Bytes of CM: 3,072 word groups of 64 banks of 32 bytes. -/
def cmBytes : Nat := 3072 * 2048

/-- Bytes of the data part of a die's DM (R24). -/
def dmDataBytes : Nat := 16 * 2 ^ 20

/-- The bank that holds a byte of linear CM (R288). -/
def cmBank (x : Nat) : Nat := x / 32 % 64

/-- The word group that holds a byte of linear CM. -/
def cmGroup (x : Nat) : Nat := x / 2048

/-- The linear address of byte `i` of a word. -/
def cmAddr (bank group i : Nat) : Nat := 2048 * group + 32 * bank + i

/-- The width of a cell: the element width, 8 bits at FP6 (R287). -/
def cellBits (code : Nat) : Nat := if code = 5 ∨ code = 6 then 8 else codeBits code

/-- Cells of a bank word. -/
def cellsPerWord (code : Nat) : Nat := 256 / cellBits code

/-- Word groups of a tile image: 1, 2, 4 or 8 by R287's table, against its formula (log entry 131). -/
def imageGroups (code : Nat) : Nat := 4096 / cellsPerWord code / 64

/-- Where element (r, c) of the tile image at word group `T` lies: bank, word group and cell (R287). -/
def cellPlace (code T r c : Nat) : Nat × Nat × Nat :=
  ((r + c) % 64, T + r / cellsPerWord code, r % cellsPerWord code)

/-- The bytes of an element's cell: linear address and value. Two 4-bit cells share a byte, the lower cell in its low
bits. -/
def cellWrites (code T r c v : Nat) : List (Nat × Nat) :=
  let p := cellPlace code T r c
  let w := cellBits code
  if w < 8 then [(cmAddr p.1 p.2.1 (p.2.2 / 2), v * 2 ^ (4 * (p.2.2 % 2)))]
  else (List.range (w / 8)).map (fun i => (cmAddr p.1 p.2.1 (p.2.2 * (w / 8) + i), v / 2 ^ (8 * i) % 256))

/-- The cells of a dense tile's image at word group `T`. -/
def Tile.imageWrites (x : Tile) (T : Nat) : List (Nat × Nat) :=
  x.elems.flatMap (fun e => cellWrites x.hdr.format T (e.1 / 64) (e.1 % 64) e.2)

/-- Bytes at addresses from `a`. -/
def bytesAt (a : Nat) (bs : List Byte) : List (Nat × Nat) :=
  (bs.zip (List.range bs.length)).map (fun q => (a + q.2, q.1.toNat))

/-- The header of a tile, padded to 64 bytes. -/
def Tile.headerBytes (x : Tile) : List Byte := padTo 64 (toLe 16 x.hdr.toNat)

/-- Bytes of a tile in linear memory beside its header: of a dense tile its elements and scales, of a block its payload. -/
def TensorDesc.tilePayload (d : TensorDesc) (x : Tile) : List Byte :=
  if 0x10 ≤ x.hdr.format then d.payload x
  else packCodes (codeBits x.hdr.format) (x.codes d.colOrder) ++ padTo 64 (x.scaleBytes x.hdr.scaleBlk)

/-- What CM holds of a tile, as bytes from word group `T` on, and its size: the image of a dense tile with its header and
scales beside it in linear CM, or a block's header and payload; where the data is linear, header and payload of a dense tile
too (R287, R288). -/
def TensorDesc.cmImage (d : TensorDesc) (x : Tile) (T : Nat) (linear : Bool := false) : List (Nat × Nat) × Nat :=
  let whole := linear || decide (0x10 ≤ x.hdr.format)
  let n := if whole then 0 else imageGroups x.hdr.format
  let tail := x.headerBytes ++ (if whole then d.tilePayload x else x.scaleBytes x.hdr.scaleBlk)
  ((if whole then [] else x.imageWrites T) ++ bytesAt (2048 * (T + n)) tail, 2048 * n + roundUp tail.length 2048)

/-- What DM holds of a tile, as bytes from byte `b` on, and its size: header and payload. -/
def TensorDesc.dmImage (d : TensorDesc) (x : Tile) (b : Nat) : List (Nat × Nat) × Nat :=
  let bs := x.headerBytes ++ d.tilePayload x
  (bytesAt b bs, roundUp bs.length 2048)

/-! ## Slots -/

/-- What stands for the stream of a slot that holds a copy of a tensor's home tile: no stream has such an id. -/
def homeStream (id : Nat) : Nat := 2 ^ 24 + id

/-- The slot of a stream's tile. -/
def Sram.slot? (m : Sram) (course stream tile : Nat) : Option Slot :=
  m.slots.find? (fun q => decide (q.course = course ∧ q.stream = stream ∧ q.tile = tile))

/-- Slots go, and their bytes become zero. -/
def Sram.drop (m : Sram) (p : Slot → Bool) : Sram :=
  let gone := m.slots.filter p
  if gone.isEmpty then m
  else
    { bytes := FMap.keep (fun a _ => !gone.any (fun q => decide (q.base ≤ a ∧ a < q.base + q.bytes))) m.bytes
      slots := m.slots.filter (fun q => !p q) }

/-- The lowest base at which `n` bytes lie free below a limit, given the slots by rising base. -/
def firstFit (n limit : Nat) : Nat → List Slot → Option Nat
  | b, [] => if b + n ≤ limit then some b else none
  | b, q :: qs => if b + n ≤ q.base then (if b + n ≤ limit then some b else none) else firstFit n limit (q.base + q.bytes) qs

/-- Put a slot among others by rising base. -/
def insertSlot (q : Slot) : List Slot → List Slot
  | [] => [q]
  | p :: ps => if q.base < p.base then q :: p :: ps else p :: insertSlot q ps

/-- A tile takes a slot at a base, with its bytes; cells that share a byte add up. -/
def Sram.put (m : Sram) (q : Slot) (bs : List (Nat × Nat)) : Sram where
  bytes := bs.foldl (fun t w => FMap.update (fun _ => 0) t w.1 (fun v => v + w.2)) m.bytes
  slots := insertSlot q m.slots

/-- A tile of a stream takes the lowest room in CM; none where it has no room. -/
def Sram.placeCm (m : Sram) (d : TensorDesc) (course stream : Nat) (x : Tile) (written : Bool) (linear : Bool := false) :
    Option Sram :=
  let n := (d.cmImage x 0 linear).2
  (firstFit n cmBytes 0 m.slots).map (fun b =>
    m.put { course := course, stream := stream, tile := x.hdr.index, base := b, bytes := n, written := written }
      (d.cmImage x (b / 2048) linear).1)

/-- A tile of a stream takes the lowest room in DM below a limit. -/
def Sram.placeDm (m : Sram) (d : TensorDesc) (limit course stream : Nat) (x : Tile) (written : Bool) : Option Sram :=
  let n := (d.dmImage x 0).2
  (firstFit n limit 0 m.slots).map (fun b =>
    m.put { course := course, stream := stream, tile := x.hdr.index, base := b, bytes := n, written := written }
      (d.dmImage x b).1)

/-- The CM of a core. -/
def State.cm (s : State) (core : Nat) : Sram := (s.core core).cm

/-- Write the CM of a core. -/
def State.setCm (s : State) (core : Nat) (m : Sram) : State := s.setCore core { s.core core with cm := m }

/-- The data part of a die's DM. -/
def State.dmOf (s : State) (die : Nat) : Sram := FMap.get (fun _ => {}) s.dm die

/-- Write the data part of a die's DM. -/
def State.setDm (s : State) (die : Nat) (m : Sram) : State := { s with dm := FMap.set (fun _ => {}) s.dm die m }

/-- Slots of every core's CM and every die's DM go. -/
def State.dropSlots (s : State) (p : Slot → Bool) : State :=
  let s := (s.cores.filter (fun kv => kv.2.cm.slots.any p)).foldl (fun (s : State) kv => s.setCm kv.1 ((s.cm kv.1).drop p)) s
  (s.dm.filter (fun kv => kv.2.slots.any p)).foldl (fun (s : State) kv => s.setDm kv.1 ((s.dmOf kv.1).drop p)) s

/-! ## The spillway (R33, R315) -/

/-- A copy is bit-identical to its home: the home's tile of the same GEN (R315). -/
def State.sameAsHome (s : State) (x : Tile) : Bool :=
  match s.tensor x.hdr.tensor with
  | none => false
  | some t =>
    let y := t.current x.hdr.tensor x.hdr.index
    t.view.isNone && !t.stackIds.isEmpty && decide (x.hdr.gen = t.genNo % 2 ^ 16 ∧ x.hdr.longSum = false ∧ x.elems = y.elems
      ∧ x.scales = y.scales ∧ x.form = y.form ∧ x.recs = y.recs ∧ x.hdr.poison = y.hdr.poison)

/-- A write of the tile in place lands nothing that its stream's consumer, a STORE of it, does not land, and nobody else in the
course writes or reads the tensor. -/
def State.soleStore (s : State) (c : Course) (x : Stream) : Bool :=
  let mine (ids : List Nat) : Bool := (ids.map s.baseOf).contains (s.baseOf x.tensor)
  match c.station x.cons with
  | some q => q.typ == stStore && q.p 0 1 == 0
      && !(c.stations.any (fun a => (a.id != q.id && mine (c.stationWrites a)) || mine (c.stationReads a)))
  | none => false

/-- A written copy goes to its own home slot, in the generation that its GEN names: a dense tile into the half that the step
builds and has not yet written there, or, where the course writes in place, into the one that its STORE writes (R315; log
entry 55). -/
def State.homeSlotFree (s : State) (c : Course) (y : Stream) (x : Tile) : Bool :=
  match s.tensor x.hdr.tensor with
  | none => false
  | some t =>
    let k := x.hdr.index
    !t.desc.sparse && t.view.isNone && !t.stackIds.isEmpty && s.holds t.desc k
      && !x.hdr.longSum && decide (x.hdr.gen = t.writeGen c.stepMode ∧ x.hdr.format = t.desc.format)
      && (if t.toNext c.stepMode then !t.isWritten k else s.soleStore c y)

/-- Bytes go to consecutive lines of a stream's space from byte `b` on, with the poison mark if poisoned; lines of a polder's
stream are encrypted. -/
def State.writeSpace (s : State) (p : Space) (b : Nat) (poisoned : Bool) (bytes : List Byte) : State :=
  s.writeHome p.home b poisoned bytes

/-- A tile goes into its home slot, in the half that its GEN names: the lines of the half that the step builds, or the tile itself
where the course writes in place. -/
def State.spillHome (s : State) (c : Course) (t : Tile) : State :=
  match s.tensor t.hdr.tensor with
  | none => s
  | some q =>
    if q.toNext c.stepMode then s.writeSlot q (!q.curHalf t.hdr.index) t.hdr.index t false t.hdr.poison
    else s.putTile false t.hdr.tensor t.hdr.index t false true

/-- The spillway has a place for a tile of a stream: its home, its home slot, or stack space (R33, R57, R315). -/
def State.canSpill (s : State) (c : Course) (x : Stream) (t : Tile) : Bool :=
  s.sameAsHome t || s.homeSlotFree c x t || (s.withSpace c x).space.isSome

/-- The spillway writes a tile of a stream: nothing where it is as its home has it, else to its home slot, else to the space of
the stream (R33, R57, R315). The stream notes the tile. -/
def State.spillTile (s : State) (cid xid : Nat) (t : Tile) : State :=
  match (s.course cid).bind (fun (c : Course) => (c.streams.find? (fun x => decide (x.id = xid))).map (fun x => (c, x))) with
  | none => s
  | some (c, x) =>
    let k := t.hdr.index
    if !s.canSpill c x t then s
    else
      let y := { (if s.sameAsHome t ∨ s.homeSlotFree c x t then x else s.withSpace c x) with spilled := insertNat k x.spilled }
      let u := s.setCourse { c with streams := c.streams.map (fun z => if z.id = x.id then y else z) }
      if s.sameAsHome t then u
      else if s.homeSlotFree c x t then u.spillHome c t
      else
        match y.space, s.tensor x.tensor with
        | some p, some q =>
          u.writeSpace p (s.spaceByte c x k) t.hdr.poison (t.headerBytes ++ q.desc.tilePayload t)
        | _, _ => u

end Sys2Proof.Machine
end

