-- ==== Sys2Proof/Machine/TaskOps.lean ====
section
/-! DEFINITION. The shared operations of tile tasks: the journal entry of a running task (R452), the tiles on its
input ports, what a reader makes of them, sums over operands, the emission of tiles (R55, R65, R70), probe form
(R262), the weir's view of conversions (R260), and the halt of a stream (R63). -/

namespace Sys2Proof.Machine

/-! ## Journal entries and tasks -/

/-- Entries of one die's journal (R452). -/
def journalRoom : Nat := 131072

/-- The place of a task that has no journal entry: it is that of no slot. -/
def looseKey : Nat := 2 ^ 32

/-- A journal entry. -/
def State.entry (s : State) (j : Nat) : Option JEntry := FMap.get (fun _ => none) s.journal j

/-- Write or free a journal entry. -/
def State.setEntry (s : State) (j : Nat) (e : Option JEntry) : State :=
  { s with journal := FMap.set (fun _ => none) s.journal j e }

/-- A tile task that runs: its journal place and entry, its course and its station. -/
structure Task where
  j : Nat
  e : JEntry
  c : Course
  st : Station
  deriving DecidableEq, Repr

/-- Tasks of the course run: it is started and not cancelled. A halted course lets the tasks that run come to their tile
boundary (R63). -/
def Course.running (c : Course) : Bool := c.started

/-- The course issues tasks: it runs them and has not halted. -/
def Course.active (c : Course) : Bool := c.running && c.halt.isNone && c.cancelled.isNone

/-- The task of an entry, if it is issued, its engine has not finished it, and its station has the type. -/
def State.task (s : State) (j typ : Nat) : Option Task :=
  match s.entry j with
  | none => none
  | some e =>
    match s.course e.course with
    | none => none
    | some c =>
      match c.station e.station with
      | none => none
      | some st =>
        if e.state == .issued && !e.finished && c.running && s.issuing && st.typ == typ then some ⟨j, e, c, st⟩
        else none

/-- The flag register of the engine that runs a task; a DMA channel and an MU have none (R113), so the flags of the VE programs behind
a DMA station (SCATTER_ACC, LOAD FILL, the conversion of a STORE) enter the course summary alone (log entry 126). -/
def JEntry.flagReg (e : JEntry) : Option Reg :=
  match e.engine with
  | 0 => some ⟨.meFlags, e.core, e.index⟩
  | 1 => some ⟨.veFlags, e.core, e.index⟩
  | 2 => some ⟨.ueFlags, e.core, e.index⟩
  | _ => none

/-- Set sticky flags of the engine of a task. -/
def State.mergeFlags (s : State) (e : JEntry) (fl : Flags) : State :=
  match e.flagReg with
  | none => s
  | some r => s.setReg r (s.reg r ||| BitVec.ofNat 64 (fl % 32))

/-! ## Halts (R63) -/

/-- Where a task halts its course: on the stream of an input port, on those of an output port, or on every output stream of its
station. -/
inductive Side where
  | input (port : Nat)
  | output (port : Nat)
  | outputs

/-- The least of some numbers, 0 for none. -/
def leastOf (l : List Nat) : Nat :=
  match sortNat l with
  | [] => 0
  | x :: _ => x

/-- The stream that a halt names: the lowest on the port, else the lowest that the station feeds or takes. -/
def Course.haltStream (c : Course) (st : Nat) (side : Side) : Nat :=
  let outs := (c.streams.filter (fun x => x.prod = st)).map (fun x => x.id)
  let ins := (c.streams.filter (fun x => x.cons = st)).map (fun x => x.id)
  let mine := match side with
    | .input p => ((c.inStream st p).map (fun x => x.id)).toList
    | .output p => (c.outStreams st p).map (fun x => x.id)
    | .outputs => outs
  if !mine.isEmpty then leastOf mine else if !outs.isEmpty then leastOf outs else leastOf ins

/-- The streams that halt: every stream of the port, or of the station's outputs; where there is none, the one that the halt
names. -/
def Course.haltSet (c : Course) (st : Nat) (side : Side) : List Nat :=
  match side with
  | .input p => c.haltStream st side :: ((c.inStream st p).map (fun x => x.id)).toList
  | .output p => c.haltStream st side :: (c.outStreams st p).map (fun x => x.id)
  | .outputs => c.haltStream st side :: (c.streams.filter (fun x => x.prod = st)).map (fun x => x.id)

/-- The halt that a course's record names when another stream halts too: the lower STREAM_ID (R63). Every stream that halts
before the record is formed counts as halted in the same control cycle (log entry 90). -/
def Halt.join (h : Option Halt) (stream status detail : Nat) : Halt :=
  match h with
  | some k => if k.stream = false ∨ k.id ≤ stream then k else { status := status, detail := detail, id := stream, stream := true }
  | none => { status := status, detail := detail, id := stream, stream := true }

/-- Streams of a station halt, and their course ends with a status, which names the lowest of them (R63). -/
def State.haltCourse (s : State) (cid st : Nat) (side : Side) (status detail : Nat) : State :=
  match s.course cid with
  | none => s
  | some c =>
    s.setCourse { c with
      halt := some (Halt.join c.halt (c.haltStream st side) status detail)
      streams := c.streams.map (fun x => if (c.haltSet st side).contains x.id then { x with state := .halted } else x) }

/-- Log on behalf of a task. -/
def State.logTask (s : State) (t : Task) (cls arg0 arg1 : Nat) : State :=
  s.logEntry cls (t.e.core / coresPerDie) t.e.core t.c.desc.func arg0 arg1

/-- A journal entry goes, and with it what its task holds of accumulator banks (Table 5.3). -/
def State.dropEntry (s : State) (j : Nat) : State :=
  match s.entry j with
  | none => s
  | some e => (s.freeBanks j e).setEntry j none

/-- A task is abandoned: its banks fall idle, it waits in the journal for its replay and leaves no flag (R112, R147, R454). -/
def State.abandon (s : State) (j : Nat) : State :=
  match s.entry j with
  | none => s
  | some e =>
    (s.freeBanks j e).setEntry j (some { e with state := .abandoned, finished := false, flags := 0, sums := [] })

/-- A task halts streams: a log entry, the halt, and the end of its journal entry. -/
def State.haltTask (s : State) (t : Task) (side : Side) (status detail cls arg0 arg1 : Nat) : State :=
  ((s.logTask t cls arg0 arg1).haltCourse t.c.id t.st.id side status detail).dropEntry t.j

/-- The tensor of a stream of a course. -/
def Course.streamTensor (c : Course) (id : Nat) : Nat :=
  match c.streams.find? (fun x => decide (x.id = id)) with
  | some x => x.tensor
  | none => 0

/-- ARG0 of a parameter fault: the station's id in bits 31:0, the tensor of the stream that halts in bits 55:32 (R63; log entry
91). -/
def Task.faultArg (t : Task) (side : Side) : Nat := t.st.id + t.c.streamTensor (t.c.haltStream t.st.id side) * 2 ^ 32

/-- The side on which a station's own faults fall: its output, or for a STORE or SCATTER_ACC its input (R297, R312). -/
def Station.haltSide (st : Station) : Side := if st.typ = stStore ∨ st.typ = stScatter then .input 0 else .output 0

/-- A parameter fault on a stream: FORMAT; the log names the parameter byte, or the port as 0x100 + port. -/
def State.haltParam (s : State) (t : Task) (side : Side) (what : Nat) : State :=
  s.haltTask t side 0x0010 0 0x0032 (t.faultArg side) what

/-- A parameter or configuration fault: FORMAT on the station's output streams. -/
def State.haltFormat (s : State) (t : Task) (what : Nat) : State := s.haltParam t .outputs what

/-- FORMAT on an input port's stream: the log names the tensor and the tile in ARG0 as a tile header's word 0 does, and in ARG1
the byte of the tile's payload, with 0x100 + port in bits 63:32 (R63, R90; log entry 91). -/
def State.haltInput (s : State) (t : Task) (port : Nat) (tile byte : Nat := 0) : State :=
  s.haltTask t (.input port) 0x0010 0 0x0032 (t.c.inTensor t.st.id port + tile * 2 ^ 24) (byte + (0x100 + port) * 2 ^ 32)

/-- STATUS of a sparse violation cause (Table 6.10). -/
def causeStatus (cause : Nat) : Nat :=
  if cause < 0x10 then 0x0010 else if cause < 0x20 then 0x0011 else 0x0005

/-- RANGE is set by an INDEX fault: in the flag register of the engine, and for a DMA channel, which has none, in the flag
summary of the course (R111, R189, Table 11.11; log entry 52). -/
def State.noteRange (s : State) (t : Task) : State :=
  match t.e.flagReg with
  | some _ => s.mergeFlags t.e flRange
  | none =>
    match s.course t.c.id with
    | none => s
    | some c => s.setCourse { c with flags := c.flags ||| flRange }

/-- The generation number in the tiles that a course writes of a tensor. -/
def State.writeGenOf (s : State) (c : Course) (id : Nat) : Nat :=
  match s.tensor id with
  | none => 0
  | some t => t.writeGen c.stepMode

/-- The two arguments of a sparse violation's log entry (R189): tensor id and tile index as in word 0 of a tile header; the
byte, the generation and the cause (log entry 91). -/
def violationArgs (id gen tile byte cause : Nat) : Nat × Nat :=
  (id % 2 ^ 24 + tile % 2 ^ 40 * 2 ^ 24, byte % 2 ^ 40 + gen % 2 ^ 16 * 2 ^ 40 + cause % 256 * 2 ^ 56)

/-- A sparse violation of tensor `id` (R189, R190) in tile `tile`: `byte` is the byte of the home, or of the tile's payload,
that fails. The generation named is the one read or, for a cause that a write meets, the one written (log entry 128). -/
def State.haltSparse (s : State) (t : Task) (side : Side) (id cause : Nat) (tile byte : Nat := 0) : State :=
  let gen := if cause = 0x06 ∨ cause = 0x09 ∨ cause = 0x20 then s.writeGenOf t.c id else s.genOf id
  let a := violationArgs id gen tile byte cause
  let s := s.haltTask t side (causeStatus cause) cause 0x0030 a.1 a.2
  if causeStatus cause = 0x0011 then s.noteRange t else s

/-- An incomplete generation that a station reads from its home (R171). -/
def State.incompleteRead (s : State) (t : Task) : Option Nat :=
  (t.c.stationReads t.st).find? (fun id => match s.tensor id with
    | some x => x.incomplete
    | none => false)

/-- The warden's answer on a task (R481): its first refusal. `agg` counts the contributors of an aggregate station
and `part` tells the outputs that are LONG_SUM partials. -/
def State.wardenTask (s : State) (t : Task) (agg : Option Nat) (part : Nat → Bool) : Option (Nat × Nat) :=
  s.wardenCheck (t.c.sourceTensors t.st) (s.crossings t.c t.st agg part)

/-- A refused task writes and sends nothing: POLICY_DENIED, with the cause in the log (R481). -/
def State.denyTask (s : State) (t : Task) (d : Nat × Nat) : State :=
  (s.countDenial d.1 d.2).haltTask t t.st.haltSide 0x0014 0 0x0034 t.st.id d.2

/-- Run a task's effect only where the warden permits its crossings. -/
def State.guarded (s : State) (t : Task) (agg : Option Nat) (part : Nat → Bool) (f : State → State) : State :=
  match s.wardenTask t agg part with
  | some d => s.denyTask t d
  | none => f s

/-! ## Inputs -/

/-- The tiles that have come on an input port, as the task sees them: a copy that it reads while the spillway has changed the
tile stands for it (R34). -/
def Task.tiles (t : Task) (port : Nat) : List Tile :=
  match t.c.inStream t.st.id port with
  | some x => x.tiles.map (fun y =>
      match t.e.copies.find? (fun q => decide (q.1 = port ∧ q.2.hdr.index = y.hdr.index)) with
      | some q => q.2
      | none => y)
  | none => []

/-- The tile of an index on an input port. -/
def Task.tile? (t : Task) (port k : Nat) : Option Tile := (t.tiles port).find? (fun x => x.hdr.index = k)

/-- The tensor id of an input port's stream. -/
def Task.inId (t : Task) (port : Nat) : Nat := t.c.inTensor t.st.id port

/-- The tensor id of an output port's streams. -/
def Task.outId (t : Task) (port : Nat) : Nat := t.c.outTensor t.st.id port

/-- What forbids a tile at a station's input (R66, R67, R173): a reserved FORMAT, a forbidden SCALE_BLK, or a block that breaks
its form: 0 for plain FORMAT or the cause, and the byte of its payload. -/
def State.tileBad (s : State) (id : Nat) (x : Tile) : Option Violation :=
  let f := x.hdr.format
  let d := s.descOf id
  if (0x0A ≤ f ∧ f < 0x10) ∨ 0x16 ≤ f then some (0, 0)
  else if !scaleBlkOk (if f < 0x10 then f else d.valueFormat) x.hdr.scaleBlk then some (0, 0)
  else if 0x10 ≤ f ∧ d.sparse then d.streamBlockBad id x
  else none

/-- The first tile on an input port of the task's station that R66, R67 or R189 forbids: port, tile index and violation. -/
def State.inputBad (s : State) (t : Task) : Option (Nat × Nat × Violation) :=
  (List.range t.st.inPorts).findSome? (fun p =>
    (t.tiles p).findSome? (fun x => (s.tileBad (t.inId p) x).map (fun v => (p, x.hdr.index, v))))

/-- A block that the task reads from a sparse home and that its bytes do not give (R170, R189): tensor, tile and violation. -/
def State.brokenRead (s : State) (t : Task) : Option (Nat × Nat × Violation) :=
  let own := t.st.typ == stLoad || t.st.typ == stStore || t.st.typ == stSddmm
  let ids := t.c.stationReads t.st ++ (if t.st.typ = stStore ∧ t.st.p 0 1 = 0 then [t.inId 0] else [])
  ids.findSome? (fun id =>
    match s.tensor id with
    | none => none
    | some x =>
      if !x.desc.sparse then none
      else (if own then [t.e.tile] else s.heldTiles x.desc).findSome? (fun k => (x.brokenAt k).map (fun v => (id, k, v))))

/-- What stops a task at its reads, with the state that the halt leaves: an incomplete generation (R171), a block of a home
(R189), or a tile on an input (R66, R67, R189). -/
def State.readStop (s : State) (t : Task) : Option State :=
  match s.incompleteRead t, s.brokenRead t, s.inputBad t with
  | some id, _, _ => some (s.haltSparse t (.output 0) id 0x21)
  | none, some (id, k, v), _ =>
    some (s.haltSparse t t.st.haltSide id v.1 k v.2)
  | none, none, some (p, k, v) =>
    some (if v.1 = 0 then s.haltInput t p k v.2 else s.haltSparse t (.input p) (t.inId p) v.1 k v.2)
  | none, none, none => none

/-- Run a task's meaning; without such a task nothing happens, and a read that cannot be made halts a stream. -/
def State.runTask (s : State) (j typ : Nat) (f : Task → State) : Host.Outcome State Fault Refusal :=
  match s.task j typ with
  | none => .next s
  | some t => .next ((s.readStop t).getD (f t))

/-- The outer scale that the open step's writes of a tensor use: S_p after a probe, else the S of the generation
read (R101, R262). -/
def Tensor.writeScale (t : Tensor) : Nat := t.weir.probe.getD t.scale.s

/-- How a tile's reader decodes it: with the S of its own generation (R101, R262). -/
def State.ctxOf (s : State) (x : Tile) : TileCtx :=
  match s.tensor x.hdr.tensor with
  | none => {}
  | some t =>
    { col := t.desc.colOrder
      outer := if x.hdr.gen = t.genNo % 2 ^ 16 then t.scale.s else t.writeScale }

/-- GEN is one that a consumer expects: the generation read, or that being written (R71). -/
def State.genExpected (s : State) (c : Course) (x : Tile) : Bool :=
  match s.tensor x.hdr.tensor with
  | none => true
  | some t => x.hdr.gen == t.genNo % 2 ^ 16 || x.hdr.gen == t.writeGen c.stepMode

/-- A consumed tile makes what is produced from it poisoned (R70, R71). -/
def State.poisons (s : State) (c : Course) (x : Tile) : Bool := x.hdr.poison || !s.genExpected c x

/-- Some tile among those a task consumes is poisoned (pairs of port and tile index), or a poisoned word was delivered
to it (R314). -/
def State.poisonedIn (s : State) (t : Task) (needs : List (Nat × Nat)) : Bool :=
  t.e.poisoned || needs.any (fun q => match t.tile? q.1 q.2 with
    | some x => s.poisons t.c x
    | none => false)

/-- Every tile that a task needs is there. -/
def Task.ready (t : Task) (needs : List (Nat × Nat)) : Bool := needs.all (fun q => (t.tile? q.1 q.2).isSome)

/-- The value of an element of a tile, absent outside the mask of a sparse block. -/
def valueAt (x : Tile) (k : TileCtx) (vf r c : Nat) : Option Val :=
  if 0x10 ≤ x.hdr.format then x.spAt vf k.outer r c
  else if r < x.rows ∧ c < x.cols then some (x.val k r c) else none

/-- An operand: its tensor's description and its tiles, each with what decodes it. -/
structure Operand where
  desc : TensorDesc
  tiles : List (Tile × TileCtx)

/-- The operand on an input port. -/
def State.operand (s : State) (t : Task) (port : Nat) : Operand :=
  { desc := s.descOf (t.inId port), tiles := (t.tiles port).map (fun x => (x, s.ctxOf x)) }

/-- An operand's tile by index. -/
def Operand.tile? (o : Operand) (k : Nat) : Option (Tile × TileCtx) := o.tiles.find? (fun x => x.1.hdr.index = k)

/-- The value at a leading index, a global row and a global column; absent where the tile or the position is
absent. -/
def Operand.at? (o : Operand) (lead r c : Nat) : Option Val :=
  match o.tile? (o.desc.tileIndex ⟨lead, r / 64, c / 64⟩) with
  | none => none
  | some x => valueAt x.1 x.2 o.desc.valueFormat (r % 64) (c % 64)

/-- The value, +0 where absent. -/
def Operand.at (o : Operand) (lead r c : Nat) : Val := (o.at? lead r c).getD Val.zero

/-- The window size of an operand (Table 4.1). -/
def TensorDesc.window (d : TensorDesc) : Nat := operandWindow d.elemCode d.scaleBlk

/-! ## Sums (R118, R131, R132) -/

/-- The windows of the held reduction indices, in ascending order: a boundary of the part cuts a window. -/
def windowsAt (W : Nat) (ks : List Nat) : List (List Nat) := ks.splitBy (fun a b => a / W == b / W)

/-- The window sums of a reduction. -/
def windowSums (W : Nat) (ks : List Nat) (f : Nat → Term) : List (Option (Nat × Flags)) :=
  (windowsAt W ks).map (fun w => windowSum (w.map f))

/-- The result of a sum, or its partial when the reduction dimension is sharded (R125, R132). -/
def sumOver (L : Nat) (ws : List (Option (Nat × Flags))) (c cLong : Option Nat) (part : Bool) : Nat × Flags :=
  if part && decide (ws.length ≤ L) && cLong.isNone then
    let s := ws.foldl SumState.addWindow (startSum c none)
    (s.acc, s.flags)
  else
    let s := sumWindows L ws c cLong
    let (r, fl) := longResult s.long
    (r, s.flags ||| fl)

/-- The acc of reach `r`: its windows added in order; a plain C is in the acc of reach 0 (R131). -/
def reachSum (L : Nat) (ws : List (Option (Nat × Flags))) (c : Option Nat) (r : Nat) : Nat × Flags :=
  let s := ((ws.drop (r * L)).take L).foldl SumState.addWindow (startSum (if r = 0 then c else none) none)
  (s.acc, s.flags)

/-- Reach sums folded in ascending reach order by the engine that owns the tile (R131). -/
def foldReaches (cLong : Option Nat) (accs : List Nat) : SumState :=
  accs.foldl (fun s a => SumState.fold { s with acc := a }) (startSum none cLong)

/-! ## Outputs -/

/-- What a conversion gives the weir (R260): the tensor, amax, overflow, and a gradient port. -/
structure WeirIn where
  id : Nat
  amax : Nat
  ovf : Bool
  grad : Bool

/-- The FP32 pattern of the largest finite magnitude. -/
def amaxCode (vs : List Val) : Nat := let a := amaxOf vs; (rn32Mag false a.m.natAbs a.e).1

/-- How a course's conversions into a tensor are made: `conv` is the conversion control byte (Table 3.7). -/
def State.convSpec (s : State) (c : Course) (id conv : Nat) : ConvSpec :=
  match s.tensor id with
  | none => { desc := {}, tensor := id }
  | some t =>
    { desc := t.desc, outer := t.writeScale, grad := conv.testBit 0, seed := c.seed, step := c.step
      tensor := id }

/-- The streams of an output port all end at MASK-mode STOREs, so the producer applies the mask (R182). -/
def Course.maskedPort (c : Course) (st port : Nat) : Bool :=
  let xs := c.outStreams st port
  !xs.isEmpty && xs.all (fun x => match c.station x.cons with
    | some q => q.typ == stStore && decide (q.p 0 1 = 0 ∧ q.p 2 1 % 16 = 0)
    | none => false)

/-- A block of the generation that a course writes, as it stands (R182, R213). -/
def State.destBlock (s : State) (c : Course) (id k : Nat) : Tile :=
  match s.tensor id with
  | none => {}
  | some t => t.dest c.stepMode id k

/-- A tile of values converted into a tensor that a course writes, with its flags and what the weir sees. -/
def State.convInto (s : State) (t : Task) (id conv k : Nat) (v : Nat → Nat → Val) : Tile × Flags × WeirIn :=
  let spec := s.convSpec t.c id conv
  let d := spec.desc
  let x := spec.tile k (s.writeGenOf t.c id) t.c.epoch v
  (x.1, x.2, { id := id, amax := amaxCode ((extentPos (d.extRows k) (d.extCols k)).map (fun p => v p.1 p.2))
               ovf := x.2.testBit 0, grad := conv.testBit 0 })

/-- A tile of values for an output port; a port whose streams all end at MASK-mode STOREs applies the mask. -/
def State.convTile (s : State) (t : Task) (port conv k : Nat) (v : Nat → Nat → Val) : Tile × Flags × WeirIn :=
  let id := t.outId port
  if (s.descOf id).sparse && t.c.maskedPort t.st.id port then
    let m := (s.destBlock t.c id k).mask
    s.convInto t id conv k (fun r c => if m.contains (64 * r + c) then v r c else Val.zero)
  else s.convInto t id conv k v

/-- A sparse tile of a layout, its values converted, with its flags and what the weir sees. -/
def State.convBlock (s : State) (t : Task) (port conv k : Nat) (l : Layout) (v : Nat → Val) :
    Tile × Flags × WeirIn :=
  let id := t.outId port
  let spec := s.convSpec t.c id conv
  let d := spec.desc
  let x := spec.block l k (fun p => spec.mode k (p / 64) (p % 64)) v
  let ps := (l.pos.map (fun q => q.1)).filter (inExtent (d.extRows k) (d.extCols k))
  ({ x.1 with hdr := { x.1.hdr with gen := s.writeGenOf t.c id, epoch := t.c.epoch } }, x.2,
    { id := id, amax := amaxCode (ps.map v), ovf := x.2.testBit 0, grad := conv.testBit 0 })

/-- A LONG_SUM tile of partials for an output port. -/
def State.partTile (s : State) (t : Task) (port k : Nat) (v : Nat → Nat → Nat) : Tile :=
  let id := t.outId port
  longTile (s.descOf id) id k (s.writeGenOf t.c id) t.c.epoch v

/-- Put a tile among others by ascending index; an earlier copy of the same index is superseded. -/
def insertTile (x : Tile) : List Tile → List Tile
  | [] => [x]
  | y :: ys =>
    if x.hdr.index < y.hdr.index then x :: y :: ys
    else if x.hdr.index = y.hdr.index then x :: ys
    else y :: insertTile x ys

/-- A stream takes a finished tile: in its place, if that tile has been emitted before, else among those that wait in the
stream's allotment. -/
def Stream.take (x : Stream) (t : Tile) : Stream :=
  let y := { x with spilled := x.spilled.filter (fun k => k ≠ t.hdr.index) }
  if x.tiles.any (fun z => decide (z.hdr.index = t.hdr.index)) then
    { y with tiles := insertTile t x.tiles, waiting := x.waiting.filter (fun z => z.hdr.index ≠ t.hdr.index) }
  else { y with waiting := insertTile t x.waiting }

/-- A waiting tile that may be emitted: every lower tile of `due` has been (R55, R160); one that is not in `due` may go at
once. -/
def Stream.mayEmit (x : Stream) (due : List Nat) (t : Tile) : Bool :=
  !due.contains t.hdr.index ||
    (due.takeWhile (fun k => k ≠ t.hdr.index)).all (fun k => x.tiles.any (fun z => decide (z.hdr.index = k)))

/-- The stream is mapped on a tile queue (R57). -/
def Stream.queued (x : Stream) : Bool :=
  match x.buffer with
  | .queue _ _ => true
  | _ => false

/-- One tile is emitted. -/
def Stream.emitOne (x : Stream) (t : Tile) : Stream :=
  let ts := insertTile t x.tiles
  { x with tiles := ts, waiting := x.waiting.filter (fun y => y.hdr.index ≠ t.hdr.index), produced := ts.length }

/-- Every waiting tile that may be emitted is, in ascending order. -/
def Stream.emitDue (x : Stream) (due : List Nat) : Stream :=
  (x.waiting.map (fun t => t.hdr.index)).foldl (fun (y : Stream) k =>
    match y.waiting.find? (fun t => decide (t.hdr.index = k)) with
    | some t => if y.mayEmit due t then y.emitOne t else y
    | none => y) x

/-- The producer emits nothing more: every tile that waits goes out. -/
def Stream.flush (x : Stream) : Stream :=
  let ts := x.waiting.foldr insertTile x.tiles
  { x with tiles := ts, waiting := [], produced := ts.length }

/-- Every data stream of an output port takes a tile (R52). -/
def Course.emit (c : Course) (due : List Nat) (st port : Nat) (t : Tile) : Course :=
  { c with streams := c.streams.map (fun x =>
      if x.prod = st ∧ x.prodPort = port ∧ x.completion = false then
        let y := x.take t
        if y.queued then y else y.emitDue due
      else x) }

/-- A course's streams take tiles by port of a station. -/
def State.emitAll (s : State) (c : Course) (st : Nat) (outs : List (Nat × Tile)) : Course :=
  outs.foldl (fun (k : Course) (o : Nat × Tile) => k.emit (s.portTiles c st o.1) st o.1 o.2) c

/-- A stream of a course. -/
def Course.stream (c : Course) (id : Nat) : Option Stream := c.streams.find? (fun x => decide (x.id = id))

/-- Write a stream of a course. -/
def State.setStream (s : State) (cid : Nat) (x : Stream) : State :=
  match s.course cid with
  | none => s
  | some c => s.setCourse { c with streams := c.streams.map (fun y => if y.id = x.id then x else y) }

/-- A stream on a tile queue emits its next tile while the queue has room for it: the segments go into the queue's banks
(R35, R38), from an ME or a VE at once and else on a channel of the core (R57, R289); the fuel bounds the tiles. -/
def State.pumpStream (s : State) (cid xid : Nat) : Nat → State
  | 0 => s
  | n + 1 =>
    match (s.course cid).bind (fun (c : Course) => (c.stream xid).map (fun x => (c, x))) with
    | none => s
    | some (c, x) =>
      match x.buffer, x.waiting.find? (x.mayEmit (s.portTiles c x.prod x.prodPort)) with
      | .queue core q, some t =>
        let ss := t.segments (s.descOf x.tensor).colOrder
        let direct := (c.station x.prod).any (fun p => (enginesOf p.typ).any (fun e => e == .me || e == .ve))
        if (direct || s.coreDmaUp core) && (s.queue core q).roomFor ss.length then
          ((s.setQueue core q ((s.queue core q).push ss)).setStream cid (x.emitOne t)).pumpStream cid xid n
        else s
      | _, _ => s

/-- The streams of a course that are mapped on tile queues emit what their queues have room for. -/
def State.pumpQueues (s : State) (cid : Nat) : State :=
  match s.course cid with
  | none => s
  | some c => (c.streams.filter (fun x => x.queued && !x.waiting.isEmpty)).foldl
      (fun (s : State) x => s.pumpStream cid x.id x.waiting.length) s

/-! ## Stream buffers (R33, R57, R316) -/

/-- Bytes that a block takes in a cache. -/
def State.cacheBytes (s : State) (e : CacheEntry) : Nat :=
  let d := s.descOf e.tensor
  if d.sparse then d.dataSize e.x + 8 else d.slotBytes

/-- Bytes of each die's DM for the expert cache: CACHE_MIB (R382). -/
def State.cacheRoom (s : State) : Nat := s.regF .expertCtl 0 11 8 * 2 ^ 20

/-- Bytes of a die that some cache entries take. -/
def State.cacheUsed (s : State) (es : List CacheEntry) (die : Nat) : Nat :=
  ((es.filter (fun (e : CacheEntry) => e.die = die)).map s.cacheBytes).foldl (· + ·) 0

/-- The cache entries for which CACHE_MIB has room, the oldest first (R24, R382; log entry 116). -/
def State.cacheKept (s : State) : List CacheEntry :=
  s.net.cache.foldl (fun (a : List CacheEntry) e =>
    if s.cacheUsed a e.die + s.cacheBytes e ≤ s.cacheRoom then a ++ [e] else a) []

/-- Where CACHE_MIB has become smaller the cache gives up what exceeds it. -/
def State.trimCache (s : State) : State := { s with net := { s.net with cache := s.cacheKept } }

/-- Bytes of a die's DM for working copies and stream buffers: the data part less the expert cache (R24, R316). -/
def State.dmLimit (s : State) (die : Nat) : Nat := dmDataBytes - max s.cacheRoom (s.cacheUsed s.net.cache die)

/-- The tiles of a stream are linear CM data (R288): a coordinate list, or a copy that is staged through CM (R305). -/
def State.linearStream (s : State) (course stream : Nat) : Bool :=
  (s.course course).any (fun c => c.streams.any (fun x => decide (x.id = stream) &&
    (match c.station x.prod, c.station x.cons with
      | some p, some q =>
        (q.typ == stGather && x.consPort == 0) || (q.typ == stScatter && x.consPort == 1) ||
          (c.copyPair p q && s.readWriteMeet c p q && !p.permIsId (s.descOf x.tensor).rank)
      | _, _ => false)))

/-- A copy of a tile takes room in the CM of a core, or, where that is full, in the DM of the core's die (Table 1.3). -/
def State.holdCopy (s : State) (core course stream : Nat) (d : TensorDesc) (t : Tile) (written : Bool) : Option State :=
  match (s.cm core).placeCm d course stream t written (s.linearStream course stream) with
  | some m => some (s.setCm core m)
  | none =>
    if !s.coreDmaUp core then none
    else ((s.dmOf (core / coresPerDie)).placeDm d (s.dmLimit (core / coresPerDie)) course stream t written).map (s.setDm (core / coresPerDie))

/-- A finished tile is held in its stream's buffer: in the CM of a core, or where that is full in its die's DM, or in the DM of
a die; where it has no room, the spillway takes it (R57, Table 1.3), on a channel of the core (R289). A tile queue holds its
own. -/
def State.bufferTile (s : State) (c : Course) (core : Nat) (x : Stream) (t : Tile) : State :=
  let s := s.trimCache.dropSlots (fun q => decide (q.course = c.id ∧ q.stream = x.id ∧ q.tile = t.hdr.index))
  let d := s.descOf x.tensor
  let spill (n : Nat) : State := if s.coreDmaUp n then s.spillTile c.id x.id t else s
  match x.buffer with
  | .queue _ _ => s
  | .maker => (s.holdCopy core c.id x.id d t true).getD (spill core)
  | .cm n => (s.holdCopy n c.id x.id d t true).getD (spill n)
  | .dm die =>
    if !s.coreDmaUp core then s
    else
      match (s.dmOf die).placeDm d (s.dmLimit die) c.id x.id t true with
      | some m => s.setDm die m
      | none => spill core

/-- The finished tiles of a task are held in the buffers of their streams. -/
def State.bufferAll (s : State) (cid st core : Nat) (outs : List (Nat × Tile)) : State :=
  match s.course cid with
  | none => s
  | some c =>
    outs.foldl (fun (s : State) (o : Nat × Tile) =>
      (c.streams.filter (fun x => decide (x.prod = st ∧ x.prodPort = o.1) && !x.completion)).foldl
        (fun (s : State) x => s.bufferTile c core x o.2) s) s

/-- A station's tiles go out by port: to its streams, their buffers and their queues. -/
def State.sendOut (s : State) (cid st core : Nat) (outs : List (Nat × Tile)) : State :=
  match s.course cid with
  | none => s
  | some c => ((s.setCourse (s.emitAll c st outs)).bufferAll cid st core outs).pumpQueues cid

/-- A tile with its POISON bit. -/
def Tile.poisoned (x : Tile) (p : Bool) : Tile := { x with hdr := { x.hdr with poison := p } }

/-- The task's engine has finished it: its tiles go out by port, its entry keeps its flags and whether its output
is poisoned until it retires (R112, R70). -/
def State.finish (s : State) (t : Task) (poison : Bool) (outs : List (Nat × Tile)) (flags : Flags) : State :=
  let poison := poison || t.e.poisoned
  let s := s.sendOut t.c.id t.st.id t.e.core (outs.map (fun (o : Nat × Tile) => (o.1, o.2.poisoned poison)))
  s.setEntry t.j (some { t.e with finished := true, flags := flags, poisoned := poison })

/-! ## The weir and probe form -/

/-- The tensor takes an outer scale and has no valid weir state yet: the step's conversions into it run first in
probe form (R262). -/
def State.needsProbe (s : State) (c : Course) (id : Nat) : Bool :=
  match s.tensor id with
  | none => false
  | some t => c.stepMode && t.desc.outerScaled && !t.scale.valid && t.weir.probe.isNone

/-- The weir sees a conversion of the step (R260). -/
def State.feedWeir (s : State) (c : Course) (w : WeirIn) : State :=
  match s.tensor w.id with
  | none => s
  | some t =>
    if c.stepMode && t.desc.outerScaled then
      s.setTensor w.id (some { t with weir := { t.weir with
        seen := true, amax := max t.weir.amax w.amax, ovf := t.weir.ovf || w.ovf, grad := t.weir.grad || w.grad } })
    else s

/-- The weir sees the amax of a conversion in probe form. -/
def State.feedProbe (s : State) (w : WeirIn) : State :=
  match s.tensor w.id with
  | none => s
  | some t => s.setTensor w.id (some { t with weir := { t.weir with probeAmax := max t.weir.probeAmax w.amax } })

/-- A task ran in probe form: it emits nothing, merges no flag, and its entry is freed (R262). -/
def State.probeTask (s : State) (t : Task) (ws : List WeirIn) : State :=
  let s := (ws.filter (fun w => s.needsProbe t.c w.id)).foldl State.feedProbe s
  let s := match s.course t.c.id with
    | none => s
    | some c => s.setCourse { c with stations := c.stations.map (fun (q : Station) =>
        if q.id = t.st.id then { q with probed := insertNat t.e.tile q.probed } else q) }
  s.dropEntry t.j

/-- Does any output of the task still need the probe? -/
def State.probing (s : State) (t : Task) (ws : List WeirIn) : Bool := ws.any (fun w => s.needsProbe t.c w.id)

/-- The end of a task that converts: refused by the warden, probe form, or its tiles with what the weir sees.
`agg` counts the contributors of an aggregate station (R482). -/
def State.deliver (s : State) (t : Task) (poison : Bool) (outs : List (Nat × Tile)) (flags : Flags)
    (ws : List WeirIn) (agg : Option Nat := none) : State :=
  s.guarded t agg (fun id => outs.any (fun (o : Nat × Tile) => o.2.hdr.longSum && decide (t.outId o.1 = id))) (fun s =>
    if s.probing t ws then s.probeTask t ws
    else (ws.foldl (fun s w => s.feedWeir t.c w) s).finish t poison outs flags)

/-- The end of a task whose port 0 takes one converted tile. -/
def State.deliverTile (s : State) (t : Task) (poison : Bool) (x : Tile × Flags × WeirIn) (flags : Flags) : State :=
  s.deliver t poison [(0, x.1)] (flags ||| x.2.1) [x.2.2]

/-- A task that writes a home: refused by the warden, in probe form, or its writes with what the weir sees; then it
finishes with its tiles, if any. -/
def State.writeOut (s : State) (t : Task) (poison : Bool) (outs : List (Nat × Tile)) (flags : Flags)
    (ws : List WeirIn) (write : State → State) : State :=
  s.guarded t none (fun _ => false) (fun s =>
    if s.probing t ws then s.probeTask t ws
    else (write (ws.foldl (fun s w => s.feedWeir t.c w) s)).finish t poison outs flags)

/-! ## Side outputs in assembly -/

/-- A side output takes a task's FP32 values by leading index, row and column (R155, R281). -/
def SideOut.take (o : SideOut) (dS : TensorDesc) (tile : Nat) (poison : Bool) (ns : List ((Nat × Nat × Nat) × Nat)) :
    SideOut where
  vals := FMap.setMany (fun _ => 0) o.vals (ns.map (fun n =>
    let k := dS.tileIndex ⟨n.1.1, n.1.2.1 / 64, n.1.2.2 / 64⟩
    (k * 4096 + 64 * (n.1.2.1 % 64) + n.1.2.2 % 64, n.2)))
  from_ := insertNat tile o.from_
  bad := if poison then insertNat tile o.bad else o.bad.filter (fun k => k ≠ tile)

/-- The tiles of a side output that are complete, each held back until every lower one is: `sources` gives the task
tiles that fill a side tile. -/
def State.sideTiles (s : State) (t : Task) (port : Nat) (o : SideOut) (sources : Nat → List Nat) : List (Nat × Tile) :=
  let id := t.outId port
  let dS := s.descOf id
  let us := (List.range dS.tileCount).filter (fun u => !(sources u).isEmpty)
  (us.takeWhile (fun u => (sources u).all o.from_.contains)).map (fun u =>
    (port, { hdr := { dS.header id u (s.writeGenOf t.c id) t.c.epoch with poison := (sources u).any o.bad.contains }
             elems := (o.vals.filter (fun kv => kv.1 / 4096 = u)).map (fun kv => (kv.1 % 4096, kv.2)) }))

/-- Emit tiles, each with its own POISON bit. -/
def State.emitTiles (s : State) (t : Task) (outs : List (Nat × Tile)) : State := s.sendOut t.c.id t.st.id t.e.core outs

/-- A condition that fails names its byte or port. -/
def failAt (c : Bool) (w : Nat) : Option Nat := if c then some w else none

/-- A change of the station's own record in its course. -/
def State.updStation (s : State) (t : Task) (f : Station → Station) : State :=
  match s.course t.c.id with
  | none => s
  | some c => s.setCourse { c with stations := c.stations.map (fun (q : Station) => if q.id = t.st.id then f q else q) }

end Sys2Proof.Machine
end

