-- ==== Sys2Proof/Machine/Vector.lean ====
section
/-! DEFINITION. Vector engines (chapter 10): one definition per instruction of Table 10.3 and per function of
Table 10.4, over a VE's contexts, and a VEC program run on a tile. -/

namespace Sys2Proof.Machine

/-! ## Registers and elements -/

/-- A register of zeros. -/
def zeroLanes : List Nat := List.replicate 128 0

/-- A mask of zeros. -/
def zeroMask : List Bool := List.replicate 256 false

/-- A vector register of a context. -/
def VeCtx.reg (x : VeCtx) (r : Nat) : List Nat := FMap.get (fun _ => zeroLanes) x.v r

/-- Write a vector register. -/
def VeCtx.setReg (x : VeCtx) (r : Nat) (l : List Nat) : VeCtx :=
  { x with v := FMap.set (fun _ => zeroLanes) x.v r l }

/-- Write a mask register. -/
def VeCtx.setMask (x : VeCtx) (r : Nat) (l : List Bool) : VeCtx :=
  { x with mks := FMap.set (fun _ => zeroMask) x.mks r l }

/-- A context of a VE. -/
def VeRun.ctx (v : VeRun) (i : Nat) : VeCtx := FMap.get (fun _ => {}) v.ctxs i

/-- Write a context of a VE. -/
def VeRun.setCtx (v : VeRun) (i : Nat) (x : VeCtx) : VeRun :=
  { v with ctxs := FMap.set (fun _ => {}) v.ctxs i x }

/-- Elements per step: 128, or 256 in 16-bit mode. -/
def VeRun.width (v : VeRun) : Nat := if v.wide then 256 else 128

/-- Rows of a step: STEP_ROWS. -/
def VeRun.stepRows (v : VeRun) : Nat := if v.wide then 4 else 2

/-- The row and column in the tile of element `e` of a context's step (R269). -/
def VeRun.place (v : VeRun) (x : VeCtx) (e : Nat) : Nat × Nat := (v.stepRows * x.step + e / 64, e % 64)

/-- mk0: the element lies within the valid extent of the tile on input port 0 (R264). -/
def VeRun.valid (v : VeRun) (x : VeCtx) (e : Nat) : Bool :=
  let p := v.place x e
  match v.inputs.head? with
  | some t => decide (p.1 < t.rows ∧ p.2 < t.cols)
  | none => false

/-- A mask register as a step's instruction reads it; mk0 is the extent. -/
def VeRun.mask (v : VeRun) (x : VeCtx) (m : Nat) : List Bool :=
  if m = 0 then (List.range 256).map (v.valid x) else FMap.get (fun _ => zeroMask) x.mks m

/-- The lanes of an operand field: a register, or a constant broadcast (R268). -/
def VeRun.operand (v : VeRun) (x : VeCtx) (f : Nat) : List Nat :=
  if f < 32 then x.reg f
  else
    let c := v.consts.getD (f - 32) 0
    List.replicate 128 c

/-- A 16-bit instruction acts on two elements per lane: element 2j in bits 15:0 (R264). -/
def splitLanes (ls : List Nat) : List Nat := ls.flatMap (fun w => [w % 2 ^ 16, w / 2 ^ 16 % 2 ^ 16])

/-- Join pairs of 16-bit elements into lanes. -/
def joinLanes : List Nat → List Nat
  | a :: b :: rest => (a + b * 2 ^ 16) :: joinLanes rest
  | _ => []

/-- The elements of an operand: 128 lanes, or 256 half lanes with a 16-bit TYPE; of a constant the halves of its 32 bits
(R264, R268). -/
def VeRun.elems (v : VeRun) (x : VeCtx) (i : VeIns) (f : Nat) : List Nat :=
  if i.typ = 0 then v.operand x f else splitLanes (v.operand x f)

/-- Elements that an instruction acts on: 0 to VL − 1, or 0 to 2VL − 1 with a 16-bit TYPE (R265). -/
def veActive (i : VeIns) : Nat := if i.typ = 0 then i.vl else 2 * i.vl

/-- The new elements below the active length over the old ones above it (R265). -/
def overlay (n : Nat) (new old : List Nat) : List Nat := new.take n ++ old.drop n

/-- Write the active elements of a destination register, and merge flags. -/
def VeRun.writeElems (v : VeRun) (c : Nat) (i : VeIns) (d : Nat) (es : List Nat) (fl : Flags) : VeRun :=
  let x := v.ctx c
  let old := x.reg d
  let lanes :=
    if i.typ = 0 then overlay (veActive i) es old
    else joinLanes (overlay (veActive i) es (splitLanes old))
  { v.setCtx c (x.setReg d lanes) with flags := v.flags ||| fl }

/-- Results with flags, folded together. -/
def orFlags (rs : List (Nat × Flags)) : Flags := rs.foldl (fun a r => a ||| r.2) 0

/-! ## Arithmetic of a TYPE (R272) -/

/-- The format of an instruction TYPE. -/
def typeFmt (typ : Nat) : Fmt := (fmtOf typ).getD fmtFp32

/-- The exact sum of two values before rounding: a NaN with invalid for opposite infinities. -/
def exactAdd (a b : Val) : Val × Flags :=
  match a, b with
  | .nan, _ => (.nan, 0)
  | _, .nan => (.nan, 0)
  | .inf n, .inf n' => if n = n' then (.inf n, 0) else (.nan, flInv)
  | .inf n, _ => (.inf n, 0)
  | _, .inf n => (.inf n, 0)
  | .fin n m e, .fin n' m' e' =>
    let d := (Val.fin n m e).dy.add (Val.fin n' m' e').dy
    if d.m = 0 then (.fin (n && n') 0 0, 0) else (.fin (decide (d.m < 0)) d.m.natAbs d.e, 0)

/-- The exact product of two values before rounding: 0 × Inf is invalid. -/
def exactMul (a b : Val) : Val × Flags :=
  match a, b with
  | .nan, _ => (.nan, 0)
  | _, .nan => (.nan, 0)
  | .inf n, v => if v.isZero then (.nan, flInv) else (.inf (n != v.neg), 0)
  | v, .inf n => if v.isZero then (.nan, flInv) else (.inf (n != v.neg), 0)
  | .fin n m e, .fin n' m' e' => (.fin (n != n') (m * m') (e + e'), 0)

/-- The negated value. -/
def Val.negate : Val → Val
  | .nan => .nan
  | .inf n => .inf (!n)
  | .fin n m e => .fin (!n) m e

/-- Round an exact result once to a format. -/
def roundTo (f : Fmt) (r : Val × Flags) : Nat × Flags :=
  let (c, fl) := f.convert .nearest false r.1
  (c, r.2 ||| fl)

/-- A + B of a TYPE. -/
def opAdd (f : Fmt) (a b : Nat) : Nat × Flags := roundTo f (exactAdd (f.decode a) (f.decode b))

/-- A − B of a TYPE. -/
def opSub (f : Fmt) (a b : Nat) : Nat × Flags := roundTo f (exactAdd (f.decode a) (f.decode b).negate)

/-- A × B of a TYPE. -/
def opMul (f : Fmt) (a b : Nat) : Nat × Flags := roundTo f (exactMul (f.decode a) (f.decode b))

/-- A × B + C of a TYPE with one rounding; `negp` negates A × B. A NaN C gives the default NaN without a
flag even where A × B is 0 × Inf. -/
def opFma (f : Fmt) (negp : Bool) (a b c : Nat) : Nat × Flags :=
  let va := f.decode a
  let vc := f.decode c
  if va.isNan || (f.decode b).isNan || vc.isNan then (f.nan, 0)
  else
    let p := exactMul (if negp then va.negate else va) (f.decode b)
    let q := exactAdd p.1 vc
    roundTo f (q.1, p.2 ||| q.2)

/-- MIN or MAX of a TYPE (R273). -/
def opMinMax (f : Fmt) (max : Bool) (a b : Nat) : Nat :=
  let va := f.decode a
  let vb := f.decode b
  if va.isNan || vb.isNan then f.nan
  else
    let less := va.lt vb || (va.eqv vb && va.neg && !vb.neg)
    if less != max then a else b

/-- A comparison condition of CMP (R273). -/
def opCmp (cond : Nat) (va vb : Val) : Bool :=
  let unord := va.isNan || vb.isNan
  match cond with
  | 0 => va.eqv vb
  | 1 => !va.eqv vb
  | 2 => va.lt vb
  | 3 => va.lt vb || va.eqv vb
  | 4 => vb.lt va
  | 5 => vb.lt va || va.eqv vb
  | 6 => unord
  | _ => false

/-- MOVS: A with a sign operation; a NaN A gives the default NaN (R274). -/
def opMovs (f : Fmt) (op a b : Nat) : Nat :=
  if (f.decode a).isNan then f.nan
  else
    let mag := a % 2 ^ f.signBit
    match op with
    | 0 => a
    | 1 => mag
    | 2 => f.withSign (!a.testBit f.signBit) mag
    | _ => f.withSign (b.testBit f.signBit) mag

/-! ## Instructions -/

/-- An operation on corresponding elements of two operands. -/
def VeRun.binary (v : VeRun) (c : Nat) (i : VeIns) (op : Fmt → Nat → Nat → Nat × Flags) : VeRun :=
  let x := v.ctx c
  let f := typeFmt i.typ
  let rs := ((v.elems x i i.a).zip (v.elems x i i.b)).map (fun p => op f p.1 p.2)
  v.writeElems c i i.d (rs.map (·.1)) (orFlags (rs.take (veActive i)))

/-- ADD. -/
def veOpAdd (c : Nat) (i : VeIns) (v : VeRun) : VeRun := v.binary c i opAdd
/-- SUB. -/
def veOpSub (c : Nat) (i : VeIns) (v : VeRun) : VeRun := v.binary c i opSub
/-- MUL. -/
def veOpMul (c : Nat) (i : VeIns) (v : VeRun) : VeRun := v.binary c i opMul

/-- FMA; IMM bit 0 negates A × B. -/
def veOpFma (c : Nat) (i : VeIns) (v : VeRun) : VeRun :=
  let x := v.ctx c
  let f := typeFmt i.typ
  let rs := ((v.elems x i i.a).zip ((v.elems x i i.b).zip (v.elems x i i.c))).map
    (fun p => opFma f (i.imm.testBit 0) p.1 p.2.1 p.2.2)
  v.writeElems c i i.d (rs.map (·.1)) (orFlags (rs.take (veActive i)))

/-- MIN. -/
def veOpMin (c : Nat) (i : VeIns) (v : VeRun) : VeRun :=
  v.binary c i (fun f a b => (opMinMax f false a b, 0))
/-- MAX. -/
def veOpMax (c : Nat) (i : VeIns) (v : VeRun) : VeRun :=
  v.binary c i (fun f a b => (opMinMax f true a b, 0))

/-- CMP: mask D from A and B; elements at and beyond the active length keep their bits. -/
def veOpCmp (c : Nat) (i : VeIns) (v : VeRun) : VeRun :=
  let x := v.ctx c
  let f := typeFmt i.typ
  let bs := ((v.elems x i i.a).zip (v.elems x i i.b)).map
    (fun p => opCmp (i.imm % 8) (f.decode p.1) (f.decode p.2))
  let old := FMap.get (fun _ => zeroMask) x.mks i.d
  v.setCtx c (x.setMask i.d (bs.take (veActive i) ++ old.drop (veActive i)))

/-- SEL: A where mask MK is 1, else B. -/
def veOpSel (c : Nat) (i : VeIns) (v : VeRun) : VeRun :=
  let x := v.ctx c
  let rs := ((v.mask x i.msk).zip ((v.elems x i i.a).zip (v.elems x i i.b))).map
    (fun p => if p.1 then p.2.1 else p.2.2)
  v.writeElems c i i.d rs 0

/-- MOVS. -/
def veOpMovs (c : Nat) (i : VeIns) (v : VeRun) : VeRun :=
  v.binary c i (fun f a b => (opMovs f (i.imm % 4) a b, 0))

/-- SPLIT: m into D and e into D + 1; IMM bit 0 is EVEN. -/
def veOpSplit (c : Nat) (i : VeIns) (v : VeRun) : VeRun :=
  let x := v.ctx c
  let rs := (v.elems x i i.a).map (split32 (i.imm.testBit 0))
  (v.writeElems c i i.d (rs.map (·.1)) 0).writeElems c i (i.d + 1) (rs.map (·.2)) 0

/-- JOIN: A × 2^B; IMM bit 0 negates B. -/
def veOpJoin (c : Nat) (i : VeIns) (v : VeRun) : VeRun :=
  v.binary c i (fun _ a b => join32 a (if i.imm.testBit 0 then movneg32 b else b))

/-- PERM: indices in B, the fill +0 or C's element (R275). With a 16-bit TYPE each index is read from B's half lane (log entry
85). -/
def veOpPerm (c : Nat) (i : VeIns) (v : VeRun) : VeRun :=
  let x := v.ctx c
  let a := v.elems x i i.a
  let idx := v.operand x i.b
  let fill := v.operand x i.c
  let n := (veActive i)
  let out := (List.range n).map (fun l =>
    let k := if i.typ = 0 then idx.getD l 0 else (splitLanes idx).getD l 0
    if k < n then (a.getD k 0, 0)
    else
      (if i.imm.testBit 0 then
        (if i.typ = 0 then fill.getD l 0 else fill.getD (l / 2) 0 % 2 ^ 16) else 0, flRange))
  v.writeElems c i i.d (out.map (·.1)) (orFlags out)

/-- An element of a TYPE as an FP32 pattern, exactly. -/
def toFp32 (typ e : Nat) : Nat := if typ = 0 then e else (ofVal32 ((typeFmt typ).decode e)).1

/-- A reduction result of FP32 as an element of a TYPE. -/
def fromFp32 (typ r : Nat) : Nat × Flags :=
  if typ = 0 then (r, 0) else (typeFmt typ).convert .nearest false (val32 r)

/-- The value a reduction delivers to a lane: the index for ARGMAX and ARGMIN. -/
def redValue (k : RedKind) (typ : Nat) (r : Nat × Nat × Flags) : Nat × Flags :=
  if k.isArg then (r.2.1, r.2.2)
  else
    let (w, f) := fromFp32 typ r.1
    (w, r.2.2 ||| f)

/-- The terms of elements `es`, at positions from `e0`, with masked ones absent. -/
def VeRun.redTerms (v : VeRun) (x : VeCtx) (i : VeIns) (e0 n : Nat) : List (Option Nat) :=
  let a := v.elems x i i.a
  let m := v.mask x i.msk
  (List.range n).map (fun l =>
    if m.getD (e0 + l) false && decide (e0 + l < (veActive i)) then some (toFp32 i.typ (a.getD (e0 + l) 0))
    else none)

/-- The key of a slot's row. -/
def slotKey (i : VeIns) (row : Nat) : Nat := (i.imm / 64 % 4) * 64 + row

/-- ACC: fold the step's terms of each row into a slot (R276); the flags so far are the engine's too (R127). -/
def VeRun.redAcc (v : VeRun) (c : Nat) (k : RedKind) (i : VeIns) : VeRun :=
  let x := v.ctx c
  let col0 := match v.inputs.head?, v.outSpecs.head? with
    | some t, some o => 64 * (o.desc.tilePos t.hdr.index).j
    | _, _ => 0
  (List.range v.stepRows).foldl (fun (u : VeRun) q =>
    let row := v.stepRows * x.step + q
    let cols := match v.inputs.head? with
      | some t => if row < t.rows then t.cols else 0
      | none => 64
    let st := FMap.get (fun _ => {}) u.slots (slotKey i row)
    let ts := v.redTerms x i (64 * q) cols
    let st' := (ts.zip (List.range ts.length)).foldl (fun s t => s.add k v.reach (col0 + t.2) t.1) st
    { u with slots := FMap.set (fun _ => {}) u.slots (slotKey i row) st'
             flags := u.flags ||| st'.flags ||| st'.sum.flags }) v

/-- GET: a slot's result for each row into that row's lanes below VL (R276). -/
def VeRun.redGet (v : VeRun) (c : Nat) (k : RedKind) (i : VeIns) : VeRun :=
  let es := (List.range (veActive i)).map (fun e =>
    let row := (v.place (v.ctx c) e).1
    redValue k i.typ ((FMap.get (fun _ => {}) v.slots (slotKey i row)).result k))
  v.writeElems c i i.d (es.map (·.1)) (orFlags es)

/-- RED (R276): lanes, rows, ACC or GET. -/
def veOpRed (c : Nat) (i : VeIns) (v : VeRun) : VeRun :=
  match redKindOf (i.imm % 16) with
  | none => v
  | some k =>
    if i.imm.testBit 8 then v.redGet c k i
    else if i.imm.testBit 5 then v.redAcc c k i
    else
      let x := v.ctx c
      if i.imm.testBit 4 then
        let rows := (List.range v.stepRows).map (fun q =>
          redValue k i.typ (reduceList k v.reach 0 (v.redTerms x i (64 * q) 64)))
        let es := (List.range (veActive i)).map (fun e => (rows.getD (e / 64) (0, 0)).1)
        v.writeElems c i i.d es (orFlags (rows.take (ceilDiv (veActive i) 64)))
      else
        let r := redValue k i.typ (reduceList k v.reach 0 (v.redTerms x i 0 (veActive i)))
        v.writeElems c i i.d (List.replicate (veActive i) r.1) r.2

/-- An element as LDQ loads it: an index format's bits, a 16-bit element of the TYPE, or the value decoded
to FP32 (R271). -/
def ldqElem (typ : Nat) (t : Tile) (x : TileCtx) (r c : Nat) : Nat × Flags :=
  if r < t.rows ∧ c < t.cols then
    match t.hdr.format with
    | 0x09 => (t.at r c, 0)
    | 0x08 => (if (t.at r c).testBit 7 then t.at r c % 256 + 0xFFFFFF00 else t.at r c % 256, 0)
    | _ => if typ = 0 then t.fp32 x r c else (t.at r c, 0)
  else (0, 0)

/-- LDQ: the step's elements of the tile on input port IMM 1:0 into D; flags are those of the decode. -/
def veOpLdq (c : Nat) (i : VeIns) (v : VeRun) : VeRun :=
  match v.inputs[i.imm % 4]? with
  | none => v
  | some t =>
    let x := v.inCtx.getD (i.imm % 4) {}
    let es := (List.range (veActive i)).map (fun e =>
      let p := v.place (v.ctx c) e
      ldqElem i.typ t x p.1 p.2)
    v.writeElems c i i.d (es.map (·.1)) (orFlags es)

/-- STQ: A's elements of the step to output port IMM 1:0. They are held exactly, as raw elements of the
instruction's TYPE widened to FP32, until the tile's last step converts them (R271). -/
def veOpStq (c : Nat) (i : VeIns) (v : VeRun) : VeRun :=
  let port := i.imm % 4
  let es := (v.elems (v.ctx c) i i.a).take (veActive i)
  let kvs := (es.zip (List.range es.length)).map (fun p =>
    let q := v.place (v.ctx c) p.2
    (4096 * port + 64 * q.1 + q.2, toFp32 i.typ p.1))
  { v with outs := FMap.setMany (fun _ => 0) v.outs kvs }

/-- (u + 0.5) × 2^-24 as an FP32 pattern (R277). From u = 2^23 on the number lies half way between two FP32 numbers: which of the
two stands is a free value, but for the last, where only the lower one lies in (0, 1) (log entry 86). -/
def dropoutValue (u : Nat) : Nat :=
  if u < 2 ^ 23 then (rn32 ⟨2 * u + 1, -25⟩).1
  else if u < 2 ^ 24 - 1 ∧ Config.rngUp u = true then (rn32 ⟨u + 1, -24⟩).1
  else (rn32 ⟨u, -24⟩).1

/-- RNG: (u + 0.5) × 2^-24 from the dropout word of each element on output port IMM 1:0 (R277). -/
def veOpRng (c : Nat) (i : VeIns) (v : VeRun) : VeRun :=
  match v.outSpecs[i.imm % 4]? with
  | none => v
  | some o =>
    let es := (List.range (veActive i)).map (fun e =>
      let p := v.place (v.ctx c) e
      dropoutValue (randomWord v.seed o.tensor (o.desc.flat v.tile p.1 p.2) v.stepNo .dropout / 256))
    v.writeElems c i i.d es 0

/-- FUNC: a microcoded function on each element of A (R278). -/
def veOpFunc (f : VeFn) (c : Nat) (i : VeIns) (v : VeRun) : VeRun :=
  let rs := (v.elems (v.ctx c) i i.a).take (veActive i) |>.map f.run
  v.writeElems c i i.d (rs.map (·.1)) (orFlags rs)

/-- NOP. -/
def veOpNop (_c : Nat) (_i : VeIns) (v : VeRun) : VeRun := v

/-! ## Programs -/

/-- An instruction of a program: its opcode, the passes it runs in, and its fields (Table 10.2). -/
structure VeWord where
  opc : Nat
  pass : Nat
  ins : VeIns
  deriving DecidableEq, Repr

/-- Decode an instruction word (Table 10.2). -/
def veDecode (w : Nat) : VeWord where
  opc := bitsOf w 63 58
  pass := bitsOf w 55 53
  ins :=
    { typ := bitsOf w 57 56, vl := bitsOf w 52 46 + 1, d := bitsOf w 45 40, a := bitsOf w 39 34
      b := bitsOf w 33 28, c := bitsOf w 27 22, msk := bitsOf w 21 19, imm := bitsOf w 18 0 }

/-- Run one decoded instruction in a context; a reserved opcode does nothing here, for R270 has refused the
program that holds it. -/
def VeWord.run (w : VeWord) (c : Nat) (v : VeRun) : VeRun :=
  match w.opc with
  | 0x01 => veOpAdd c w.ins v
  | 0x02 => veOpSub c w.ins v
  | 0x03 => veOpMul c w.ins v
  | 0x04 => veOpFma c w.ins v
  | 0x05 => veOpMin c w.ins v
  | 0x06 => veOpMax c w.ins v
  | 0x07 => veOpCmp c w.ins v
  | 0x08 => veOpSel c w.ins v
  | 0x09 => veOpMovs c w.ins v
  | 0x0A => veOpSplit c w.ins v
  | 0x0B => veOpJoin c w.ins v
  | 0x0C => veOpPerm c w.ins v
  | 0x0D => veOpRed c w.ins v
  | 0x0E => veOpLdq c w.ins v
  | 0x0F => veOpStq c w.ins v
  | 0x10 => veOpRng c w.ins v
  | 0x11 => match veFnOf (w.ins.imm % 32) with
    | some f => veOpFunc f c w.ins v
    | none => v
  | _ => veOpNop c w.ins v

/-- The bits of IMM an opcode names (Table 10.3); the others are reserved. -/
def immMask (opc : Nat) : Nat :=
  match opc with
  | 0x04 | 0x0A | 0x0B | 0x0C => 0x1
  | 0x07 => 0x7
  | 0x09 | 0x0E | 0x0F | 0x10 => 0x3
  | 0x0D => 0x1FF
  | 0x11 => 0x1F
  | _ => 0

/-- A slot form of RED. -/
def VeWord.slotForm (w : VeWord) : Bool :=
  w.opc == 0x0D && (w.ins.imm.testBit 5 || w.ins.imm.testBit 8)

/-- The field of an instruction word, by its lowest bit in Table 10.2, that breaks R268 or R270, if any. -/
def VeWord.badField (w : VeWord) (wide : Bool) (inPorts outPorts : Nat) : Option Nat :=
  let i := w.ins
  let imm := i.imm
  let dOk := match w.opc with
    | 0x00 | 0x0F => decide (i.d < 32)
    | 0x07 => decide (1 ≤ i.d ∧ i.d ≤ 7)
    | 0x0A => decide (i.d < 31)
    | _ => decide (i.d < 32)
  let typOk := decide (i.typ ≤ 2) && (i.typ != 0) == wide
    && !(i.typ ≠ 0 && (w.opc = 0x11 || w.opc = 0x0A || w.opc = 0x0B || w.opc = 0x10 || w.slotForm))
  let immOk := decide (Nat.land imm (2 ^ 19 - 1 - immMask w.opc) = 0)
    && (w.opc != 0x07 || decide (imm % 8 ≤ 6))
    && (w.opc != 0x0E || decide (imm % 4 < inPorts))
    && (!(w.opc == 0x0F || w.opc == 0x10) || decide (imm % 4 < outPorts))
    && (w.opc != 0x11 || (veFnOf (imm % 32)).isSome)
    && (w.opc != 0x0D ||
        match redKindOf (imm % 16) with
        | none => false
        | some k => (!k.isArg || w.slotForm) && !(imm.testBit 8 && (imm.testBit 4 || imm.testBit 5)))
  if 0x11 < w.opc then some 58 else if !typOk then some 56 else if !dOk then some 40 else if !immOk then some 0 else none

/-- No two slot forms name one slot with different kinds (R276). -/
def slotsAgree (ws : List VeWord) : Bool :=
  let fs := ws.filter VeWord.slotForm
  fs.all (fun a => fs.all (fun b =>
    a.ins.imm / 64 % 4 != b.ins.imm / 64 % 4 || a.ins.imm % 16 == b.ins.imm % 16))

/-- Some STQ of the last pass names every output port (R270). -/
def outputNamed (ws : List VeWord) (port passes : Nat) : Bool :=
  ws.any (fun w => w.opc == 0x0F && w.ins.imm % 4 == port && w.pass.testBit (passes - 1))

/-- The instruction runs in a pass: its PASS bit is set, and STQ runs only in the last one (R269, R271). -/
def VeWord.runsIn (w : VeWord) (pass passes : Nat) : Bool :=
  w.pass.testBit pass && (w.opc != 0x0F || decide (pass + 1 = passes))

/-- Run one step of a pass: its instructions in order, in the step's context. -/
def veStep (ws : List VeWord) (pass passes ctx : Nat) (v : VeRun) : VeRun :=
  ws.foldl (fun u w => if w.runsIn pass passes then w.run ctx u else u) v

/-- A context begins a step. -/
def VeRun.enterStep (v : VeRun) (c step : Nat) : VeRun := v.setCtx c { v.ctx c with step := step }

/-- The steps of one tile in a pass; `k` counts the steps of the task so far. -/
def veTile (ws : List VeWord) (pass passes k : Nat) (v : VeRun) : VeRun :=
  (List.range (64 / v.stepRows)).foldl
    (fun u s => veStep ws pass passes ((k + s) % 4) (u.enterStep ((k + s) % 4) s)) v

/-- Convert what the task stored on a port into the tile of its tensor (R271). -/
def VeRun.output (v : VeRun) (port gen epoch : Nat) : Tile × Flags :=
  let o := v.outSpecs.getD port { desc := {} }
  let raw (r c : Nat) : Nat := FMap.get (fun _ => 0) v.outs (4096 * port + 64 * r + c)
  if fmtOf o.desc.format = none then
    let w := if o.desc.format = 0x08 then 256 else 2 ^ 32
    let ps := extentPos (o.desc.extRows v.tile) (o.desc.extCols v.tile)
    ({ hdr := o.desc.header o.tensor v.tile gen epoch
       elems := codesAt (ps.map (fun p => (p, raw p.1 p.2 % w))) }, 0)
  else o.tile v.tile gen epoch (fun r c => val32 (raw r c))

/-! ## The instruction rows -/

/-- The VE `v` of a core. -/
def State.veRun (s : State) (core ve : Nat) : VeRun := FMap.get (fun _ => {}) s.ve (4 * core + ve)

/-- Write the VE of a core. -/
def State.setVe (s : State) (core ve : Nat) (v : VeRun) : State :=
  { s with ve := FMap.set (fun _ => {}) s.ve (4 * core + ve) v }

/-- The part has the VE (R283). -/
def State.veExists (s : State) (core ve : Nat) : Bool := decide (core < s.part.cores ∧ ve < s.part.vePerCore)

/-- One instruction on a context of a VE that the part has. -/
def State.veIssue (s : State) (core ve ctx : Nat) (op : Nat → VeIns → VeRun → VeRun) (i : VeIns) : State :=
  if s.veExists core ve then s.setVe core ve (op ctx i (s.veRun core ve)) else s

/-- VE_NOP. -/
def execVeNop (core ve ctx : Nat) (i : VeIns) (s : State) : Host.Outcome State Fault Refusal :=
  .next (s.veIssue core ve ctx veOpNop i)

/-- ADD in a context of a VE. -/
def execVeAdd (core ve ctx : Nat) (i : VeIns) (s : State) : Host.Outcome State Fault Refusal :=
  .next (s.veIssue core ve ctx veOpAdd i)

/-- SUB in a context of a VE. -/
def execVeSub (core ve ctx : Nat) (i : VeIns) (s : State) : Host.Outcome State Fault Refusal :=
  .next (s.veIssue core ve ctx veOpSub i)

/-- MUL in a context of a VE. -/
def execVeMul (core ve ctx : Nat) (i : VeIns) (s : State) : Host.Outcome State Fault Refusal :=
  .next (s.veIssue core ve ctx veOpMul i)

/-- FMA in a context of a VE. -/
def execVeFma (core ve ctx : Nat) (i : VeIns) (s : State) : Host.Outcome State Fault Refusal :=
  .next (s.veIssue core ve ctx veOpFma i)

/-- MIN in a context of a VE. -/
def execVeMin (core ve ctx : Nat) (i : VeIns) (s : State) : Host.Outcome State Fault Refusal :=
  .next (s.veIssue core ve ctx veOpMin i)

/-- MAX in a context of a VE. -/
def execVeMax (core ve ctx : Nat) (i : VeIns) (s : State) : Host.Outcome State Fault Refusal :=
  .next (s.veIssue core ve ctx veOpMax i)

/-- CMP in a context of a VE. -/
def execVeCmp (core ve ctx : Nat) (i : VeIns) (s : State) : Host.Outcome State Fault Refusal :=
  .next (s.veIssue core ve ctx veOpCmp i)

/-- SEL in a context of a VE. -/
def execVeSel (core ve ctx : Nat) (i : VeIns) (s : State) : Host.Outcome State Fault Refusal :=
  .next (s.veIssue core ve ctx veOpSel i)

/-- MOVS in a context of a VE. -/
def execVeMovs (core ve ctx : Nat) (i : VeIns) (s : State) : Host.Outcome State Fault Refusal :=
  .next (s.veIssue core ve ctx veOpMovs i)

/-- SPLIT in a context of a VE. -/
def execVeSplit (core ve ctx : Nat) (i : VeIns) (s : State) : Host.Outcome State Fault Refusal :=
  .next (s.veIssue core ve ctx veOpSplit i)

/-- JOIN in a context of a VE. -/
def execVeJoin (core ve ctx : Nat) (i : VeIns) (s : State) : Host.Outcome State Fault Refusal :=
  .next (s.veIssue core ve ctx veOpJoin i)

/-- PERM in a context of a VE. -/
def execVePerm (core ve ctx : Nat) (i : VeIns) (s : State) : Host.Outcome State Fault Refusal :=
  .next (s.veIssue core ve ctx veOpPerm i)

/-- RED in a context of a VE. -/
def execVeRed (core ve ctx : Nat) (i : VeIns) (s : State) : Host.Outcome State Fault Refusal :=
  .next (s.veIssue core ve ctx veOpRed i)

/-- The context works on the tile's last step. -/
def VeRun.lastStep (v : VeRun) (c : Nat) : Bool := decide (64 ≤ v.stepRows * ((v.ctx c).step + 1))

/-- STQ outside a task: after the tile's last step the port's tile is converted, its flags are raised, and it stands before
the output queue (R271). -/
def veOpStqTile (c : Nat) (i : VeIns) (v : VeRun) : VeRun :=
  let v := veOpStq c i v
  let port := i.imm % 4
  if v.lastStep c && decide (port < v.outSpecs.length) then
    let x := v.output port (v.gens.getD port 0) v.epoch
    { v with flags := v.flags ||| x.2, sent := v.sent ++ [(port, x.1)] }
  else v

/-- RNG in a context of a VE. -/
def execVeRng (core ve ctx : Nat) (i : VeIns) (s : State) : Host.Outcome State Fault Refusal :=
  .next (s.veIssue core ve ctx veOpRng i)

/-- FUNC rcp in a context of a VE. -/
def execVeRcp (core ve ctx : Nat) (i : VeIns) (s : State) : Host.Outcome State Fault Refusal :=
  .next (s.veIssue core ve ctx (veOpFunc .rcp) i)

/-- FUNC rsq in a context of a VE. -/
def execVeRsq (core ve ctx : Nat) (i : VeIns) (s : State) : Host.Outcome State Fault Refusal :=
  .next (s.veIssue core ve ctx (veOpFunc .rsq) i)

/-- FUNC exp in a context of a VE. -/
def execVeExp (core ve ctx : Nat) (i : VeIns) (s : State) : Host.Outcome State Fault Refusal :=
  .next (s.veIssue core ve ctx (veOpFunc .exp) i)

/-- FUNC log in a context of a VE. -/
def execVeLog (core ve ctx : Nat) (i : VeIns) (s : State) : Host.Outcome State Fault Refusal :=
  .next (s.veIssue core ve ctx (veOpFunc .log) i)

/-- FUNC tanh in a context of a VE. -/
def execVeTanh (core ve ctx : Nat) (i : VeIns) (s : State) : Host.Outcome State Fault Refusal :=
  .next (s.veIssue core ve ctx (veOpFunc .tanh) i)

/-- FUNC sigmoid in a context of a VE. -/
def execVeSigmoid (core ve ctx : Nat) (i : VeIns) (s : State) : Host.Outcome State Fault Refusal :=
  .next (s.veIssue core ve ctx (veOpFunc .sigmoid) i)

/-- FUNC silu in a context of a VE. -/
def execVeSilu (core ve ctx : Nat) (i : VeIns) (s : State) : Host.Outcome State Fault Refusal :=
  .next (s.veIssue core ve ctx (veOpFunc .silu) i)

/-- FUNC siluD in a context of a VE. -/
def execVeSiluD (core ve ctx : Nat) (i : VeIns) (s : State) : Host.Outcome State Fault Refusal :=
  .next (s.veIssue core ve ctx (veOpFunc .siluD) i)

/-- FUNC geluSig in a context of a VE. -/
def execVeGeluSig (core ve ctx : Nat) (i : VeIns) (s : State) : Host.Outcome State Fault Refusal :=
  .next (s.veIssue core ve ctx (veOpFunc .geluSig) i)

/-- FUNC geluSigD in a context of a VE. -/
def execVeGeluSigD (core ve ctx : Nat) (i : VeIns) (s : State) : Host.Outcome State Fault Refusal :=
  .next (s.veIssue core ve ctx (veOpFunc .geluSigD) i)

/-- FUNC geluTanh in a context of a VE. -/
def execVeGeluTanh (core ve ctx : Nat) (i : VeIns) (s : State) : Host.Outcome State Fault Refusal :=
  .next (s.veIssue core ve ctx (veOpFunc .geluTanh) i)

/-- FUNC geluTanhD in a context of a VE. -/
def execVeGeluTanhD (core ve ctx : Nat) (i : VeIns) (s : State) : Host.Outcome State Fault Refusal :=
  .next (s.veIssue core ve ctx (veOpFunc .geluTanhD) i)

end Sys2Proof.Machine
end

