-- ==== Sys2Proof/Machine/Product.lean ====
section
/-! DEFINITION. The product stations (chapters 5 and 7): MATMUL, SPMM, SPMM_T, SPSP and SDDMM, grouped products
(14.5), splits at reach boundaries (R131), partials of a sharded reduction (R132, R159) and the norm side output
(R155, R156). -/

namespace Sys2Proof.Machine

/-! ## What a row product computes -/

/-- A product whose output elements are sums of products of two operands (Table 7.1, R157): whether the reduction
is the last dimension of port 0 and of port 1, whether output rows are those of port 1, whether port 1 is sparse, FOLD_C,
NORM, the conversion byte of port 0, and E and C of a grouped product (R378). -/
structure RowProd where
  lred : Bool
  rred : Bool
  swap : Bool
  sparse : Bool
  fold : Bool
  norm : Nat
  conv : Nat
  grp : Option (Nat × Nat)

/-- LAYOUT, NORM and the conversion byte of a product station. -/
def rowProdOf (st : Station) (grp : Option (Nat × Nat)) : RowProd :=
  if st.typ = stMatmul then
    { lred := !(st.p 0 1).testBit 0, rred := (st.p 0 1).testBit 1, swap := false, sparse := false
      fold := (st.p 0 1).testBit 2
      norm := st.p 1 1, conv := st.p 2 1, grp := grp }
  else
    { lred := true, rred := st.typ != stSpmmT, swap := (st.p 0 1).testBit 0, sparse := true
      fold := (st.p 0 1).testBit 1
      norm := st.p 1 1, conv := st.p 2 1, grp := grp }

/-- The expert operand ids of a DISPATCH (Table 14.2), with its E and C. -/
def dispatchExperts (st : Station) : List (Nat × Nat × Nat) :=
  if st.typ = stRoute ∧ st.p 0 1 = 0 then
    ((List.range 4).map (fun i => (st.p (16 + 4 * i) 3, st.p 8 4, st.p 12 4))).filter (fun x => x.1 ≠ 0)
  else []

/-- The E and C that the DISPATCH stations of a course give an expert operand; more than one pair where they
disagree (R378). -/
def Course.expertOf (c : Course) (id : Nat) : List (Nat × Nat) :=
  ((c.stations.flatMap dispatchExperts).filterMap (fun x => if x.1 = id then some x.2 else none)).eraseDups

/-- The tensor that may make a product station grouped: the sparse input, B with TRANS_B, or MASK_ID. -/
def Course.groupTensor (c : Course) (st : Station) : Nat :=
  if st.typ = stSpmm ∨ st.typ = stSpmmT then c.inTensor st.id 1
  else if st.typ = stMatmul ∧ (st.p 0 1).testBit 1 then c.inTensor st.id 1
  else if st.typ = stSddmm then st.p 4 3
  else 0

/-- The E and C of a grouped station. -/
def Course.groupOf (c : Course) (st : Station) : Option (Nat × Nat) := (c.expertOf (c.groupTensor st)).head?

/-- The first extent that is not 1 decides; an extent of 1 is used for every index (R158). -/
def broadcastLead (d : TensorDesc) (idx : List Nat) : Nat :=
  (d.leading.zip idx).foldl (fun a q => a * q.1 + (if q.1 = 1 then 0 else q.2)) 0

/-- The values along the reduction of port 0: leading index, free index, reduction index. -/
def RowProd.left (p : RowProd) (o : Operand) (lead i k : Nat) : Val := if p.lred then o.at lead i k else o.at lead k i

/-- The values along the reduction of port 1. -/
def RowProd.right (p : RowProd) (o : Operand) (lead j k : Nat) : Val := if p.rred then o.at lead j k else o.at lead k j

/-- The reduction dimension of port 0 in `dims`. -/
def RowProd.redDim (p : RowProd) (d : TensorDesc) : Nat := if p.lred then d.dims.length - 1 else d.dims.length - 2

/-- The first row of port 1 for an output token row: that of the row's expert (Table 14.3). -/
def RowProd.expertBase (p : RowProd) (d : TensorDesc) (i : Nat) : Nat :=
  match p.grp with
  | some (e, c) => i % (e * c) / max 1 c * (d.rows / max 1 e)
  | none => 0

/-- The two operand rows of output element (r, c): free indices of port 0 and of port 1. -/
def RowProd.rowsOf (p : RowProd) (dR : TensorDesc) (r c : Nat) : Nat × Nat :=
  let i := if p.swap then c else r
  let j := if p.swap then r else c
  (i, (if p.rred then p.expertBase dR i else 0) + j)

/-- Where the reduction begins along port 1 for a token row: at its expert's rows in SPMM_T (Table 14.3). -/
def RowProd.redBase (p : RowProd) (dR : TensorDesc) (i : Nat) : Nat := if p.rred then 0 else p.expertBase dR i

/-- The reduction indices of the part, or those of the reaches that a split task computes (R131, R132). -/
def partIndices (W L : Nat) (e : JEntry) (ks : List Nat) : List Nat :=
  if e.reachCount = 0 then ks
  else (((windowsAt W ks).drop (e.reachFirst * L)).take (e.reachCount * L)).flatten

/-- A row product with what its task reads. -/
structure RowTask where
  p : RowProd
  L : Nat
  W : Nat
  ks : List Nat
  part : Bool
  dL : TensorDesc
  dR : TensorDesc
  dOut : TensorDesc

/-- What a task of a row product works on. -/
def State.rowTask (s : State) (t : Task) : RowTask :=
  let p := rowProdOf t.st (t.c.groupOf t.st)
  let dL := s.descOf (t.inId 0)
  let dR := s.descOf (t.inId 1)
  let q := p.redDim dL
  { p := p, L := 2 ^ t.c.reachLog2, W := min dL.window dR.window, ks := s.heldIndices dL q
    part := s.shardedDim dL q, dL := dL, dR := dR, dOut := s.descOf (t.outId 0) }

/-- C is loaded by the part that holds reduction index 0 (R132). -/
def RowTask.loadsC (w : RowTask) (st : Station) : Bool :=
  decide (st.inPorts = 3) && (!w.part || w.ks.head? == some 0)

/-- The expert of the rows of the task's output tile (R379). -/
def RowTask.expert (w : RowTask) (k : Nat) : Nat :=
  let pos := w.dOut.tilePos k
  match w.p.grp with
  | some (e, c) => 64 * (if w.p.swap then pos.j else pos.i) % max 1 (e * c) / max 1 c
  | none => 0

/-- The request for a station's expert that another device owns (14.6). -/
def State.requestFor (s : State) (c : Course) (st : Station) (expert : Nat) : Option ExpertReq :=
  s.net.requests.find? (fun r => decide (r.key.course = c.id ∧ r.key.station = st.id ∧ r.key.expert = expert))

/-- The request that a grouped task waits for. -/
def State.taskRequest (s : State) (t : Task) (w : RowTask) : Option ExpertReq :=
  match w.p.grp with
  | none => none
  | some _ => s.requestFor t.c t.st (w.expert t.e.tile)

/-- The output tile that an owner has answered (R380). -/
def ExpertReq.answerOf (r : ExpertReq) (k : Nat) : Option Tile := r.answers.find? (fun x => x.hdr.index = k)

/-- The panels of a row-product task: its tiles of ports 0 and 1 by ascending reduction index (R206). -/
def State.rowPanels (s : State) (t : Task) : List (Nat × Nat) :=
  let w := s.rowTask t
  let pos := w.dOut.tilePos t.e.tile
  let idx := leadIndices w.dOut.leading pos.lead
  let la := broadcastLead w.dL idx
  let lb := broadcastLead w.dR idx
  let ij := w.p.rowsOf w.dR (64 * pos.i) (64 * pos.j)
  let kt := sortNat ((partIndices w.W w.L t.e w.ks).map (fun k => k / 64))
  let left (k : Nat) := w.dL.tileIndex (if w.p.lred then ⟨la, ij.1 / 64, k⟩ else ⟨la, k, ij.1 / 64⟩)
  let base := w.p.redBase w.dR ij.1 / 64
  let right (k : Nat) := w.dR.tileIndex (if w.p.rred then ⟨lb, ij.2 / 64, k⟩ else ⟨lb, base + k, ij.2 / 64⟩)
  kt.map (fun k => (left k, right k))

/-- A block of port 1 that an expert's owner has sent for the task. -/
def State.fetchedBlock (s : State) (t : Task) (k : Nat) : Option Tile :=
  (s.taskRequest t (s.rowTask t)).bind (fun (r : ExpertReq) =>
    if r.done && !r.shipped then r.blocks.find? (fun x => decide (x.hdr.index = k)) else none)

/-- A task's tile of port 1, from its stream or from the expert's owner. -/
def State.rightTile (s : State) (t : Task) (k : Nat) : Option Tile :=
  match t.tile? 1 k with
  | some x => some x
  | none => s.fetchedBlock t k

/-- The task forms the terms of a panel itself: its rows are not shipped, and a block of port 1 that another device owns is
needed only where the token rows hold something (R380). -/
def State.panelUsed (s : State) (t : Task) (p : Nat × Nat) : Bool :=
  match s.taskRequest t (s.rowTask t) with
  | some r => !r.shipped
  | none => s.holds (s.rowTask t).dR p.2 || (match t.tile? 0 p.1 with
    | some x => !x.elems.isEmpty
    | none => true)

/-- Does the output tile of a task give OPERAND_A norms? Only those of tile 0 of the other dimension do. -/
def RowTask.givesOperand (w : RowTask) (k : Nat) : Bool :=
  let p := w.dOut.tilePos k
  if w.p.swap then decide (p.i = 0) else decide (p.j = 0)

/-- The tiles that a row-product task needs, as pairs of port and tile index: of port 1 those that its panels use and that no
owner has sent; of a panel whose sparse block is EMPTY the products take nothing (R207), but NORM OPERAND_A still takes its
dense tile (R195). -/
def State.rowNeeds (s : State) (t : Task) : List (Nat × Nat) :=
  let w := s.rowTask t
  let ps := s.rowPanels t
  let normed := decide (w.p.norm = 2) && w.givesOperand t.e.tile
  let empty (p : Nat × Nat) : Bool := w.p.sparse && (match s.rightTile t p.2 with
    | some x => x.recs.isEmpty
    | none => false)
  (ps.filter (fun p => normed || !empty p)).map (fun p => (0, p.1))
    ++ (ps.filter (fun p => s.panelUsed t p && (s.fetchedBlock t p.2).isNone)).map (fun p => (1, p.2))
    ++ (if w.loadsC t.st && decide (t.e.reachFirst = 0) then [(2, t.e.tile)] else [])

/-- The window sums of output element (r, c) of the tile's grid position (R119). -/
def RowTask.windows (w : RowTask) (A B : Operand) (la lb r c : Nat) : List (Option (Nat × Flags)) :=
  let ij := w.p.rowsOf w.dR r c
  let base := w.p.redBase w.dR ij.1
  windowSums w.W w.ks (fun k => mkTerm (w.p.left A la ij.1 k) (w.p.right B lb ij.2 (base + k)))

/-- The C operand of an element as FP32, with the flags of its decoding. -/
def cValue (C : Option (Tile × TileCtx)) (r c : Nat) : Option (Nat × Flags) :=
  C.map (fun x => x.1.fp32 x.2 (r % 64) (c % 64))

/-- The result of one element: its FP32 pattern and flags. -/
def RowTask.element (w : RowTask) (A B : Operand) (C : Option (Tile × TileCtx)) (la lb r c : Nat) : Nat × Flags :=
  let ws := w.windows A B la lb r c
  let cv := cValue C r c
  let cp := if w.p.fold then none else cv.map (fun x => x.1)
  let cl := if w.p.fold then cv.map (fun x => x.1) else none
  let x := sumOver w.L ws cp cl w.part
  (x.1, x.2 ||| (match cv with
    | some y => y.2
    | none => 0))

/-- The C tile that a task loads. -/
def State.cTile (s : State) (t : Task) (w : RowTask) : Option (Tile × TileCtx) :=
  if w.loadsC t.st then (t.tile? 2 t.e.tile).map (fun x => (x, s.ctxOf x)) else none

/-- Global row and column of the positions of an output tile. -/
def TensorDesc.globalPos (d : TensorDesc) (k : Nat) : List ((Nat × Nat) × (Nat × Nat)) :=
  let p := d.tilePos k
  (extentPos (d.extRows k) (d.extCols k)).map (fun q => (q, (64 * p.i + q.1, 64 * p.j + q.2)))

/-- A grouped task's answer is complete, if it asked for one. -/
def State.answered (s : State) (t : Task) (w : RowTask) : Bool :=
  match s.taskRequest t w with
  | none => true
  | some r => r.done && (!r.shipped || (r.answerOf t.e.tile).isSome)

/-- The operand of port 1 with the blocks that were fetched for the task's expert. -/
def State.rightOperand (s : State) (t : Task) (w : RowTask) : Operand :=
  let o := s.operand t 1
  match s.taskRequest t w with
  | none => o
  | some r => { o with tiles := o.tiles ++ r.blocks.map (fun x => (x, s.ctxOf x)) }

/-- A block or an answer that came from the owner is poisoned. -/
def State.remotePoison (s : State) (t : Task) (w : RowTask) : Bool :=
  match s.taskRequest t w with
  | none => false
  | some r => r.blocks.any (s.poisons t.c) || (match r.answerOf t.e.tile with
    | some x => x.hdr.poison
    | none => false)

/-- A block that came from an expert's owner and that R66, R67 or R189 forbids: its tile and the violation. -/
def State.remoteBad (s : State) (r : Option ExpertReq) : Option (Nat × Violation) :=
  r.bind (fun (r : ExpertReq) => r.blocks.findSome? (fun x => (s.tileBad x.hdr.tensor x).map (fun v => (x.hdr.index, v))))

/-- A fetched block halts the stream of the expert operand. -/
def State.haltRemote (s : State) (t : Task) (side : Side) (id : Nat) (v : Nat × Violation) : State :=
  if v.2.1 = 0 then s.haltParam t side (v.2.2 + (v.1 + 1) * 2 ^ 32) else s.haltSparse t side id v.2.1 v.1 v.2.2

/-- Every element of the task's output tile, by position, with the flags. -/
def State.rowValues (s : State) (t : Task) (w : RowTask) : FMap Nat × Flags :=
  let A := s.operand t 0
  let B := s.rightOperand t w
  let C := s.cTile t w
  let idx := leadIndices w.dOut.leading (w.dOut.tilePos t.e.tile).lead
  let xs := (w.dOut.globalPos t.e.tile).map (fun q =>
    (q.1, w.element A B C (broadcastLead w.dL idx) (broadcastLead w.dR idx) q.2.1 q.2.2))
  (codesAt (xs.map (fun x => (x.1, x.2.1))), orFlags (xs.map (fun x => x.2)))

/-! ## The norm side output (R155, R156) -/

/-- The sum of squares of some values in one reach. -/
def squareSum (W : Nat) (vs : List Val) : Nat × Flags :=
  refSum W 4096 (vs.map (fun v => mkTerm v v)) none none

/-- RESULT: the norms of the output tile's rows, over its columns: element (64i + r, j) of the side output. -/
def normResult (d : TensorDesc) (k : Nat) (vals : FMap Nat) : List ((Nat × Nat) × (Nat × Flags)) :=
  let p := d.tilePos k
  (List.range (d.extRows k)).map (fun r =>
    ((64 * p.i + r, p.j), squareSum 1 ((List.range (d.extCols k)).map (fun c =>
      val32 (FMap.get (fun _ => 0) vals (64 * r + c))))))

/-- OPERAND_A: the norms of the rows of port 0 over each of its 64-index tiles of the reduction: element (i, κ). -/
def State.normOperand (s : State) (t : Task) (w : RowTask) : List ((Nat × Nat) × (Nat × Flags)) :=
  let A := s.operand t 0
  let pos := w.dOut.tilePos t.e.tile
  let la := broadcastLead w.dL (leadIndices w.dOut.leading pos.lead)
  let i0 := 64 * (if w.p.swap then pos.j else pos.i)
  let rows := if w.p.swap then w.dOut.extCols t.e.tile else w.dOut.extRows t.e.tile
  let kts := sortNat (w.ks.map (fun k => k / 64))
  (List.range rows).flatMap (fun r => kts.map (fun kt =>
    ((i0 + r, kt), squareSum w.dL.window ((w.ks.filter (fun k => k / 64 = kt)).map (fun k =>
      w.p.left A la (i0 + r) k)))))

/-- The norms that a task contributes. -/
def State.normsOf (s : State) (t : Task) (w : RowTask) (vals : FMap Nat) :
    List ((Nat × Nat) × (Nat × Flags)) :=
  match w.p.norm with
  | 1 => normResult w.dOut t.e.tile vals
  | 2 => if w.givesOperand t.e.tile then s.normOperand t w else []
  | _ => []

/-- The output tiles whose tasks fill a tile of the side output. -/
def State.sideSources (s : State) (w : RowTask) (dS : TensorDesc) (u : Nat) : List Nat :=
  let q := dS.tilePos u
  (s.heldTiles w.dOut).filter (fun k =>
    let p := w.dOut.tilePos k
    if w.p.norm = 1 then decide (p.lead = q.lead ∧ p.i = q.i ∧ p.j / 64 = q.j)
    else w.givesOperand k && decide (p.lead = q.lead ∧ (if w.p.swap then p.j else p.i) = q.i))

/-- The side output after a task's norms, and the tiles it emits on port 1. -/
def State.sideStep (s : State) (t : Task) (w : RowTask) (poison : Bool) (ns : List ((Nat × Nat) × (Nat × Flags))) :
    SideOut × List (Nat × Tile) :=
  let dS := s.descOf (t.outId 1)
  let lead := (w.dOut.tilePos t.e.tile).lead
  let o := t.st.side.take dS t.e.tile poison (ns.map (fun n => ((lead, n.1.1, n.1.2), n.2.1)))
  (o, s.sideTiles t 1 o (s.sideSources w dS))

/-! ## Delivering a row product -/

/-- The output tile of results: LONG_SUM partials of a sharded reduction, else converted. -/
def State.rowTile (s : State) (t : Task) (w : RowTask) (vals : FMap Nat) : Tile × Flags × List WeirIn :=
  let v (r c : Nat) : Nat := FMap.get (fun _ => 0) vals (64 * r + c)
  if w.part then (s.partTile t 0 t.e.tile v, 0, [])
  else
    let x := s.convTile t 0 w.p.conv t.e.tile (fun r c => val32 (v r c))
    (x.1, x.2.1, [x.2.2])

/-- A tile with the poison tag on some of its elements (R161). -/
def Tile.tagged (x : Tile) (ps : List Nat) : Tile := { x with tags := ps }

/-- A whole output tile with its norms goes out; `tags` are its elements that carry the poison tag. -/
def State.deliverRow (s : State) (t : Task) (w : RowTask) (poison : Bool) (vals : FMap Nat) (fl : Flags)
    (tags : List Nat := []) : State :=
  let y := s.rowTile t w vals
  let x := (y.1.tagged tags, y.2)
  if w.p.norm = 0 then s.deliver t poison [(0, x.1)] (fl ||| x.2.1) x.2.2
  else
    let ns := s.normsOf t w vals
    let side := s.sideStep t w (poison || t.e.poisoned) ns
    let nf := orFlags (ns.map (fun n => n.2))
    s.guarded t none (fun id => x.1.hdr.longSum && decide (t.outId 0 = id)) (fun s =>
      if s.probing t x.2.2 then s.probeTask t x.2.2
      else
        let s := s.updStation t (fun q => { q with side := side.1 })
        (s.deliver t poison [(0, x.1)] (fl ||| x.2.1 ||| nf) x.2.2).emitTiles t side.2)

/-! ## Split parts (R131) -/

/-- Reaches of a reduction. -/
def reachesOf (L windows : Nat) : Nat := max 1 (ceilDiv windows L)

/-- Reaches of the task's reduction. -/
def RowTask.reaches (w : RowTask) : Nat := reachesOf w.L (windowsAt w.W w.ks).length

/-- The reach sums that a part's engine computes, by reach, for every element. -/
def State.partSums (s : State) (t : Task) (w : RowTask) : FMap (FMap Nat) × Flags :=
  let A := s.operand t 0
  let B := s.rightOperand t w
  let C := if w.p.fold then none else s.cTile t w
  let idx := leadIndices w.dOut.leading (w.dOut.tilePos t.e.tile).lead
  let xs := (List.range t.e.reachCount).map (fun q =>
    let r := t.e.reachFirst + q
    let es := (w.dOut.globalPos t.e.tile).map (fun g =>
      let cv := if r = 0 then cValue C g.2.1 g.2.2 else none
      let ws := w.windows A B (broadcastLead w.dL idx) (broadcastLead w.dR idx) g.2.1 g.2.2
      let x := reachSum w.L ws (cv.map (fun x => x.1)) r
      (g.1, (x.1, x.2 ||| (match cv with
        | some y => y.2
        | none => 0))))
    (r, codesAt (es.map (fun e => (e.1, e.2.1))), orFlags (es.map (fun e => e.2))))
  (FMap.setMany (fun _ => []) [] (xs.map (fun x => (x.1, x.2.1))), orFlags (xs.map (fun x => (0, x.2.2))))

/-- The finished parts of a tile, in the journal. -/
def State.partsOf (s : State) (t : Task) : List JEntry :=
  (s.journal.filterMap (fun kv => kv.2)).filter (fun e =>
    decide (e.course = t.e.course ∧ e.station = t.e.station ∧ e.tile = t.e.tile ∧ 0 < e.reachCount) && e.finished)

/-- The owner folds the reach sums of every part in ascending reach order. -/
def State.ownerValues (s : State) (t : Task) (w : RowTask) (sums : FMap Tile) (n : Nat) : FMap Nat × Flags :=
  let C := if w.p.fold then s.cTile t w else none
  let xs := (w.dOut.globalPos t.e.tile).map (fun g =>
    let accs := (List.range n).map (fun r => (FMap.get (fun _ => ({} : Tile)) sums r).at g.1.1 g.1.2)
    let cv := cValue C g.2.1 g.2.2
    let st := foldReaches (cv.map (fun x => x.1)) accs
    let x := longResult st.long
    (g.1, (x.1, st.flags ||| x.2 ||| (match cv with
      | some y => y.2
      | none => 0))))
  (codesAt (xs.map (fun x => (x.1, x.2.1))), orFlags (xs.map (fun x => x.2)))

/-- The reach sums of a part as LONG_SUM tiles, by reach (R131, R153), tagged elements among them (R161). -/
def State.reachTiles (s : State) (t : Task) (poison : Bool) (sums : FMap (FMap Nat)) (tags : List Nat) : FMap Tile :=
  (List.range t.e.reachCount).map (fun q =>
    let r := t.e.reachFirst + q
    let x := s.partTile t 0 t.e.tile (fun i c => FMap.get (fun _ => 0) (FMap.get (fun _ => []) sums r) (64 * i + c))
    (r, (x.tagged tags).poisoned poison))

/-- The drain of an output tile is column-contiguous: its contiguous dimension is not the bank-column index (R152,
R195). -/
def RowTask.byColumn (w : RowTask) : Bool :=
  if w.p.sparse && !w.p.swap then !w.dOut.colOrder else w.dOut.colOrder

/-- A column-contiguous drain passes a transpose buffer, the two in turn (R152). -/
def State.passTurn (s : State) (t : Task) (byColumn : Bool) (x : Tile) : State :=
  if !byColumn || t.e.engine ≠ 0 then s
  else
    let m := (s.core t.e.core).me t.e.index
    let cells : FMap Nat := FMap.setMany (fun _ => 0) [] (x.elems.map (fun e => (64 * (e.1 % 64) + e.1 / 64, e.2)))
    s.setMe t.e.core t.e.index
      (if m.nextTurn then { m with turn1 := cells, nextTurn := false } else { m with turn0 := cells, nextTurn := true })

/-- The reach sums of a tile's finished parts with those of the part at hand. -/
def State.allSums (s : State) (t : Task) (mine : FMap Tile) : FMap Tile :=
  ((s.partsOf t).map (fun o => o.sums)).foldl (fun m o => o.foldl (fun m x => FMap.insert m x.1 x.2) m) mine

/-- Every reach of the reduction is there. -/
def RowTask.joined (w : RowTask) (all : FMap Tile) : Bool :=
  (List.range w.reaches).all (fun r => all.any (fun kv => kv.1 = r))

/-- A part of a split reduction is done: its reach sums, and once every reach is there the whole tile, which drains like one
that was not split (R152). -/
def State.joinPart (s : State) (t : Task) (w : RowTask) (poison : Bool) (sums : FMap (FMap Nat)) (fl : Flags)
    (tags : List Nat := []) : State :=
  let mine := s.reachTiles t (poison || t.e.poisoned) sums tags
  let e := { t.e with sums := mine }
  let others := s.partsOf t
  let all := s.allSums t mine
  let t := { t with e := e }
  if w.joined all then
    let v := s.ownerValues t w all w.reaches
    let tagged := all.flatMap (fun r => r.2.tags)
    (s.passTurn t w.byColumn (s.rowTile t w v.1).1).deliverRow t w (poison || others.any (fun o => o.poisoned)) v.1
      (fl ||| v.2) tagged
  else s.finish t poison [] fl

/-! ## Bands and stragglers (R206, R209, R210) -/

/-- The unsplit task of another output tile of the station. -/
def Task.onTile (t : Task) (k : Nat) : Task := { t with e := { t.e with tile := k, reachCount := 0 } }

/-- The blocks of the sparse operand that an output tile of the station uses, those that an owner has sent among them; none
while they have not come. -/
def State.blocksOf (s : State) (t : Task) (k : Nat) : List (Option Tile) :=
  let u := t.onTile k
  ((s.rowPanels u).filter (s.panelUsed u)).map (fun p => s.rightTile u p.2)

/-- The NREC sum of an output tile: that of its blocks of the sparse operand. -/
def State.nrecSum (s : State) (t : Task) (k : Nat) : Nat :=
  ((s.blocksOf t k).filterMap (fun b => b.map Tile.nrec)).foldl (· + ·) 0

/-- Every block of an output tile is there, so that its NREC sum is known. -/
def State.nrecKnown (s : State) (t : Task) (k : Nat) : Bool := (s.blocksOf t k).all Option.isSome

/-- The tile of the dense operand's free index that an output tile uses: the bank-column tile of a band (R206). -/
def RowTask.bandColumn (w : RowTask) (k : Nat) : Nat × Nat :=
  let p := w.dOut.tilePos k
  (p.lead, if w.p.swap then p.j else p.i)

/-- A band is as R206 states: at most ME_PER_CORE tasks of held output tiles, all different, with one bank-column tile. -/
def State.bandOk (s : State) (t : Task) (w : RowTask) (band : List Nat) : Bool :=
  band.contains t.e.tile && decide (band.length ≤ mePerCore ∧ (sortNat band).length = band.length)
    && band.all (fun k => s.holds w.dOut k && w.bandColumn k == w.bandColumn t.e.tile)

/-- The members of a band that run are on one core, one on each ME (R206). -/
def State.bandPlaced (s : State) (t : Task) (core index : Nat) (band : List Nat) : Bool :=
  ((s.journal.filterMap (fun kv => kv.2)).filter (fun e =>
    decide (e.course = t.c.id ∧ e.station = t.st.id ∧ e.reachCount = 0 ∧ e.tile ≠ t.e.tile) && e.state == .issued
      && band.contains e.tile)).all (fun e => decide (e.core = core ∧ e.index ≠ index))

/-- The size test of R209: more than four times the band's mean NREC sum. A task is issued only once the sums of its whole band
are known (`State.splitOk`); at its run, a band whose blocks have since been consumed is not judged again (log entry 117). -/
def State.oversize (s : State) (t : Task) (band : List Nat) : Bool :=
  band.all (s.nrecKnown t)
    && decide (4 * (band.map (s.nrecSum t)).foldl (· + ·) 0 < s.nrecSum t t.e.tile * band.length)

/-- The task is a straggler of its band: it meets the size test within one reach. -/
def State.straggles (s : State) (t : Task) (w : RowTask) (band : List Nat) : Bool :=
  s.bandOk t w band && s.oversize t band && decide (w.reaches = 1)

/-- A range of reaches is one of the parts of R209: as many as there are reaches, up to ME_PER_CORE, contiguous and with
counts as near equal as possible (log entry 92). -/
def splitPart (reaches first count : Nat) : Bool :=
  let n := min reaches mePerCore
  (List.range n).any (fun i => decide (first = i * reaches / n ∧ first + count = (i + 1) * reaches / n))

/-- A sparse product's order names the task's band and splits the task exactly where R209 has it split; a dense product may be
split at any reach (R131). -/
def State.splitOk (s : State) (t : Task) (core index : Nat) (band : List Nat) : Bool :=
  if t.e.reachCount ≠ 0 ∧ (!isProduct t.st.typ || t.st.typ == stSddmm) then false
  else if !(t.st.typ == stSpmm || t.st.typ == stSpmmT || t.st.typ == stSpsp) then
    decide (t.e.reachCount = 0 ∨ t.e.reachFirst + t.e.reachCount ≤ (s.rowTask t).reaches)
  else
    let w := s.rowTask t
    let big := decide (2 ≤ w.reaches) && s.oversize t band
    s.bandOk t w band && band.all (s.nrecKnown t) && (if t.e.reachCount = 0 then s.bandPlaced t core index band && !big
      else big && splitPart w.reaches t.e.reachFirst t.e.reachCount)

/-- A straggler is counted and reported once per tile and course. -/
def State.noteStraggler (s : State) (t : Task) (w : RowTask) (band : List Nat) : State :=
  match s.course t.c.id with
  | none => s
  | some c =>
    let warn := (0x0002, t.st.id, 0, t.e.tile)
    if s.straggles t w band && !c.warnings.contains warn then
      s.setCourse { c with warnings := c.warnings ++ [warn], stragglers := c.stragglers + 1 }
    else s

/-! ## Conditions (R95, R158, R159, R192, R379) -/

/-- A block-scaled dense operand lies across the reduction (R95). -/
def badLayout (d : TensorDesc) (redLast : Bool) : Bool :=
  decide (d.scaleBlk ≠ 0) && !d.sparse && (d.colOrder == redLast)

/-- Sharding entries of two dimensions agree. -/
def sameShard (a : TensorDesc) (i : Nat) (b : TensorDesc) (j : Nat) : Bool :=
  a.shards.getD i 0 == b.shards.getD j 0

/-- The side-output tensor is as R155 states: the leading extents and rows, one column for each 64-index tile of
the other dimension, FP32, and the sharding of the rows. -/
def sideOk (dS dOut rowsOf : TensorDesc) (rowDim extent : Nat) : Bool :=
  decide (dS.format = 0 ∧ dS.rank = dOut.rank) && dS.dims == dOut.leading ++ [rowsOf.dims.getD rowDim 0, ceilDiv extent 64]
    && sameShard dS (dS.dims.length - 2) rowsOf rowDim

/-- Experts of a grouped station: the extents of port 1 are E times those of one product. -/
def expertCount (grp : Option (Nat × Nat)) : Nat :=
  match grp with
  | some (e, _) => e
  | none => 1

/-- Token groups G of a tensor whose second-to-last dimension is the token dimension (R370). -/
def State.groups (s : State) (x : TensorDesc) : Nat :=
  let e := x.shards.getD (x.dims.length - 2) 0
  if shardKind e = 0 then 1 else axisSize s.mesh (shardAxis e)

/-- A grouped product's dispatch-layout tensor does not have the rank 2 and the G·E·C rows of Table 14.3. -/
def State.notDispatch (s : State) (grp : Option (Nat × Nat)) (x : TensorDesc) : Bool :=
  match grp with
  | some (e, c) => decide (x.rank ≠ 2 ∨ x.rows ≠ s.groups x * e * c)
  | none => false

/-- A tile that has come on a port is of the other kind than the port takes: sparse, or dense (R192). -/
def Task.wrongKind (t : Task) (port : Nat) (sparse : Bool) : Bool :=
  (t.tiles port).any (fun x => decide (0x10 ≤ x.hdr.format) != sparse)

/-- The first condition of R158, R159 or R378 that a MATMUL breaks: the parameter byte, or 0x100 + port. -/
def State.matmulBad (s : State) (t : Task) : Option Nat :=
  let st := t.st
  let grp := t.c.groupOf st
  let p := rowProdOf st grp
  let a := s.descOf (t.inId 0)
  let b := s.descOf (t.inId 1)
  let o := s.descOf (t.outId 0)
  let n := o.dims.length
  let ka := if p.lred then n - 1 else n - 2
  let ma := if p.lred then n - 2 else n - 1
  let kb := if p.rred then n - 1 else n - 2
  let nb := if p.rred then n - 2 else n - 1
  let part := s.shardedDim a ka
  let fail (c : Bool) (w : Nat) : Option Nat := if c then some w else none
  fail (decide (st.params.length ≠ 16 ∨ 8 ≤ st.p 0 1)) 0 <|> fail (decide (2 < st.p 1 1)) 1
    <|> fail (decide (st.p 3 1 ≠ 0)) 3 <|> fail (!st.zero 4 16) 4
    <|> fail (decide (1 < (t.c.expertOf (t.c.groupTensor st)).length)) 0x101
    <|> fail (decide ((st.outPorts = 2) ≠ (st.p 1 1 ≠ 0))) 1
    <|> fail (decide (o.rank < 2) || o.sparse && decide (o.rank ≠ 2)) 0x200
    <|> fail (decide (a.rank ≠ o.rank ∨ a.sparse) || badLayout a p.lred) 0x100
    <|> fail (decide (b.rank ≠ o.rank ∨ b.sparse) || badLayout b p.rred) 0x101
    <|> fail (decide (a.dims.getD ka 0 ≠ b.dims.getD kb 0) || !sameShard a ka b kb) 0x101
    <|> fail (decide (a.dims.getD ma 0 ≠ o.dims.getD (n - 2) 0) || !sameShard a ma o (n - 2)) 0x100
    <|> fail (decide (b.dims.getD nb 0 ≠ expertCount grp * o.dims.getD (n - 1) 0)
        || (grp.isNone && !sameShard b nb o (n - 1))) 0x101
    <|> fail ((List.range (n - 2)).any (fun q =>
        !([1, o.dims.getD q 0].contains (a.dims.getD q 0)))) 0x100
    <|> fail ((List.range (n - 2)).any (fun q =>
        !([1, o.dims.getD q 0].contains (b.dims.getD q 0)))) 0x101
    <|> fail (s.notDispatch grp o) 0x200
    <|> fail (decide (st.inPorts = 3) && ((s.descOf (t.inId 2)).dims != o.dims || decide ((s.descOf (t.inId 2)).rank ≠ o.rank))) 0x102
    <|> fail (part && decide (o.format ≠ 0 ∨ st.p 1 1 = 1)) 0x200
    <|> fail (decide (st.p 1 1 = 1) && !sideOk (s.descOf (t.outId 1)) o o (n - 2) (o.dims.getD (n - 1) 0)) 0x201
    <|> fail (decide (st.p 1 1 = 2) && !sideOk (s.descOf (t.outId 1)) o a ma (a.dims.getD ka 0)) 0x201

/-- The first condition of R192, Table 7.2 or R378 that an SPMM, SPMM_T or SPSP breaks. -/
def State.spmmBad (s : State) (t : Task) : Option Nat :=
  let st := t.st
  let grp := t.c.groupOf st
  let p := rowProdOf st grp
  let spsp := st.typ == stSpsp
  let d := s.descOf (t.inId 0)
  let m := s.descOf (t.inId 1)
  let o := s.descOf (t.outId 0)
  let n := d.dims.length
  let km := if p.rred then 1 else 0
  let fm := 1 - km
  let tRow := if p.swap then n - 1 else n - 2
  let fRow := if p.swap then n - 2 else n - 1
  let part := s.shardedDim d (n - 1)
  let er := if p.rred then 1 else expertCount grp
  let ef := if p.rred then expertCount grp else 1
  let fail (c : Bool) (w : Nat) : Option Nat := if c then some w else none
  fail (decide (st.params.length ≠ 16 ∨ 4 ≤ st.p 0 1)) 0
    <|> fail (decide (2 < st.p 1 1) || (spsp && decide (st.p 1 1 ≠ 0))) 1
    <|> fail (decide (st.p 3 1 ≠ 0)) 3 <|> fail (!st.zero 4 7) 4 <|> fail (!st.zero 7 16) 7
    <|> fail (decide (1 < (t.c.expertOf (t.c.groupTensor st)).length)) 0x101
    <|> fail (!spsp && decide ((st.outPorts = 2) ≠ (st.p 1 1 ≠ 0))) 1
    <|> fail (decide (d.rank < 2) || (d.sparse != spsp) || (spsp && decide (d.rank ≠ 2)) || badLayout d true
        || t.wrongKind 0 spsp || s.notDispatch grp d) 0x100
    <|> fail (!m.sparse || decide (m.rank ≠ 2) || t.wrongKind 1 true) 0x101
    <|> fail (decide (er * d.dims.getD (n - 1) 0 ≠ m.dims.getD km 0)
        || ((grp.isNone || p.rred) && !sameShard d (n - 1) m km)) 0x101
    <|> fail (decide (o.rank ≠ d.rank) || o.leading != d.leading) 0x200
    <|> fail (decide (o.dims.getD tRow 0 ≠ d.dims.getD (n - 2) 0) || !sameShard o tRow d (n - 2)) 0x200
    <|> fail (decide (ef * o.dims.getD fRow 0 ≠ m.dims.getD fm 0)) 0x200
    <|> fail ((grp.isNone || !p.rred) && !sameShard o fRow m fm) 0x200
    <|> fail ((List.range (n - 2)).any (fun q => !sameShard o q d q)) 0x200
    <|> fail (decide (st.inPorts = 3) && ((s.descOf (t.inId 2)).dims != o.dims || decide ((s.descOf (t.inId 2)).rank ≠ o.rank)
        || (s.descOf (t.inId 2)).sparse || t.wrongKind 2 false)) 0x102
    <|> fail (part && decide (o.elemCode ≠ 0 ∨ st.p 1 1 = 1)) 0x200
    <|> fail (decide (st.p 1 1 = 1) && !sideOk (s.descOf (t.outId 1)) o o (n - 2) (o.dims.getD (n - 1) 0)) 0x201
    <|> fail (decide (st.p 1 1 = 2) && !sideOk (s.descOf (t.outId 1)) o d (n - 2) (d.dims.getD (n - 1) 0)) 0x201

/-- The elements of a tile that another device has formed under token shipping. -/
def State.shippedValues (s : State) (t : Task) (w : RowTask) : Option (FMap Nat × Flags) :=
  match s.taskRequest t w with
  | none => none
  | some r => if r.shipped then (r.answerOf t.e.tile).map (fun x => (x.elems, 0)) else none

/-- Segments in which a port's tile of a task travels. -/
def State.portSegments (s : State) (t : Task) (port : Nat) : Nat :=
  let d := s.descOf (t.outId port)
  if d.scaleBlk = 0 ∧ (d.elemCode = 0 ∨ d.elemCode = 9) then 2 else 1

/-- The tile queue of an output stream has no room for the tile that is due on it, so that the drain pauses (R38, R154). -/
def State.heldBack (s : State) (t : Task) : Bool :=
  decide (t.e.reachCount = 0) && (t.c.outStreams t.st.id 0).any (fun x =>
    match x.buffer with
    | .queue core q =>
      x.mayEmit (s.portTiles t.c t.st.id 0) { hdr := { index := t.e.tile } }
        && !(s.queue core q).roomFor (s.portSegments t 0)
    | _ => false)

/-- The tile may run as a whole: the bank that the next output tile of the task's ME takes is IDLE and no slab of the task has
run (R150), and its output stream does not hold its drain back (R154). -/
def State.bankReady (s : State) (t : Task) : Bool :=
  let m := (s.core t.e.core).me t.e.index
  decide (t.e.engine ≠ 0) || ((m.bankOf t.j).isNone && (m.bank m.nextB).state == .idle && !s.heldBack t)

/-- A tile runs as a whole: it takes a bank, folds and drains it within one command, and the next tile takes the other
bank (R150). -/
def State.bankTurn (s : State) (t : Task) : State :=
  if t.e.engine ≠ 0 then s
  else
    let m := (s.core t.e.core).me t.e.index
    s.setMe t.e.core t.e.index { m with nextB := !m.nextB }

/-- What a row-product task's output depends on is poisoned: a tile it needs, or what its expert's owner sent. -/
def State.rowPoison (s : State) (t : Task) (w : RowTask) : Bool := s.poisonedIn t (s.rowNeeds t) || s.remotePoison t w

/-- A row product runs: its conditions, then the tile or the part. -/
def State.rowProduct (s : State) (t : Task) (bad : Option Nat) (band : List Nat) : State :=
  match bad with
  | some w => s.haltFormat t w
  | none =>
    let w := s.rowTask t
    if !t.ready (s.rowNeeds t) || !s.answered t w then s
    else match s.remoteBad (s.taskRequest t w) with
    | some v => s.haltRemote t (.input 1) (t.inId 1) v
    | none =>
      let poison := s.rowPoison t w
      match s.shippedValues t w with
      | some v => s.deliverRow t w poison v.1 v.2
      | none =>
        if !s.bankReady t then s
        else
          let s := (s.bankTurn t).noteStraggler t w band
          if t.e.reachCount = 0 then
            let v := s.rowValues t w
            (s.passTurn t w.byColumn (s.rowTile t w v.1).1).deliverRow t w poison v.1 v.2
          else
            let v := s.partSums t w
            s.joinPart t w poison v.1 v.2

/-- A record-buffer or bucket word of an MU fails its parity: logged with the MU, the task abandoned (Table 7.6). -/
def State.muParity (s : State) (t : Task) (mu : Nat) : State := (s.logTask t 0x0015 t.st.id mu).abandon t.j

/-- MATMUL_TASK (R160). -/
def execMatmulTask (j : Nat) (s : State) : Host.Outcome State Fault Refusal :=
  s.runTask j stMatmul (fun t => s.rowProduct t (s.matmulBad t) [])

/-- The MU that serves an ME (R200). -/
def muOf (me : Nat) : Nat := me / 4

/-- Blocks of the task pass through the MU: of an SPMM_T those that are not TS-D, of an SPSP all; none of an SPMM (R200,
R205). -/
def State.usesMu (s : State) (t : Task) (mu : Nat) : Bool :=
  decide (mu = muOf t.e.index) && (t.st.typ == stSpsp ||
    (t.st.typ == stSpmmT && (s.blocksOf t t.e.tile).any (fun b => b.any (fun x => x.form != bfD && !x.recs.isEmpty))))

/-- A sparse row product: `band` are the output tiles of the task's band (R206), `mu` the MU whose parity fails, where the
task's blocks pass through it. -/
def State.sparseProduct (s : State) (j typ : Nat) (band : List Nat) (mu : Option Nat) :
    Host.Outcome State Fault Refusal :=
  s.runTask j typ (fun t => match mu with
    | some m => if s.usesMu t m then s.muParity t m else s.rowProduct t (s.spmmBad t) band
    | none => s.rowProduct t (s.spmmBad t) band)

/-- SPMM_TASK (R194). -/
def execSpmmTask (j : Nat) (band : List Nat) (mu : Option Nat) (s : State) : Host.Outcome State Fault Refusal :=
  s.sparseProduct j stSpmm band mu

/-- SPMM_T_TASK (R200): the term order of the merge unit's re-sort changes no bit (R194). -/
def execSpmmTTask (j : Nat) (band : List Nat) (mu : Option Nat) (s : State) : Host.Outcome State Fault Refusal :=
  s.sparseProduct j stSpmmT band mu

/-- SPSP_TASK (R205): dropped records are null terms. -/
def execSpspTask (j : Nat) (band : List Nat) (mu : Option Nat) (s : State) : Host.Outcome State Fault Refusal :=
  s.sparseProduct j stSpsp band mu

/-! ## SDDMM (R202 to R204) -/

/-- The candidates of a list: flat positions in ascending tile and column order of its tiles. -/
def listValues (ts : List Tile) : List Nat :=
  ts.flatMap (fun x => (extentPos x.rows x.cols).map (fun p => x.at p.1 p.2))

/-- The expert that an output row tile of a grouped SDDMM belongs to, and the row within it. -/
def sddmmRow (grp : Option (Nat × Nat)) (outRows r : Nat) : Nat × Nat :=
  match grp with
  | none => (0, r)
  | some (e, _) => let o := outRows / max 1 e; (r / max 1 o, r % max 1 o)

/-- The rows of the dense operands over which an output row sums, with their reduction index (Table 14.3). -/
def sddmmRows (grp : Option (Nat × Nat)) (expert : Nat) (held : List Nat) : List (Nat × Nat) :=
  match grp with
  | none => held.map (fun r => (r, r))
  | some (e, c) =>
    (held.filter (fun r => decide (r % (e * c) / max 1 c = expert))).map (fun r =>
      (r, r / max 1 (e * c) * c + r % max 1 c))

/-- The windows of a sum over pairs of operand row and reduction index. -/
def windowsOn (W : Nat) (ks : List (Nat × Nat)) : List (List (Nat × Nat)) :=
  ks.splitBy (fun a b => a.2 / W == b.2 / W)

/-- The tiles an SDDMM task needs: the dense tiles of its rows and columns, and the whole candidate list. -/
def State.sddmmNeeds (s : State) (t : Task) : List (Nat × Nat) :=
  let a := s.descOf (t.inId 0)
  let b := s.descOf (t.inId 1)
  let o := s.descOf (t.outId 0)
  let grp := t.c.groupOf t.st
  let p := o.tilePos t.e.tile
  let er := sddmmRow grp o.rows (64 * p.i)
  let rs := sortNat ((sddmmRows grp er.1 (s.heldIndices a 0)).map (fun k => k.1 / 64))
  rs.map (fun k => (0, a.tileIndex ⟨0, k, er.2 / 64⟩)) ++ rs.map (fun k => (1, b.tileIndex ⟨0, k, p.j⟩))
    ++ (if t.st.inPorts = 3 then (s.heldTiles (s.descOf (t.inId 2))).map (fun k => (2, k)) else [])

/-- The value of output element (r, c) of an SDDMM over those of some rows of its dense operands that belong to it. -/
def State.sddmmOver (s : State) (t : Task) (held : List Nat) (A B : Operand) (part : Bool) (r c : Nat) : Nat × Flags :=
  let grp := t.c.groupOf t.st
  let er := sddmmRow grp (s.descOf (t.outId 0)).rows r
  let W := min A.desc.window B.desc.window
  let ws := (windowsOn W (sddmmRows grp er.1 held)).map (fun w =>
    windowSum (w.map (fun k => mkTerm (A.at 0 k.1 er.2) (B.at 0 k.1 c))))
  sumOver (2 ^ t.c.reachLog2) ws none none part

/-- The value of output element (r, c) of an SDDMM: over the rows that the device holds. -/
def State.sddmmValue (s : State) (t : Task) (A B : Operand) (part : Bool) (r c : Nat) : Nat × Flags :=
  s.sddmmOver t (s.heldIndices A.desc 0) A B part r c

/-- The layout that keeps a mask block's form and records as they are (R202). -/
def Tile.ownLayout (x : Tile) : Layout :=
  { form := x.form, pos := x.recs.map (fun e => (e.pos, (e.keep, e.new))) }

/-- The first condition of R192, R202, R203 or R378 that an SDDMM breaks. -/
def State.sddmmBad (s : State) (t : Task) : Option Nat :=
  let st := t.st
  let grp := t.c.groupOf st
  let E := expertCount grp
  let a := s.descOf (t.inId 0)
  let b := s.descOf (t.inId 1)
  let o := s.descOf (t.outId 0)
  let cand := decide (st.inPorts = 3)
  let part := s.shardedDim a 0
  let fail (c : Bool) (w : Nat) : Option Nat := if c then some w else none
  let shaped (x : TensorDesc) : Bool := x.sparse && decide (x.rank = 2) && x.dims == o.dims && x.shards == o.shards
  fail (decide (st.params.length ≠ 16 ∨ st.p 0 1 ≠ 0)) 0 <|> fail (decide (st.p 1 1 ≠ 0)) 1
    <|> fail (!st.zero 7 16) 7
    <|> fail (match s.usable t.c.desc.func (st.p 4 3) with
        | some m => !shaped m.desc
        | none => true) 4
    <|> fail (decide (1 < (t.c.expertOf (t.c.groupTensor st)).length)) 4
    <|> fail (decide ((st.outPorts = 2) ≠ (st.inPorts = 3))) 0x102
    <|> fail (a.sparse || decide (a.rank ≠ 2) || t.wrongKind 0 false || s.notDispatch grp a) 0x100
    <|> fail (b.sparse || decide (b.rank ≠ 2) || t.wrongKind 1 false || s.notDispatch grp b) 0x101
    <|> fail (a.dims.getD 0 0 != b.dims.getD 0 0 || !sameShard a 0 b 0) 0x101
    <|> fail (!o.sparse || decide (o.rank ≠ 2)) 0x200
    <|> fail (decide (E * a.dims.getD 1 0 ≠ o.dims.getD 0 0) || (grp.isNone && !sameShard a 1 o 0)) 0x100
    <|> fail (b.dims.getD 1 0 != o.dims.getD 1 0 || !sameShard b 1 o 1) 0x101
    <|> fail (cand && !shaped (s.descOf (t.outId 1))) 0x201
    <|> fail (cand && decide ((s.descOf (t.inId 2)).rank ≠ 1 ∨ (s.descOf (t.inId 2)).format ≠ 9
        ∨ 2 ^ 24 < (s.descOf (t.inId 2)).elemCount)) 0x102
    <|> fail (part && decide (o.valueFormat ≠ 0)) 0x200
    <|> fail (part && cand && decide ((s.descOf (t.outId 1)).valueFormat ≠ 0)) 0x201

/-- The candidates of a block that are not mask positions, ascending and merged (R203). -/
def candidatesOf (o : TensorDesc) (k : Nat) (mask : List Nat) (vs : List Nat) : List Nat :=
  let own := vs.filterMap (fun v =>
    let q := o.ofFlat v
    if q.1 = k then some (64 * q.2.1 + q.2.2) else none)
  (sortNat own).filter (fun p => !mask.contains p)

/-- A sparse output of an SDDMM: the layout's positions with their results, LONG_SUM where they are partials. -/
def State.sddmmTile (s : State) (t : Task) (port conv : Nat) (part : Bool) (l : Layout) (v : Nat → Nat) :
    Tile × Flags × WeirIn :=
  let x := s.convBlock t port conv t.e.tile l (fun p => val32 (v p))
  ({ x.1 with hdr := { x.1.hdr with longSum := part } }, x.2)

/-- The request for the mask rows of a grouped SDDMM's expert. -/
def State.maskRequest (s : State) (t : Task) : Option ExpertReq :=
  match t.c.groupOf t.st with
  | none => none
  | some _ => s.requestFor t.c t.st (sddmmRow (t.c.groupOf t.st) (s.descOf (t.outId 0)).rows
      (64 * ((s.descOf (t.outId 0)).tilePos t.e.tile).i)).1

/-- What the owner of a shipped SDDMM's expert answered for the task's block: the mask block's form and records, with a value for
each sampled position. -/
def State.shippedMask (s : State) (t : Task) : Option Tile :=
  (s.maskRequest t).bind (fun (r : ExpertReq) => if r.shipped then r.answerOf t.e.tile else none)

/-- The mask block of an SDDMM task: held, fetched, or as the answer of a shipped expert gives it. -/
def State.expertMask (s : State) (t : Task) (m : Tensor) : Tile :=
  match (s.maskRequest t).bind (fun (r : ExpertReq) =>
    (if r.shipped then r.answers else r.blocks).find? (fun x => x.hdr.index = t.e.tile)) with
  | some x => x
  | none => m.readMask t.c (t.st.p 4 3) t.e.tile

/-- The mask block of an SDDMM task is there, and where the expert was shipped its answer. -/
def State.maskReady (s : State) (t : Task) : Bool :=
  match s.maskRequest t with
  | none => true
  | some r => r.done && (!r.shipped || (r.answerOf t.e.tile).isSome)

/-- What an SDDMM tile is made from: the mask block, the candidates that fall into the block, and its sampled positions. -/
structure SddmmTile where
  mask : Tile
  cands : List Nat

/-- The positions that are sampled. -/
def SddmmTile.cells (x : SddmmTile) : List Nat := x.mask.mask ++ x.cands

/-- The candidate list of the task's station. -/
def Task.candidates (t : Task) : List Nat := if t.st.inPorts = 3 then listValues (t.tiles 2) else []

/-- The sampled positions of a task's block of the mask tensor. -/
def State.sddmmTileOf (s : State) (t : Task) (m : Tensor) : SddmmTile :=
  let mb := s.expertMask t m
  { mask := mb, cands := candidatesOf (s.descOf (t.outId 0)) t.e.tile mb.mask t.candidates }

/-- The values of a block's sampled positions over some rows of the dense operands, with their flags. -/
def State.sddmmValues (s : State) (t : Task) (x : SddmmTile) (held : List Nat) (A B : Operand) : FMap Nat × Flags :=
  let part := s.shardedDim A.desc 0
  let q := (s.descOf (t.outId 0)).tilePos t.e.tile
  let xs := x.cells.map (fun p => (p, s.sddmmOver t held A B part (64 * q.i + p / 64) (64 * q.j + p % 64)))
  (FMap.setMany (fun _ => 0) [] (xs.map (fun x => (x.1, x.2.1))), orFlags (xs.map (fun x => x.2)))

/-- The results of an SDDMM task's sampled positions go out: port 0 the mask block with new values, port 1 the
candidates; `tags` are the positions that carry the poison tag. -/
def State.sddmmDeliver (s : State) (t : Task) (x : SddmmTile) (poison : Bool) (vals : FMap Nat) (fl : Flags)
    (tags : List Nat := []) : State :=
  let part := s.shardedDim (s.descOf (t.inId 0)) 0
  let v (p : Nat) : Nat := FMap.get (fun _ => 0) vals p
  let x0 := s.sddmmTile t 0 (t.st.p 2 1) part x.mask.ownLayout v
  let l1 : Layout := { form := if x.cands.isEmpty then bfEmpty else bfE, pos := x.cands.map (fun p => (p, (false, false))) }
  let x1 := s.sddmmTile t 1 (t.st.p 3 1) part l1 v
  let fl := fl ||| x0.2.1
  let y0 := x0.1.tagged (tags.filter x.mask.mask.contains)
  let y1 := x1.1.tagged (tags.filter x.cands.contains)
  if t.st.inPorts = 3 then s.deliver t poison [(0, y0), (1, y1)] (fl ||| x1.2.1) [x0.2.2, x1.2.2]
  else s.deliver t poison [(0, y0)] fl [x0.2.2]

/-- Every tile that an SDDMM task needs is there, and its expert's mask rows. -/
def State.sddmmReady (s : State) (t : Task) : Bool := t.ready (s.sddmmNeeds t) && s.maskReady t

/-- The first candidate beyond the mask's positions: its tile and byte in the list (R190, R203). -/
def State.candidateBad (s : State) (t : Task) : Option (Nat × Nat) :=
  if t.st.inPorts = 3 then
    (t.tiles 2).findSome? (fun x => ((extentPos x.rows x.cols).find? (fun p =>
      decide ((s.descOf (t.outId 0)).elemCount ≤ x.at p.1 p.2))).map (fun p =>
        (x.hdr.index, 4 * orderOf (s.descOf (t.inId 2)).colOrder p.1 p.2)))
  else none

/-- SDDMM_TASK (R202): port 0 carries the mask block with new values, port 1 the candidates. -/
def execSddmmTask (j : Nat) (s : State) : Host.Outcome State Fault Refusal :=
  s.runTask j stSddmm (fun t =>
    match s.sddmmBad t, s.tensor (t.st.p 4 3) with
    | some w, _ => s.haltFormat t w
    | none, none => s.haltFormat t 4
    | none, some m =>
      if !s.sddmmReady t then s
      else
        match s.remoteBad (s.maskRequest t), s.candidateBad t with
        | some v, _ => s.haltRemote t (.output 0) (t.st.p 4 3) v
        | none, some p => s.haltSparse t (.input 2) (t.inId 2) 0x13 p.1 p.2
        | none, none =>
          let x := s.sddmmTileOf t m
          let poison := s.poisonedIn t (s.sddmmNeeds t) || x.mask.hdr.poison
          match s.shippedMask t with
          | some y => s.sddmmDeliver t x poison y.elems 0
          | none =>
            if !s.bankReady t then s
            else
              let A := s.operand t 0
              let v := s.sddmmValues t x (s.heldIndices A.desc 0) A (s.operand t 1)
              (s.bankTurn t).sddmmDeliver t x poison v.1 v.2)

end Sys2Proof.Machine
end

