-- ==== Sys2Proof/Machine/Bank.lean ====
section
/-! DEFINITION. An output tile in a matrix engine (5.1 to 5.4): its slabs as the operand buffer holds them (R142, R145, R146),
the window registers (R144), and its accumulator bank in bank orientation (R147 to R151, R195, R204). -/

namespace Sys2Proof.Machine

/-! ## What an ME works on -/

/-- An output tile, or a part of one, as an ME computes it: the reach length, the windows of its reduction as pairs of operand
index and reduction index, the bank cell 64 × bank row + bank column of each output position that it computes, and the
values of the first operand by bank row and operand index and of the second by bank column and operand index; `part` says that
its reach sums go to another engine, which folds them (R131). -/
structure BankJob where
  L : Nat
  windows : List (List (Nat × Nat))
  cells : List (Nat × Nat)
  rowVal : Nat → Nat → Val
  colVal : Nat → Nat → Val
  part : Bool := false

/-- A row product's tile in bank orientation (Table 7.1, R195): the rows of a sparse product's bank are those of the sparse
operand, its columns the tokens. -/
def State.rowJob (s : State) (t : Task) : BankJob :=
  let w := s.rowTask t
  let A := s.operand t 0
  let B := s.rightOperand t w
  let pos := w.dOut.tilePos t.e.tile
  let idx := leadIndices w.dOut.leading pos.lead
  let la := broadcastLead w.dL idx
  let lb := broadcastLead w.dR idx
  let ij := w.p.rowsOf w.dR (64 * pos.i) (64 * pos.j)
  let base := w.p.redBase w.dR ij.1
  let left (n k : Nat) : Val := w.p.left A la (ij.1 + n) k
  let right (n k : Nat) : Val := w.p.right B lb (ij.2 + n) (base + k)
  let flip := w.p.sparse && !w.p.swap
  { L := w.L
    windows := (windowsAt w.W (partIndices w.W w.L t.e w.ks)).map (fun x => x.map (fun k => (k, k)))
    cells := (w.dOut.globalPos t.e.tile).map (fun g =>
      (64 * g.1.1 + g.1.2, if flip then 64 * g.1.2 + g.1.1 else 64 * g.1.1 + g.1.2))
    rowVal := if w.p.sparse then right else left
    colVal := if w.p.sparse then left else right
    part := decide (0 < t.e.reachCount) }

/-- An SDDMM's tile (R204): the sampled positions of its block. -/
def State.sddmmJob (s : State) (t : Task) (x : SddmmTile) : BankJob :=
  let grp := t.c.groupOf t.st
  let A := s.operand t 0
  let B := s.operand t 1
  let q := (s.descOf (t.outId 0)).tilePos t.e.tile
  let er := sddmmRow grp (s.descOf (t.outId 0)).rows (64 * q.i)
  { L := 2 ^ t.c.reachLog2
    windows := windowsOn (min A.desc.window B.desc.window) (sddmmRows grp er.1 (s.heldIndices A.desc 0))
    cells := x.cells.map (fun p => (p, p))
    rowVal := fun n k => A.at 0 k (er.2 + n)
    colVal := fun n k => B.at 0 k (64 * q.j + n) }

/-- The tile that a task gives its ME; of an SDDMM its block. -/
def State.bankJob (s : State) (t : Task) : BankJob :=
  if t.st.typ = stSddmm then
    match s.tensor (t.st.p 4 3) with
    | some m => s.sddmmJob t (s.sddmmTileOf t m)
    | none => { L := 1, windows := [], cells := [], rowVal := fun _ _ => Val.zero, colVal := fun _ _ => Val.zero }
  else s.rowJob t

/-- The slabs of a reduction (R146): the windows of each stretch of 32 reduction indices, cut at reach ends, each with its
number. -/
def BankJob.slabs (b : BankJob) : List (List (List (Nat × Nat) × Nat)) :=
  (b.windows.zip (List.range b.windows.length)).splitBy (fun x y =>
    decide ((x.1.headD (0, 0)).2 / 32 = (y.1.headD (0, 0)).2 / 32 ∧ x.2 / b.L = y.2 / b.L))

/-- The bank rows that the tile computes, ascending. -/
def BankJob.rows (b : BankJob) : List Nat := sortNat (b.cells.map (fun c => c.2 / 64))

/-- The result is a reach sum, handed over without its final rounding: a part of a sharded reduction within one reach and with
no folded C (R132). -/
def State.oneReach (s : State) (t : Task) : Bool :=
  let b := s.bankJob t
  let fold := t.st.typ != stSddmm && (s.rowTask t).p.fold
  let part := if t.st.typ = stSddmm then s.shardedDim (s.descOf (t.inId 0)) 0 else (s.rowTask t).part
  part && decide (b.windows.length ≤ b.L) && !fold

/-! ## Slab pairs (R145, R146) -/

/-- The pair that fills a half of the operand buffer for a slab, with its zero marks. -/
def BankJob.pair (b : BankJob) (task n : Nat) (slab : List (List (Nat × Nat) × Nat)) : SlabPair :=
  let xs := slab.flatMap (fun w => w.1)
  let cols := sortNat (b.cells.map (fun c => c.2 % 64))
  let ws := (slab.map (fun w => w.1)).zip (List.range slab.length)
  let zeroRow (r : Nat) (w : List (Nat × Nat)) : Bool := !b.rows.contains r || w.all (fun x => (b.rowVal r x.1).isZero)
  { task := task, slab := n
    a := FMap.setMany (fun _ => Val.zero) [] (b.rows.flatMap (fun r => xs.map (fun x => (32 * r + x.2 % 32, b.rowVal r x.1))))
    b := FMap.setMany (fun _ => Val.zero) [] (xs.flatMap (fun x => cols.map (fun c => (64 * (x.2 % 32) + c, b.colVal c x.1))))
    zeroA := (List.range 64).flatMap (fun r => (ws.filter (fun w => zeroRow r w.1)).map (fun w => 32 * r + w.2))
    zeroB := (ws.filter (fun w => w.1.all (fun x => cols.all (fun c => (b.colVal c x.1).isZero)))).map (fun w => w.2) }

/-- The array issues no slot for a window of a bank row: it is marked (R145). -/
def SlabPair.skips (p : SlabPair) (r i : Nat) : Bool := p.zeroA.contains (32 * r + i) || p.zeroB.contains i

/-- What a window register gathers for a cell: the exact sum of the products of a window (R141, R144). -/
def SlabPair.gather (p : SlabPair) (cell : Nat) (w : List (Nat × Nat)) : WinAcc :=
  (w.map (fun x => mkTerm (FMap.get (fun _ => Val.zero) p.a (32 * (cell / 64) + x.2 % 32))
    (FMap.get (fun _ => Val.zero) p.b (64 * (x.2 % 32) + cell % 64)))).foldl WinAcc.add {}

/-! ## Window registers and the accumulator (R144) -/

/-- Closed windows are added to an accumulator word in order (R122). -/
def Bank.addSums (k : Bank) (cell : Nat) (ws : List WinAcc) : Bank :=
  let r := (ws.map WinAcc.sum).foldl SumState.addWindow { acc := FMap.get (fun _ => 0) k.acc cell }
  { k with acc := FMap.set (fun _ => 0) k.acc cell r.acc, flags := k.flags ||| r.flags }

/-- The bank rows whose last window of the slab stays open in a window register: the last `n` rows, at most 16
(log entry 127). -/
def BankJob.openRows (b : BankJob) (n : Nat) : List Nat := b.rows.drop (b.rows.length - min 16 n)

/-- The windows of a slab that are added to the words of a row: those not marked, less the last where it stays open. -/
def BankJob.closed (b : BankJob) (p : SlabPair) (n r : Nat) (slab : List (List (Nat × Nat) × Nat)) :
    List (List (Nat × Nat)) :=
  let ws := (slab.map (fun w => w.1)).zip (List.range slab.length)
  let last := slab.length - 1
  (ws.filter (fun w => !p.skips r w.2 && !((b.openRows n).contains r && decide (w.2 = last)))).map (fun w => w.1)

/-- The window sums of a slab are added to the bank's words (R122, R144). -/
def BankJob.addSlab (b : BankJob) (p : SlabPair) (n : Nat) (slab : List (List (Nat × Nat) × Nat)) (k : Bank) : Bank :=
  b.cells.foldl (fun (k : Bank) c => k.addSums c.2 ((b.closed p n (c.2 / 64) slab).map (p.gather c.2))) k

/-- The window registers that a slab leaves open. -/
def BankJob.leftOpen (b : BankJob) (p : SlabPair) (bank : Bool) (n : Nat) (slab : List (List (Nat × Nat) × Nat)) :
    List WindowReg :=
  let last := slab.length - 1
  match slab.getLast? with
  | none => []
  | some w =>
    ((b.openRows n).filter (fun r => !p.skips r last)).map (fun r =>
      { bankB := bank, row := r, window := w.2
        cols := (b.cells.filter (fun c => c.2 / 64 = r)).foldl (fun (m : FMap WinAcc) c =>
          FMap.insert m (c.2 % 64) (p.gather c.2 w.1)) [] })

/-- The window registers of an ME close: each column's sum is added to its row's accumulator word. -/
def Me.closeWindows (m : Me) : Me :=
  { m.wregs.foldl (fun (m : Me) w =>
      m.setBank w.bankB (w.cols.foldl (fun (k : Bank) c => k.addSums (64 * w.row + c.1) [c.2]) (m.bank w.bankB))) m with
    wregs := [] }

/-! ## The bank (R147 to R151) -/

/-- The C tile that a bank loads is poisoned (R153). -/
def State.startPoison (s : State) (t : Task) : Bool :=
  t.st.typ != stSddmm && (match s.cTile t (s.rowTask t) with
    | some x => s.poisons t.c x.1
    | none => false)

/-- A bank at the start of a tile (R148, R195): zeros, a plain C in the accumulator words of its cells, a LONG_SUM C folded. A
part of a split reduction takes a plain C only with reach 0 (R131). -/
def State.startBank (s : State) (t : Task) : Bank :=
  let w := s.rowTask t
  let C := if t.st.typ = stSddmm ∨ (0 < t.e.reachCount ∧ (w.p.fold = true ∨ 0 < t.e.reachFirst)) then none else s.cTile t w
  let cells := (s.bankJob t).cells
  let cs := cells.filterMap (fun c => (cValue C (c.1 / 64) (c.1 % 64)).map (fun v => (c.2, v)))
  let fl := cs.foldl (fun a c => a ||| c.2.2) 0
  if w.p.fold && t.st.typ != stSddmm then
    let fs := cs.map (fun c => (c.1, foldLong {} c.2.1))
    { state := .acc, task := t.j, poisoned := s.startPoison t, flags := fs.foldl (fun a f => a ||| f.2.2) fl
      long := FMap.setMany (fun _ => {}) [] (fs.map (fun f => (f.1, f.2.1))) }
  else { state := .acc, task := t.j, poisoned := s.startPoison t, flags := fl, acc := FMap.setMany (fun _ => 0) [] (cs.map (fun c => (c.1, c.2.1))) }

/-- After slab number `n` of a tile: the next slab, or FOLDING at a reach end and after the last window (R149). -/
def Bank.afterSlab (k : Bank) (b : BankJob) (n : Nat) : Bank :=
  let slabs := b.slabs
  let last := decide (slabs.length ≤ n + 1)
  let ended := ((slabs.getD n []).getLast?.map (fun x => x.2 + 1)).getD 0
  { k with slab := n + 1, last := last, state := if last || decide (ended % b.L = 0) then .fold else .acc }

/-- Every accumulator word folds into its long sum and becomes +0 (R149); the reach's sums are kept for a bank that hands
them over (R131, R132, R150). A part raises no flag here: the engine that owns the tile folds its sums (R124, R163). -/
def Bank.foldAll (k : Bank) (b : BankJob) : Bank :=
  let fs := b.cells.map (fun c =>
    (c.2, foldLong (FMap.get (fun _ => {}) k.long c.2) (FMap.get (fun _ => 0) k.acc c.2)))
  let ended := ((b.slabs.getD (k.slab - 1) []).getLast?.map (fun x => x.2)).getD 0
  { k with acc := [], long := FMap.setMany (fun _ => {}) k.long (fs.map (fun f => (f.1, f.2.1)))
           sums := FMap.set (fun _ => []) k.sums (ended / b.L) k.acc
           flags := if b.part then k.flags else fs.foldl (fun a f => a ||| f.2.2) k.flags
           state := if k.last then .drain else .acc }

/-- The results of a bank by output position: the long sums (R125), or its one reach's sums as they are (R132). -/
def Bank.results (k : Bank) (oneReach : Bool) (b : BankJob) : FMap Nat × Flags :=
  let xs := b.cells.map (fun c => (c.1, if oneReach then (FMap.get (fun _ => 0) (FMap.get (fun _ => []) k.sums 0) c.2, 0)
    else longResult (FMap.get (fun _ => {}) k.long c.2)))
  (FMap.setMany (fun _ => 0) [] (xs.map (fun x => (x.1, x.2.1))), xs.foldl (fun a x => a ||| x.2.2) k.flags)

/-- The reach sums of a bank by output position, numbered from the part's first reach (R131, R150). -/
def Bank.reachSums (k : Bank) (b : BankJob) (first n : Nat) : FMap (FMap Nat) :=
  (List.range n).map (fun q => (first + q, FMap.setMany (fun _ => 0) []
    (b.cells.map (fun c => (c.1, FMap.get (fun _ => 0) (FMap.get (fun _ => []) k.sums q) c.2)))))

/-! ## The tasks of an ME -/

/-- The task of an entry that runs on this ME; none where another device has formed the tile. -/
def State.meTask (s : State) (core me j : Nat) : Option Task :=
  match s.entry j with
  | none => none
  | some e =>
    match (s.course e.course).bind (fun (c : Course) => c.station e.station) with
    | none => none
    | some st =>
      if decide (e.engine = 0 ∧ e.core = core ∧ e.index = me) && isProduct st.typ then
        (s.task j st.typ).bind (fun t =>
          if (if st.typ == stSddmm then (s.shippedMask t).isNone else (s.shippedValues t (s.rowTask t)).isNone) then some t
          else none)
      else none

/-- The first condition that a product breaks. -/
def State.productBad (s : State) (t : Task) : Option Nat :=
  if t.st.typ = stMatmul then s.matmulBad t else if t.st.typ = stSddmm then s.sddmmBad t else s.spmmBad t

/-- Everything that a product's tile reads is there. -/
def State.productReady (s : State) (t : Task) : Bool :=
  if t.st.typ = stSddmm then s.sddmmReady t else t.ready (s.rowNeeds t) && s.answered t (s.rowTask t)

/-- A tile that a product's output depends on is poisoned. -/
def State.productPoison (s : State) (t : Task) : Bool :=
  if t.st.typ = stSddmm then
    s.poisonedIn t (s.sddmmNeeds t) || (match s.tensor (t.st.p 4 3) with
      | some m => (s.expertMask t m).hdr.poison
      | none => false)
  else s.rowPoison t (s.rowTask t)

/-- The output tile of a drained bank goes out: an SDDMM's block, a whole tile, or the reach sums of a part (R150, R151). -/
def State.drainOut (s : State) (t : Task) (k : Bank) (poison : Bool) (tags : List Nat := []) : State :=
  let b := s.bankJob t
  let v := k.results (s.oneReach t) b
  if t.st.typ = stSddmm then
    match s.tensor (t.st.p 4 3) with
    | some m => s.sddmmDeliver t (s.sddmmTileOf t m) poison v.1 v.2 tags
    | none => s
  else
    let w := s.rowTask t
    if t.e.reachCount = 0 then (s.passTurn t w.byColumn (s.rowTile t w v.1).1).deliverRow t w poison v.1 v.2 tags
    else s.joinPart t w poison (k.reachSums b t.e.reachFirst t.e.reachCount) k.flags tags

end Sys2Proof.Machine
end

