-- ==== Sys2Proof/Machine/MemTasks.lean ====
section
/-! DEFINITION. The memory stations: LOAD and STORE (11.4, 6.7), GATHER and SCATTER_ACC (11.8). -/

namespace Sys2Proof.Machine

/-! ## LOAD (R292 to R294) -/

/-- The tiles of its output tensor that a LOAD emits: those held in its range. -/
def State.loadTiles (s : State) (c : Course) (st : Station) : List Nat :=
  let d := s.descOf (c.outTensor st.id 0)
  let r := st.loadRange d.tileCount
  (s.heldTiles d).filter (fun k => decide (r.1 ≤ k ∧ k < r.2))

/-- Every field of PERM is in order: a permutation of the rank, each field beyond it its own index. -/
def Station.permOk (st : Station) (rank : Nat) : Bool :=
  (List.range 8).all (fun i => decide (i < rank) || decide (st.perm i = i)) &&
    (List.range rank).all (fun q => (List.range rank).any (fun i => decide (st.perm i = q)))

/-- The element order's contiguous dimension and the one across which a block of B = 128 pairs two lines. -/
def TensorDesc.contigPair (d : TensorDesc) : Nat × Nat :=
  let n := d.dims.length
  if d.colOrder then (n - 2, n - 1) else (n - 1, n - 2)

/-- SRC and Y do not conform: 4 names SRC, 8 names PERM (R292). -/
def State.loadClash (s : State) (st : Station) (src y : TensorDesc) : Option Nat :=
  let n := y.dims.length
  let p (i : Nat) := if y.rank = 1 then i else st.perm i
  let lastTwo (i : Nat) : Bool := decide (n ≤ i + 2)
  failAt (decide (src.rank ≠ y.rank ∨ src.format ≠ y.format ∨ src.valueFormat ≠ y.valueFormat
      ∨ src.scaleBlk ≠ y.scaleBlk)) 4
    <|> failAt (!st.permOk src.rank || (src.sparse && !st.permIsId src.rank)) 8
    <|> failAt ((List.range n).any (fun i => decide (y.dims.getD i 0 ≠ src.dims.getD (p i) 0
        ∨ y.shards.getD i 0 ≠ src.shards.getD (p i) 0))) 4
    <|> failAt ((List.range n).any (fun i => s.shardedDim y i && lastTwo i != lastTwo (p i))) 8
    <|> failAt (decide (y.scaleBlk ≠ 0) && !y.sparse &&
        (decide (p y.contigPair.1 ≠ src.contigPair.1)
          || (decide (blockLen y.scaleBlk = 128) && decide (p y.contigPair.2 ≠ src.contigPair.2)))) 8

/-- A host image of Y in a form (R294): which byte of the parameters stands against it. -/
def hostFormClash (d : TensorDesc) (form first count : Nat) : Option Nat :=
  match form with
  | 0 => failAt (d.sparse && decide (first ≠ 0)) 16 <|> failAt (d.sparse && decide (count ≠ 0)) 24
  | 1 => failAt (d.sparse || d.colOrder || decide (64 < blockLen d.scaleBlk ∧ d.scaleBlk ≠ 0)) 1
      <|> failAt (decide (first ≠ 0)) 16 <|> failAt (decide (count ≠ 0)) 24
  | _ => failAt (d.sparse || (planeBits d.format).isNone) 1

/-- The first byte of a LOAD's parameters that breaks R292, or a port. -/
def State.loadBad (s : State) (t : Task) : Option Nat :=
  let st := t.st
  let y := s.descOf (t.outId 0)
  let src := st.p 0 1
  failAt (decide (st.params.length ≠ 40 ∨ 2 < src)) 0
    <|> failAt (decide (if src = 1 then 2 < st.p 1 1 else st.p 1 1 ≠ 0)) 1
    <|> failAt (!st.zero 2 4) 2
    <|> failAt (if src = 0 then (s.usable t.c.desc.func (st.p 4 3)).isNone else decide (st.p 4 3 ≠ 0)) 4
    <|> failAt (!st.zero 7 8) 7
    <|> failAt (!st.permOk y.rank || (decide (src ≠ 0) && !st.permIsId y.rank)) 8
    <|> failAt (!st.zero 11 12) 11
    <|> failAt (decide (2 ^ 40 ≤ st.p 16 8)) 16 <|> failAt (decide (2 ^ 41 ≤ st.p 24 8)) 24
    <|> failAt (decide (if src = 1 then st.p 32 8 % 64 ≠ 0 else st.p 32 8 ≠ 0)) 32
    <|> (match src with
      | 0 => s.loadClash st (s.descOf (st.p 4 3)) y
      | 1 => hostFormClash y (st.p 1 1) (st.p 16 8) (st.p 24 8)
      | _ => failAt y.sparse 0)

/-- The source element of an element of the output: leading index, row and column through PERM. -/
def Station.permuted (st : Station) (y src : TensorDesc) (lead r c : Nat) : Nat × Nat × Nat :=
  let xs := leadIndices y.leading lead ++ [r, c]
  let n := xs.length
  let at' (q : Nat) : Nat :=
    if y.rank = 1 then xs.getD q 0
    else match (List.range n).find? (fun i => decide (st.perm i = q)) with
      | some i => xs.getD i 0
      | none => 0
  let l := ((List.range (n - 2)).map at').zip src.leading |>.foldl (fun a q => a * q.2 + q.1) 0
  (l, at' (n - 2), at' (n - 1))

/-- A dense tile of Y read from SRC under PERM: bits and scales unchanged (R104, R292). -/
def State.permutedTile (s : State) (t : Task) (sid : Nat) (k : Nat) : Tile :=
  let y := s.descOf (t.outId 0)
  let src := s.descOf sid
  let pos := y.tilePos k
  let at' (p : Nat × Nat) : Nat × Nat × Nat :=
    src.place (t.st.permuted y src pos.lead (64 * pos.i + p.1) (64 * pos.j + p.2))
  let ps := extentPos (y.extRows k) (y.extCols k)
  let tiles := (sortNat (ps.map (fun p => (at' p).1))).map (fun b => (b, s.readTile sid b t.c.epoch))
  let tile (b : Nat) : Tile := ((tiles.find? (fun q => q.1 = b)).map (fun q => q.2)).getD {}
  { hdr := { y.header (t.outId 0) k (s.genOf (t.outId 0)) t.c.epoch with
      poison := tiles.any (fun q => q.2.hdr.poison) }
    elems := codesAt (ps.map (fun p => let q := at' p; (p, (tile q.1).at q.2.1 q.2.2)))
    scales := (List.range (scalesPerTile y.scaleBlk)).map (fun j =>
      match blockElems y.colOrder y.scaleBlk j (y.extRows k) (y.extCols k) with
      | [] => 0x7F
      | p :: _ =>
        let q := at' p
        (tile q.1).scales.getD (elemBlock src.colOrder src.scaleBlk q.2.1 q.2.2) 0x7F) }

/-- A tile of SRC as a tile of Y without a permutation. -/
def State.plainTile (s : State) (t : Task) (sid k : Nat) : Tile :=
  let x := s.readTile sid k t.c.epoch
  let h := (s.descOf (t.outId 0)).header (t.outId 0) k (s.genOf (t.outId 0)) t.c.epoch
  { x with hdr := { h with format := x.hdr.format, poison := x.hdr.poison } }

/-- A tile of a host image by its place among the tiles of the range (R294): a sparse block is checked, but no pool bounds
it. -/
def State.hostTile (s : State) (t : Task) (form : Nat) (tiles : List Nat) (k : Nat) (image : List Byte) :
    Except Violation Tile :=
  let id := t.outId 0
  let d := s.descOf id
  let gen := s.genOf id
  let i := tiles.idxOf k
  match form with
  | 0 =>
    if d.sparse then
      let entry := leAt image (8 * i) 8
      let base := roundUp (8 * tiles.length) 64
      (d.readBlock id k none entry (image.drop (base + 64 * (entry / 2 ^ 24)))).map
        (fun (x : Tile) => { x with hdr := { x.hdr with gen := gen, epoch := t.c.epoch } })
    else .ok (d.readImage id k gen t.c.epoch (image.drop (i * d.imageSize)))
  | 1 => .ok (s.readRowMajor d id gen t.c.epoch image k)
  | _ => .ok (d.readPlanes id k gen t.c.epoch tiles.length i image)

/-- FILL: the value converted for every element of a tile, or its bits for an INT8 or UINT32 tensor. -/
def State.fillTile (s : State) (t : Task) (k : Nat) : Tile × Flags × List WeirIn :=
  let id := t.outId 0
  let d := s.descOf id
  let f := t.st.p 12 4
  if d.format = 8 ∨ d.format = 9 then
    let code := if d.format = 8 then f % 256 else f
    ({ hdr := d.header id k (s.genOf id) t.c.epoch
       elems := codesAt ((extentPos (d.extRows k) (d.extCols k)).map (fun p => (p, code))) }, 0, [])
  else
    let x := s.convInto t id 0 k (fun _ _ => val32 f)
    (x.1, x.2.1, [x.2.2])

/-- A LOAD from a host image: refused outside an IDE stream that the polder asks for (R483). -/
def State.loadHost (s : State) (t : Task) (tiles : List Nat) (image : List Byte) : State :=
  let id := t.outId 0
  match s.ideCause (s.polderOf id) (t.st.p 32 8) image.length with
  | some d => s.denyTask t d
  | none =>
    match s.hostTile t (t.st.p 1 1) tiles t.e.tile image with
    | .error v => s.haltSparse t (.output 0) id v.1 t.e.tile (if v.1 ≤ 0x02 then 0 else 64 + v.2)
    | .ok x => s.deliver t false [(0, x)] 0 []

/-- LOAD_TASK (R293): the tile is emitted with Y's header; `image` is the host image of the range. -/
def execLoadTask (j : Nat) (image : List Byte) (s : State) : Host.Outcome State Fault Refusal :=
  s.runTask j stLoad (fun t =>
    match s.loadBad t with
    | some w => s.haltFormat t w
    | none =>
      let tiles := s.loadTiles t.c t.st
      if !tiles.contains t.e.tile then s
      else
        match t.st.p 0 1 with
        | 0 =>
          let sid := t.st.p 4 3
          let x := if t.st.permIsId (s.descOf sid).rank then s.plainTile t sid t.e.tile
            else s.permutedTile t sid t.e.tile
          s.deliver t x.hdr.poison [(0, x)] 0 []
        | 1 => s.loadHost t tiles image
        | _ =>
          let x := s.fillTile t t.e.tile
          s.deliver t false [(0, x.1)] x.2.1 x.2.2)

/-! ## Compressing (R181 to R186) -/

/-- A tile that a STORE writes, with the flags of a hidden re-encoding and whether a lenient fallback is
logged. -/
structure Stored where
  tile : Tile
  flags : Flags := 0
  lenient : Bool := false

/-- NEW of a position that a course writes: in the mask written and not in M_r (R234). -/
def markNew (readMask : List Nat) (m : MaskMap) : MaskMap :=
  m.map (fun q => (q.1, (q.2.1, !readMask.contains q.1)))

/-- A tile's non-zero elements (R183): KEEP is cleared. -/
def Tile.nonZeros (x : Tile) (k : TileCtx) : MaskMap :=
  ((extentPos x.rows x.cols).filter (fun p => !(x.val k p.1 p.2).isZero)).map
    (fun p => (64 * p.1 + p.2, (false, false)))

/-- The block read has the TS-D form in a TS-B4 tensor, with a bitmap that is not group-aligned (R186). -/
def TensorDesc.oddBitmap (d : TensorDesc) (old : Tile) : Bool :=
  decide (old.form = bfD) && decide (formOf d.format = bfB4) && !aligned4 old.rows old.cols old.maskMap

/-- The layout of a written block, its NEW flags set against M_r. -/
def TensorDesc.newLayout (d : TensorDesc) (k : Nat) (old : Tile) (m : MaskMap) : Except Nat Layout :=
  (layoutBlock d (d.extRows k) (d.extCols k) old.form (d.oddBitmap old) m).map (fun (l : Layout) =>
    { l with pos := markNew old.mask l.pos })

/-- A slot of an N:M block that is filled beyond the positions to store takes +0 (R182 to R184). -/
def Layout.fills (l : Layout) (m : MaskMap) (p : Nat) : Bool := (nmOf l.form).isSome && !m.any (fun q => decide (q.1 = p))

/-- A dense tile's codes and scales at a layout's positions, bit for bit; `m` are the positions to store. -/
def storeCodes (d : TensorDesc) (l : Layout) (m : MaskMap) (id k : Nat) (x : Tile) (c : TileCtx) : Tile :=
  copyBlock d l id k
    (fun p => if x.rows ≤ p / 64 ∨ x.cols ≤ p % 64 ∨ l.fills m p = true then 0 else x.at (p / 64) (p % 64))
    (fun j => x.scales.getD j 0x7F) (fun p => l.fills m p || (x.val c (p / 64) (p % 64)).isZero)

/-- MASK mode: the values at mask positions; a block-scaled tile that reaches STORE unmasked is re-encoded by a
hidden program of the core (R182). -/
def State.storeMasked (s : State) (t : Task) (id k : Nat) (x : Tile) (m : MaskMap) (l : Layout) : Tile × Flags :=
  let d := s.descOf id
  let c := s.ctxOf x
  let masked := match t.c.inStream t.st.id 0 with
    | some q => t.c.maskedPort q.prod q.prodPort && (t.c.station q.prod).any masks
    | none => false
  if d.scaleBlk ≠ 0 && !masked then
    (s.convSpec t.c id 0).block l k (fun _ => .nearest)
      (fun p => if l.fills m p then Val.zero else x.val c (p / 64) (p % 64))
  else (storeCodes d l m id k x c, 0)
where
  /-- The producers that convert, and so apply the mask themselves (R182). -/
  masks (p : Station) : Bool :=
    !(p.typ == stLoad || p.typ == stGather || p.typ == stRoute || p.typ == stGauge
      || (p.typ == stExchange && decide (p.p 0 1 = 2)))

/-- The element code at a position. -/
def posCode (x : Tile) (p : Nat) : Nat :=
  if 0x10 ≤ x.hdr.format then ((x.rec? (p / 64) (p % 64)).map (fun e => e.code)).getD 0 else x.at (p / 64) (p % 64)

/-- The block of a tensor in the generation read. -/
def State.oldBlock (s : State) (t : Task) (id k : Nat) : Tile :=
  match s.tensor id with
  | some q => q.readMask t.c id k
  | none => {}

/-- A ready-made sparse tile in the form that R185 gives it: its codes, scales and flags stand, a filled slot is +0 (R181,
R184). -/
def readyTile (d : TensorDesc) (l : Layout) (id k : Nat) (x : Tile) : Tile :=
  if l.form = bfEmpty then { d.emptyBlock id k with hdr := { (d.emptyBlock id k).hdr with poison := x.hdr.poison } }
  else if l.form = x.form then x
  else
    let scale (j : Nat) : Nat := match x.recs.find? (fun e => e.pos / blockLen d.scaleBlk = j) with
      | some e => x.spScale e.pos
      | none => 0x7F
    let y := copyBlock d l id k (posCode x) scale (fun _ => false)
    { y with hdr := { y.hdr with gen := x.hdr.gen, epoch := x.hdr.epoch, poison := x.hdr.poison } }

/-- What a STORE writes for an input tile of its tensor, or the cause of a violation. -/
def State.storedTile (s : State) (t : Task) (id : Nat) (x : Tile) : Except Nat Stored :=
  let d := s.descOf id
  let k := x.hdr.index
  if !d.sparse then .ok ⟨x, 0, false⟩
  else if 0x10 ≤ x.hdr.format then
    (layoutBlock d (d.extRows k) (d.extCols k) (s.oldBlock t id k).form (d.oddBitmap (s.oldBlock t id k)) x.maskMap).map
      (fun (l : Layout) => ⟨readyTile d l id k x, 0, l.lenient⟩)
  else
    let old := s.oldBlock t id k
    let dest := s.destBlock t.c id k
    let finish (r : Except Nat (Tile × Flags × Bool)) : Except Nat Stored :=
      r.map (fun (y : Tile × Flags × Bool) =>
        ⟨{ y.1 with hdr := { y.1.hdr with poison := x.hdr.poison } }, y.2.1, y.2.2⟩)
    match t.st.p 2 1 % 16 with
    | 0 => finish ((d.newLayout k old dest.maskMap).map
        (fun (l : Layout) => let y := s.storeMasked t id k x dest.maskMap l; (y.1, y.2, l.lenient)))
    | 1 =>
      let m := x.nonZeros (s.ctxOf x)
      finish ((d.newLayout k old m).map (fun (l : Layout) => (storeCodes d l m id k x (s.ctxOf x), 0, l.lenient)))
    | _ => .error 0x07

/-! ## STORE (R295, R296) -/

/-- The first byte of a STORE's parameters that breaks R295, or 0x100 for an input that differs. -/
def State.storeBad (s : State) (t : Task) : Option Nat :=
  let st := t.st
  let d := s.descOf (t.inId 0)
  let mode := st.p 0 1
  failAt (decide (st.params.length ≠ 24 ∨ 2 < mode)) 0
    <|> failAt (decide (if mode = 1 then 2 < st.p 1 1 else st.p 1 1 ≠ 0)) 1
    <|> failAt (!st.zero 3 8) 3
    <|> failAt (match mode with
      | 0 => decide (st.p 8 8 ≠ 0)
      | 1 => decide (st.p 8 8 % 64 ≠ 0)
      | _ => decide (st.p 8 8 % 16 ≠ 0)) 8
    <|> failAt (decide (if mode = 1 then 2 ^ 40 ≤ st.p 16 8 else st.p 16 8 ≠ 0)) 16
    <|> (if mode = 1 then
        failAt (d.sparse && decide (st.p 1 1 ≠ 0)) 1 <|> hostFormClash d (st.p 1 1) (st.p 16 8) 0
      else none)

/-- An input tile agrees with the tensor (R295). -/
def storeFits (d : TensorDesc) (x : Tile) : Bool :=
  decide (x.hdr.scaleBlk = d.scaleBlk) && !x.hdr.longSum &&
    (if d.sparse then decide ((0x10 ≤ x.hdr.format ∧ x.hdr.format ≤ 0x15) ∨ x.hdr.format = d.valueFormat)
     else decide (x.hdr.format = d.format))

/-- One part of a host image: where it starts, the width of its fields, and each field's tile and code. -/
structure HostPart where
  off : Nat
  width : Nat
  fields : List (Nat × Nat)

/-- The part's bytes, with zero bits for tiles that have not arrived, padded to 64. -/
def HostPart.bytes (p : HostPart) (arrived : List Nat) : List Byte :=
  padTo 64 (packCodes p.width (p.fields.map (fun f => if arrived.contains f.1 then f.2 else 0)))

/-- Bytes of data in the part. -/
def HostPart.dataBytes (p : HostPart) : Nat := ceilDiv (p.fields.length * p.width) 8

/-- The bytes of the part that hold something of tile `k`; the padding goes with the last byte of data (R296). -/
def HostPart.touched (p : HostPart) (k : Nat) : List Nat :=
  let own := sortNat ((p.fields.zip (List.range p.fields.length)).flatMap (fun f =>
    if f.1.1 = k then
      let lo := f.2 * p.width / 8
      (List.range (((f.2 + 1) * p.width - 1) / 8 + 1 - lo)).map (fun i => lo + i)
    else []))
  let n := p.dataBytes
  if own.contains (n - 1) && decide (0 < n) then own ++ (List.range (roundUp n 64 - n)).map (fun i => n + i) else own

/-- The host writes of a part for tile `k`: runs of touched bytes. -/
def HostPart.writes (p : HostPart) (arrived : List Nat) (k : Nat) : List (Nat × List Byte) :=
  let bs := p.bytes arrived
  ((p.touched k).splitBy (fun a b => b == a + 1)).map (fun r => (p.off + r.headD 0, r.map (fun i => bs.getD i 0)))

/-- The parts of a dense host image over the tiles of the range (R294). -/
def State.hostParts (s : State) (d : TensorDesc) (form : Nat) (tiles : List Nat) (tile : Nat → Tile) : List HostPart :=
  let w := codeBits d.format
  match form with
  | 0 =>
    let n := d.imageSize
    let sc := scalesPerTile d.scaleBlk
    (tiles.zip (List.range tiles.length)).flatMap (fun q =>
      { off := q.2 * n, width := w, fields := ((tile q.1).codes d.colOrder).map (fun c => (q.1, c)) } ::
        (if d.scaleBlk = 0 then []
         else [{ off := q.2 * n + tileBytes d.format, width := 8,
                 fields := (List.range sc).map (fun i => (q.1, (tile q.1).scales.getD i 0x7F)) }]))
  | 1 =>
    let es := (s.shardElems d).map (fun x => let p := d.place x; (p.1, (tile p.1).at p.2.1 p.2.2))
    { off := 0, width := w, fields := es } ::
      (if d.scaleBlk = 0 then []
       else [{ off := s.rowMajorElems d, width := 8,
               fields := (s.shardBlocks d).map (fun x =>
                 let p := d.place x
                 (p.1, (tile p.1).scales.getD (elemBlock false d.scaleBlk p.2.1 p.2.2) 0x7F)) }])
  | _ =>
    match planeBits d.format with
    | none => []
    | some (e, m) =>
      let cs := tiles.flatMap (fun k => ((tile k).codes d.colOrder).map (fun c => (k, c)))
      let a := roundUp (ceilDiv (cs.length * e) 8) 64
      let b := roundUp (ceilDiv (cs.length * m) 8) 64
      [ { off := 0, width := e, fields := cs.map (fun c => (c.1, expField e (m - 1) c.2)) },
        { off := a, width := m, fields := cs.map (fun c => (c.1, signMan e (m - 1) c.2)) } ] ++
      (if d.scaleBlk = 0 then []
       else [{ off := a + b, width := 8,
               fields := tiles.flatMap (fun k => (List.range (scalesPerTile d.scaleBlk)).map (fun i =>
                 (k, (tile k).scales.getD i 0x7F))) }])

/-- Send host writes of a course's function at offsets from an address. -/
def State.emitWrites (s : State) (func addr : Nat) (ws : List (Nat × List Byte)) : State :=
  ws.foldl (fun (s : State) (w : Nat × List Byte) => s.emit (.hostWrite func (addr + w.1) w.2)) s

/-- The held tiles of a STORE's tensor that its input stream brings: all of them, as far as the producer emits. -/
def State.storeTiles (s : State) (c : Course) (st : Station) : List Nat :=
  let d := s.descOf (c.inTensor st.id 0)
  match (c.inStream st.id 0).bind (fun (x : Stream) => c.station x.prod) with
  | some p => if p.typ = stLoad then s.loadTiles c p else s.heldTiles d
  | none => s.heldTiles d

/-- The tiles of a STORE that have arrived: those of its finished tasks, retired or not. -/
def Station.arrived (st : Station) : List Nat := st.done ++ st.landed.map (fun w => w.1)

/-- The last tile of the STORE's input. -/
def State.lastStore (s : State) (t : Task) : Bool :=
  (s.storeTiles t.c t.st).all (fun k => decide (k = t.e.tile) || t.st.arrived.contains k)

/-- HOST mode: the bytes of the arrived tile, or a sparse image whole with its last block. -/
def State.storeHost (s : State) (t : Task) (id : Nat) (y : Stored) : State :=
  let d := s.descOf id
  let f := t.c.desc.func
  let addr := t.st.p 8 8
  if d.sparse then
    let blocks := insertTile y.tile t.st.kept
    let s := s.updStation t (fun q => { q with kept := blocks })
    if s.lastStore t then
      let tile (k : Nat) : Tile := (blocks.find? (fun x => x.hdr.index = k)).getD (d.emptyBlock id k)
      s.emit (.hostWrite f addr (d.generationBytes ((s.heldTiles d).map tile)))
    else s
  else
    let first := t.st.p 16 8
    let tiles := (s.heldTiles d).filter (fun k => decide (first ≤ k))
    let tile (k : Nat) : Tile := (t.tile? 0 k).getD {}
    let parts := s.hostParts d (t.st.p 1 1) tiles tile
    s.emitWrites f addr (parts.flatMap (fun p => p.writes (t.e.tile :: t.st.arrived) t.e.tile))

/-- A write of a tile would change a byte of its slot in the current generation, the berm included where it lays that. -/
def State.slotDiffers (s : State) (berm : Bool) (t : Tensor) (k : Nat) (old new : Tile) : Bool :=
  let d := t.desc
  let held := s.slotHeld t (t.curHalf k) k
  d.slotCodes berm k held new != d.slotCodes false k held old || (d.overBerm berm k old new).scales != old.scales

/-- The bytes that TENSOR mode would write of a tile, against those of the generation read: of a view those of the base slots
that it touches (R296, R302). -/
def State.tileDiffers (s : State) (t : Task) (id : Nat) (y : Tile) : Bool :=
  match s.tensor id with
  | none => false
  | some q =>
    let d := q.desc
    let k := y.hdr.index
    let old := s.readTile id k t.c.epoch
    if d.sparse then !decide (y.form = old.form ∧ y.nrec = old.nrec ∧ d.blockData y = d.blockData old)
    else
      match q.view.bind (fun (v : ViewRec) => (s.tensor v.base).map (fun b => (v.base, b))) with
      | none => s.slotDiffers d.bermOwned q k old y
      | some (bid, b) => (viewTouches k q b).any (fun n =>
          s.slotDiffers d.bermOwned b n (b.current bid n) (overBase d.bermOwned id k q b bid n y))

/-- COMPARE mode: the differing tiles are noted, and the last comparison writes the record. -/
def State.storeCompare (s : State) (t : Task) (id : Nat) (y : Stored) : State :=
  let diff := if s.tileDiffers t id y.tile then insertNat t.e.tile t.st.differing
    else t.st.differing.filter (fun k => k ≠ t.e.tile)
  let s := s.updStation t (fun q => { q with differing := diff })
  if s.lastStore t then
    s.emit (.hostWrite t.c.desc.func (t.st.p 8 8)
      (toLe 8 diff.length ++ toLe 8 (match diff with
        | [] => 2 ^ 64 - 1
        | k :: _ => k)))
  else s

/-- The host address and length that a STORE's task touches, for the IDE check. -/
def State.storeSpan (s : State) (t : Task) (id : Nat) : Nat × Nat :=
  let d := s.descOf id
  (t.st.p 8 8, if t.st.p 0 1 = 2 then 16
    else if t.st.p 1 1 = 0 ∧ !d.sparse then (s.heldTiles d).length * d.imageSize else 64)

/-- The warden's answer on a host write (R297, R483). -/
def State.hostDenial (s : State) (t : Task) (id : Nat) : Option (Nat × Nat) :=
  let p := s.polderOf id
  if p = 0 then none
  else
    let a := s.storeSpan t id
    s.wardenCheck [id] [(p, .hostWrite)] <|> s.ideCause p a.1 a.2

/-- The byte of a block's index entry in the home, in the generation that a course writes (R183). -/
def State.destEntry (s : State) (c : Course) (id k : Nat) : Nat :=
  match s.tensor id with
  | none => 0
  | some q => (s.blockPlace q.desc (if q.toNext c.stepMode then !q.curHalf k else q.curHalf k) k).1

/-- A STORE's effect by its mode; the tile counts as arrived. -/
def State.storeEffect (s : State) (t : Task) (id : Nat) (y : Stored) : State :=
  (match t.st.p 0 1 with
  | 0 => s.storeTile t.c id t.e.tile y.tile .other (s.descOf id).bermOwned true
  | 1 => s.storeHost t id y
  | _ => s.storeCompare t id y).updStation t (fun q => { q with landed := FMap.set (fun _ => 0) q.landed t.e.tile 1 })

/-- An overlapping copy writes only after its LOAD has read its whole source (R305). -/
def State.copyHolds (s : State) (t : Task) : Bool :=
  match (t.c.inStream t.st.id 0).bind (fun (x : Stream) => t.c.station x.prod) with
  | none => false
  | some p =>
    t.c.copyPair p t.st && s.readWriteMeet t.c p t.st &&
      !((s.loadTiles t.c p).all (fun k => (t.tile? 0 k).isSome))

/-- A violation that a write of a block meets: the log names the block's index entry in the generation written (R183, R189). -/
def State.haltWrite (s : State) (t : Task) (id k cause : Nat) : State :=
  s.haltSparse t (.output 0) id cause k (s.destEntry t.c id k)

/-- Lenient fallbacks of a task's writes are logged (R184). -/
def State.logFallbacks (s : State) (t : Task) (ids : List Nat) : State :=
  ids.foldl (fun (s : State) id => s.logTask t 0x0031 id 0x30) s

/-- STORE_TASK (R295, R296): one arrived tile. -/
def execStoreTask (j : Nat) (s : State) : Host.Outcome State Fault Refusal :=
  s.runTask j stStore (fun t =>
    let id := t.inId 0
    match s.storeBad t with
    | some w => s.haltParam t (.input 0) w
    | none =>
      match t.tile? 0 t.e.tile with
      | none => s
      | some x =>
        if s.copyHolds t then s
        else if !storeFits (s.descOf id) x then s.haltInput t 0 t.e.tile
        else if t.st.p 0 1 = 1 ∧ t.e.tile < t.st.p 16 8 then s.haltParam t (.input 0) 16
        else
          let p := s.poisons t.c x || t.e.poisoned
          match s.storedTile t id (x.poisoned p) with
          | .error cause => s.haltSparse t (.input 0) id cause t.e.tile (s.destEntry t.c id t.e.tile)
          | .ok y =>
            match (if t.st.p 0 1 = 0 then none else s.hostDenial t id) with
            | some d => s.denyTask t d
            | none =>
              let s := if y.lenient then s.logTask t 0x0031 id 0x30 else s
              s.writeOut t p [] y.flags [] (fun s => s.storeEffect t id y))

/-! ## GATHER and SCATTER_ACC (R307 to R309) -/

/-- A coordinate list's tensor is as R307 states. -/
def State.listOk (s : State) (d : TensorDesc) : Bool :=
  decide (d.rank = 2 ∧ d.format = 9 ∧ d.dims.getD 1 0 = 2 ∧ 1 ≤ d.dims.getD 0 0 ∧ d.dims.getD 0 0 ≤ 2 ^ 24)
    && s.replicated d

/-- Entry `i` of a coordinate list: its two columns. -/
def Task.listEntry (t : Task) (port i : Nat) : Nat × Nat :=
  match t.tile? port (i / 64) with
  | some x => (x.at (i % 64) 0, x.at (i % 64) 1)
  | none => (0, 0)

/-- The tile index that an entry names. -/
def coordOfEntry (e : Nat × Nat) : Nat := e.1 + e.2 % 256 * 2 ^ 32

/-- The list's entries. -/
def Task.coordList (t : Task) (port n : Nat) : List (Nat × Nat) := (List.range n).map (t.listEntry port)

/-- An entry is a violation: bits above 39, beyond the grid, or not among the tiles it may name. -/
def entryBad (count : Nat) (may : Nat → Bool) (e : Nat × Nat) : Bool :=
  decide (256 ≤ e.2) || decide (count ≤ coordOfEntry e) || !may (coordOfEntry e)

/-- The first entry of a list on a port that is a violation: its tile and the byte in it of the value that fails, column 1's where that
has bits 31:8 set (R190). -/
def State.listBad (s : State) (t : Task) (port n count : Nat) (may : Nat → Bool) : Option (Nat × Nat) :=
  ((List.range n).find? (fun i => entryBad count may (t.listEntry port i))).map (fun i =>
    (i / 64, 4 * orderOf (s.descOf (t.inId port)).colOrder (i % 64) (if 256 ≤ (t.listEntry port i).2 then 1 else 0)))

/-- The tiles of a whole list, as needs of a port. -/
def listNeeds (port n : Nat) : List (Nat × Nat) := (List.range (ceilDiv n 64)).map (fun k => (port, k))

/-- A replicated tensor of shape (n, 64, 64) in a format. -/
def State.stackOk (s : State) (d : TensorDesc) (n : Nat) : Bool :=
  d.dims == [n, 64, 64] && s.replicated d && !d.sparse

/-- What GATHER's parameters or its tensors break (R308). -/
def State.gatherBad (s : State) (t : Task) : Option Nat :=
  let st := t.st
  let list := s.descOf (t.inId 0)
  let g := s.descOf (t.outId 0)
  failAt (decide (st.params.length ≠ 16)) 0
    <|> (match s.usable t.c.desc.func (st.p 0 3) with
      | none => some 0
      | some q => failAt (q.desc.sparse || decide (q.desc.rank < 2)) 0
        <|> failAt (decide (q.desc.format ≠ g.format ∨ q.desc.valueFormat ≠ g.valueFormat
            ∨ q.desc.scaleBlk ≠ g.scaleBlk)) 0x200)
    <|> failAt (!st.zero 3 16) 3
    <|> failAt (!s.listOk list) 0x100
    <|> failAt (!s.stackOk g (list.dims.getD 0 0)) 0x200

/-- GATHER_TASK (R308): tile j of G is a copy of the tile that entry j names. -/
def execGatherTask (j : Nat) (s : State) : Host.Outcome State Fault Refusal :=
  s.runTask j stGather (fun t =>
    match s.gatherBad t with
    | some w => if w = 0x100 then s.haltInput t 0 else s.haltFormat t w
    | none =>
      let sid := t.st.p 0 3
      let src := s.descOf sid
      let n := (s.descOf (t.inId 0)).dims.getD 0 0
      let needs := listNeeds 0 n
      if !t.ready needs || decide (n ≤ t.e.tile) then s
      else match s.listBad t 0 n src.tileCount (s.holds src) with
      | some p => s.haltSparse t (.input 0) (t.inId 0) 0x13 p.1 p.2
      | none =>
        let x := s.readTile sid (coordOfEntry (t.listEntry 0 t.e.tile)) t.c.epoch
        let h := (s.descOf (t.outId 0)).header (t.outId 0) t.e.tile (s.genOf (t.outId 0)) t.c.epoch
        let y := { x with hdr := { h with extRows := x.hdr.extRows, extCols := x.hdr.extCols } }
        s.deliver t (x.hdr.poison || s.poisonedIn t needs) [(0, y)] 0 [])

/-- What SCATTER_ACC's parameters or its tensors break (R309). -/
def State.scatterBad (s : State) (t : Task) : Option Nat :=
  let st := t.st
  let inp := s.descOf (t.inId 0)
  let list := s.descOf (t.inId 1)
  failAt (decide (st.params.length ≠ 16 ∨ 2 < st.p 0 1)) 0
    <|> failAt (decide (st.p 0 1 = 2 ∧ st.p 1 1 ≠ 0)) 1
    <|> failAt (decide (st.p 0 1 ≠ 2) && indexFormat inp.format) 0x100
    <|> (match s.usable t.c.desc.func (st.p 2 3) with
      | none => some 2
      | some q => failAt q.desc.sparse 2
        <|> failAt (decide (st.p 0 1 = 2 ∧ (inp.format ≠ q.desc.format ∨ inp.scaleBlk ≠ q.desc.scaleBlk))) 0x100)
    <|> failAt (!st.zero 5 16) 5
    <|> failAt (!s.listOk list) 0x101
    <|> failAt (!s.stackOk inp (list.dims.getD 0 0)) 0x100

/-- The list positions of the entries that name a destination tile, ascending. -/
def Task.namedBy (t : Task) (n k : Nat) : List Nat :=
  (List.range n).filter (fun i => decide (coordOfEntry (t.listEntry 1 i) = k))

/-- ACC and ACC_ZERO: the folded values of a destination tile with the flags of the folds. -/
def State.scatterValues (s : State) (t : Task) (did k : Nat) (js : List Nat) : FMap Nat × Flags :=
  let d := s.descOf did
  let cur := s.readTile did k t.c.epoch
  let cc := s.tileCtx did
  let ins := js.filterMap (t.tile? 0)
  let xs := (extentPos (d.extRows k) (d.extCols k)).map (fun p =>
    let start := if t.st.p 0 1 = 0 then [cur.fp32 cc p.1 p.2] else []
    let terms := (ins.filter (fun x => decide (p.1 < x.rows ∧ p.2 < x.cols))).map
      (fun x => x.fp32 (s.ctxOf x) p.1 p.2)
    let r := chainSum ((start ++ terms).map (fun v => v.1))
    (p, (r.1, r.2 ||| orFlags (start ++ terms))))
  (codesAt (xs.map (fun x => (x.1, x.2.1))), orFlags (xs.map (fun x => x.2)))

/-- OVERWRITE: the input tile of the highest list position, bit for bit at the valid positions. -/
def overwriteTile (d : TensorDesc) (did k : Nat) (x : Tile) : Tile :=
  { hdr := d.header did k 0 0
    elems := x.elems.filter (fun q => inExtent (d.extRows k) (d.extCols k) q.1)
    scales := x.scales }

/-- The destination tile's entries and needs. -/
def Task.scatterNeeds (t : Task) (n : Nat) : List (Nat × Nat) :=
  listNeeds 1 n ++ (t.namedBy n t.e.tile).map (fun i => (0, i))

/-- SCATTER_ACC_TASK (R309): one held destination tile. -/
def execScatterAccTask (j : Nat) (s : State) : Host.Outcome State Fault Refusal :=
  s.runTask j stScatter (fun t =>
    match s.scatterBad t with
    | some w => if w = 0x101 then s.haltInput t 1 else if w = 0x100 then s.haltInput t 0
      else s.haltParam t (.input 0) w
    | none =>
      let did := t.st.p 2 3
      let d := s.descOf did
      let k := t.e.tile
      let n := (s.descOf (t.inId 1)).dims.getD 0 0
      let needs := t.scatterNeeds n
      if !t.ready needs then s
      else match s.listBad t 1 n d.tileCount (fun _ => true) with
      | some p => s.haltSparse t (.input 1) (t.inId 1) 0x13 p.1 p.2
      | none =>
        let js := t.namedBy n k
        if js.isEmpty || !s.holds d k then s
        else
          let poison := s.poisonedIn t needs
          match t.st.p 0 1 with
          | 2 =>
            let x := overwriteTile d did k (((js.getLast?).bind (t.tile? 0)).getD {})
            s.writeOut t poison [] 0 [] (fun s => s.storeTile t.c did k (x.poisoned poison))
          | m =>
            let poison := poison || (decide (m = 0) && (s.readTile did k t.c.epoch).hdr.poison)
            let v := s.scatterValues t did k js
            let x := s.convInto t did (t.st.p 1 1) k (fun r c => val32 (FMap.get (fun _ => 0) v.1 (64 * r + c)))
            s.writeOut t poison [] (v.2 ||| x.2.1) [x.2.2] (fun s => s.storeTile t.c did k (x.1.poisoned poison)))

end Sys2Proof.Machine
end

