-- ==== Sys2Proof/Machine/Update.lean ====
section
/-! DEFINITION. The update engines' optimizer (9.2, 9.4), the dike gauge's sets (9.5), and the RNG and GAUGE stations
(9.3, 9.5). -/

namespace Sys2Proof.Machine

/-! ## Values with flags -/

/-- A value with the flags raised so far. -/
structure Fl (α : Type) where
  val : α
  flags : Flags := 0

/-- Add the flags of an operation. -/
def Fl.op {α : Type} (x : Fl α) (r : Nat × Flags) : Fl Nat := ⟨r.1, x.flags ||| r.2⟩

/-- sqrt of R241. -/
def sqrt32 (x : Nat) : Nat × Flags :=
  if x = 0 ∨ x = fp32Inf then (x, 0)
  else
    let q := VeFn.rsq.run x
    let r := mul32 x q.1
    (r.1, q.2 ||| r.2)

/-! ## The noise (R250) -/

/-- The coefficients of Table 9.6 from a8 down, for w < 5. -/
def noiseCoefLow : List Nat :=
  [0x32F16588, 0x34B84B36, 0xB66C7357, 0xB6935AC1, 0x396532DB, 0xBAA45408, 0xBB88E4EF, 0x3E7C8F63, 0x3FC02E2F]

/-- The coefficients of Table 9.6 from a8 down, for w ≥ 5. -/
def noiseCoefHigh : List Nat :=
  [0xB951F09B, 0x38D3B56B, 0x3AB0DC72, 0xBB70BDE7, 0x3BBC127B, 0xBBF9C5D7, 0x3C1AA57E, 0x3F8036DB, 0x40354F7E]

/-- A polynomial by repeated fma, from its highest coefficient. -/
def fmaPoly (cs : List Nat) (w : Nat) : Nat × Flags :=
  match cs with
  | [] => (0, 0)
  | a :: as => as.foldl (fun p c => let r := fma32 p.1 w c; (r.1, p.2 ||| r.2)) (a, 0)

/-- An exact dyadic as FP32. -/
def exact32 (m : Int) (e : Int) : Nat := (rn32 ⟨m, e⟩).1

/-- The noise z of a random word (R250). -/
def noiseOf (r : Nat) : Nat × Flags :=
  let u : Nat := r / 2 ^ 9
  let x := exact32 (2 * (u : Int) + 1 - 2 ^ 23) (-23)
  let a := exact32 (2 ^ 24 - 2 * (u : Int) - 1) (-23)
  let b := exact32 (2 * (u : Int) + 1) (-23)
  let t := mul32 a b
  let g := VeFn.log.run t.1
  let w := neg32 g.1
  let lo := lt32 w 0x40A00000
  let v := if lo then sub32 w 0x40200000
    else
      let q := sqrt32 w
      let s := sub32 q.1 0x40400000
      (s.1, q.2 ||| s.2)
  let p := fmaPoly (if lo then noiseCoefLow else noiseCoefHigh) v.1
  let y := mul32 p.1 x
  let z := mul32 y.1 0x3FB504F3
  (z.1, t.2 ||| g.2 ||| v.2 ||| p.2 ||| y.2 ||| z.2)

/-- UNIFORM of a random word: (2u + 1 − 2^24) × 2^-24, exact (R248). -/
def uniformOf (r : Nat) : Nat := exact32 (2 * ((r / 2 ^ 8 : Nat) : Int) + 1 - 2 ^ 24) (-24)

/-! ## The sequences of Table 9.3 -/

/-- An UPDATE's hyperparameters (Table 9.2), and NS of MASTER's polder with NOISED. -/
structure Hyper where
  opt : Nat
  lr : Nat
  b1 : Nat
  ob1 : Nat
  b2 : Nat
  ob2 : Nat
  eps : Nat
  wd : Nat
  bc1 : Nat
  bc2 : Nat
  gscale : Nat
  ns : Option Nat

/-- The hyperparameters of a station. -/
def Station.hyper (st : Station) (ns : Nat) : Hyper where
  opt := st.p 0 1
  lr := st.p 20 4
  b1 := st.p 24 4
  ob1 := st.p 28 4
  b2 := st.p 32 4
  ob2 := st.p 36 4
  eps := st.p 40 4
  wd := st.p 44 4
  bc1 := st.p 48 4
  bc2 := st.p 52 4
  gscale := st.p 56 4
  ns := if (st.p 1 1).testBit 0 then some ns else none

/-- What the sequence computes at one position before tau: d, the new moments, and the flags. -/
structure Delta where
  d : Nat
  m : Option Nat := none
  v : Option Nat := none
  flags : Flags := 0

/-- gs: the gradient with its noise, scaled (Table 9.3). -/
def Hyper.scaled (h : Hyper) (g z : Nat) : Nat × Flags :=
  match h.ns with
  | none => mul32 h.gscale g
  | some ns =>
    let n := fma32 ns z g
    let s := mul32 h.gscale n.1
    (s.1, n.2 ||| s.2)

/-- SGD_M. -/
def Hyper.sgd (h : Hyper) (gs w m : Nat) : Delta :=
  let a := fma32 h.wd w gs
  let m' := fma32 h.b1 m a.1
  { d := m'.1, m := some m'.1, flags := a.2 ||| m'.2 }

/-- ADAM, ADAMW and LAYER_ADAPTIVE. -/
def Hyper.adam (h : Hyper) (gs w m v : Nat) : Delta :=
  let a := if h.opt = 1 then fma32 h.wd w gs else (gs, 0)
  let t := mul32 h.ob1 a.1
  let m' := fma32 h.b1 m t.1
  let q := mul32 a.1 a.1
  let u := mul32 h.ob2 q.1
  let v' := fma32 h.b2 v u.1
  let mh := mul32 m'.1 h.bc1
  let vh := mul32 v'.1 h.bc2
  let sq := sqrt32 vh.1
  let den := add32 sq.1 h.eps
  let rc := VeFn.rcp.run den.1
  let d := mul32 mh.1 rc.1
  let e := if h.opt = 1 then (d.1, 0) else fma32 h.wd w d.1
  { d := e.1, m := some m'.1, v := some v'.1
    flags := a.2 ||| t.2 ||| m'.2 ||| q.2 ||| u.2 ||| v'.2 ||| mh.2 ||| vh.2 ||| sq.2 ||| den.2 ||| rc.2 ||| d.2 ||| e.2 }

/-- FACTORED, pass 2; `m` is absent where MASTER holds no first moment. -/
def Hyper.factored (h : Hyper) (gs w : Nat) (m : Option Nat) (rowf colf rsum : Nat) : Delta :=
  let mh := match m with
    | none => (gs, none, 0)
    | some m =>
      let t := mul32 h.ob1 gs
      let m' := fma32 h.b1 m t.1
      let x := mul32 m'.1 h.bc1
      (x.1, some m'.1, t.2 ||| m'.2 ||| x.2)
  let rc := VeFn.rcp.run rsum
  let p := mul32 rowf colf
  let q := mul32 p.1 rc.1
  let vh := mul32 q.1 h.bc2
  let rs := VeFn.rsq.run vh.1
  let e := mul32 mh.1 rs.1
  let d := fma32 h.wd w e.1
  { d := d.1, m := mh.2.1
    flags := mh.2.2 ||| rc.2 ||| p.2 ||| q.2 ||| vh.2 ||| rs.2 ||| e.2 ||| d.2 }

/-- The update after tau and LR, and the new master value: (d, w) with the flags. -/
def Hyper.apply (h : Hyper) (tau w : Nat) (x : Delta) : Nat × Nat × Flags :=
  let t := if h.opt = 3 then mul32 tau x.d else (x.d, 0)
  let d := mul32 h.lr t.1
  let w' := sub32 w d.1
  (d.1, w'.1, x.flags ||| t.2 ||| d.2 ||| w'.2)

/-! ## Parameters (R240) -/

/-- Slices of a MASTER or companion: 1 for rank 2, else the leading extent. -/
def TensorDesc.slices (d : TensorDesc) : Nat := if d.rank = 3 then d.dims.getD 0 0 else 1

/-- A rank-2 tensor has the last two dimensions and shards of another. -/
def fitsLastTwo (d m : TensorDesc) : Bool :=
  decide (d.rank = 2) && d.dims == m.dims.drop (m.dims.length - 2) && d.shards == m.shards.drop (m.shards.length - 2)

/-- c is within Table 9.1. -/
def slicesOk (opt c : Nat) : Bool :=
  match opt with
  | 0 => decide (2 ≤ c ∧ c ≤ 4)
  | 4 => decide (1 ≤ c ∧ c ≤ 4)
  | _ => decide (3 ≤ c ∧ c ≤ 4)

/-- The polder of a tensor has the NOISED policy. -/
def State.inPrivate (s : State) (id : Nat) : Bool := s.policyOf (s.polderOf id) == 2

/-- A usable tensor's description. -/
def State.namedDesc (s : State) (t : Task) (id : Nat) : Option TensorDesc :=
  (s.usable t.c.desc.func id).map (fun (x : Tensor) => x.desc)

/-- A factor tensor: dense FP32 of shape (n), sharded as dimension `q` of MASTER's last two. -/
def factorOk (d m : TensorDesc) (q : Nat) : Bool :=
  let n := m.dims.length
  !d.sparse && decide (d.format = 0 ∧ d.rank = 1) && d.dims.getD 1 0 == m.dims.getD (n - 2 + q) 0
    && sameShard d 1 m (n - 2 + q)

/-- The first byte of an UPDATE's parameters, or the port, that breaks R240, for the optimizers. A COPY of a rank other than 2, and a
sparse COPY beside a dense MASTER, are taken as inconsistencies at byte 8 (log entry 130). -/
def State.updateBad (s : State) (t : Task) : Option Nat :=
  let st := t.st
  let opt := st.p 0 1
  let fact := decide (opt = 4)
  failAt (decide (st.params.length ≠ 64 ∨ 5 < opt)) 0
    <|> failAt (decide (1 < st.p 1 1) || ((st.p 1 1).testBit 0 && !s.inPrivate (st.p 4 3))) 1
    <|> failAt (!st.zero 7 8) 7 <|> failAt (!st.zero 11 12) 11 <|> failAt (!st.zero 15 16) 15
    <|> failAt (!st.zero 19 20) 19 <|> failAt (!st.zero 60 64) 60
    <|> ((List.range 10).findSome? (fun i => failAt (!isFin32 (st.p (20 + 4 * i) 4)) (20 + 4 * i)))
    <|> failAt (decide (opt ≠ 0) && !lt32 0 (st.p 40 4)) 40
    <|> (match s.namedDesc t (st.p 4 3) with
      | none => some 4
      | some m =>
        failAt (decide (m.elemCode ≠ 0) || !(if m.sparse then decide (m.rank = 2 ∨ m.rank = 3) else decide (m.rank = 3))
            || (decide (m.rank = 3) && s.shardedDim m 0) || !slicesOk opt m.slices) 4
          <|> (if st.p 8 3 = 0 then none else match s.namedDesc t (st.p 8 3) with
            | none => some 8
            | some c => failAt (!fitsLastTwo c m || decide (c.sparse ≠ m.sparse) || (fmtOf c.elemCode).isNone) 8)
          <|> (if !fact then failAt (decide (st.p 12 3 ≠ 0)) 12 else match s.namedDesc t (st.p 12 3) with
            | none => some 12
            | some f => failAt (!factorOk f m 0) 12)
          <|> (if !fact then failAt (decide (st.p 16 3 ≠ 0)) 16 else match s.namedDesc t (st.p 16 3) with
            | none => some 16
            | some f => failAt (!factorOk f m 1) 16)
          <|> ((List.range st.inPorts).findSome? (fun q =>
            let g := s.descOf (t.inId q)
            failAt (!fitsLastTwo g m || (fmtOf g.elemCode).isNone || (g.sparse && !m.sparse)) (0x100 + q)))
          <|> failAt (decide (st.outPorts = 1 ∧ t.outId 0 ≠ st.p 4 3)) 0x200)

/-- The first byte that a CLIP's parameters break (R240, R249). -/
def State.clipBad (s : State) (t : Task) : Option Nat :=
  let st := t.st
  let x := s.descOf (t.inId 0)
  let y := s.descOf (t.outId 0)
  failAt (decide (st.params.length ≠ 64 ∨ st.p 0 1 ≠ 5)) 0 <|> failAt (decide (st.p 1 1 ≠ 0)) 1
    <|> failAt (!st.zero 4 8) 4 <|> failAt (!st.zero 8 12) 8 <|> failAt (!st.zero 12 16) 12
    <|> failAt (!st.zero 16 20) 16 <|> failAt (!st.zero 60 64) 60
    <|> ((List.range 10).findSome? (fun i => failAt (!isFin32 (st.p (20 + 4 * i) 4)) (20 + 4 * i)))
    <|> failAt (!lt32 0 (st.p 40 4)) 40
    <|> failAt (decide (st.inPorts ≠ 1 ∨ x.rank ≠ 1 ∨ x.format ≠ 0) || !s.inPrivate (t.inId 0)) 0x100
    <|> failAt (decide (st.outPorts ≠ 1 ∨ y.format ≠ 0 ∨ y.rank ≠ 1) || y.dims != x.dims || y.shards != x.shards) 0x200

/-! ## Positions and gradients (R237, R238) -/

/-- The positions of a dense tile or of a sparse block's mask, within the valid extent. -/
def tilePositions (d : TensorDesc) (k : Nat) (x : Tile) : List Nat :=
  if d.sparse then x.mask
  else (extentPos (d.extRows k) (d.extCols k)).map (fun p => 64 * p.1 + p.2)

/-- The FP32 value at a position of a tile, with the flags of its decoding. -/
def posFp32 (x : Tile) (c : TileCtx) (vf p : Nat) : Nat × Flags :=
  ofVal32 ((valueAt x c vf (p / 64) (p % 64)).getD Val.zero)

/-- An element code is subnormal in its format (R253). -/
def codeSubnormal (code c : Nat) : Bool :=
  match fmtOf code with
  | none => false
  | some f => decide (c / 2 ^ f.man % 2 ^ f.expBits = 0 ∧ c % 2 ^ f.man ≠ 0)

/-- A gradient at a position: g = g0, or rn(g0 + g1), with flags, and whether its element code is subnormal. -/
def State.gradAt (s : State) (t : Task) (k p : Nat) : Nat × Flags × Bool :=
  let one (q : Nat) : (Nat × Flags) × Bool :=
    match t.tile? q k with
    | none => ((0, 0), false)
    | some x =>
      let d := s.descOf (t.inId q)
      (posFp32 x (s.ctxOf x) d.valueFormat p, codeSubnormal (if x.hdr.longSum then 0 else d.elemCode) (posCode x p))
  let a := one 0
  if t.st.inPorts < 2 then (a.1.1, a.1.2, a.2)
  else
    let b := one 1
    let g := add32 a.1.1 b.1.1
    (g.1, a.1.2 ||| b.1.2 ||| g.2, codeSubnormal 0 g.1)

/-- A tile of slice `i` of MASTER above the slice-0 tile `k`. -/
def TensorDesc.sliceTile (d : TensorDesc) (i k : Nat) : Nat := i * (d.tileRows * d.tileCols) + k

/-- The slice-0 tiles of MASTER that the device holds. -/
def State.sliceTiles (s : State) (d : TensorDesc) : List Nat :=
  (s.heldTiles d).filter (fun k => decide (k < d.tileRows * d.tileCols))

/-- The block or tile of M_r at a slice, as the course reads it. -/
def State.masterTile (s : State) (t : Task) (id i k : Nat) : Tile :=
  match s.tensor id with
  | none => {}
  | some m => { m.readMask t.c id (m.desc.sliceTile i k) with
      hdr := { (m.readMask t.c id (m.desc.sliceTile i k)).hdr with gen := m.genNo % 2 ^ 16 } }

/-- The records of a block: its form, and of every position its KEEP and NEW bits (R174, R175). -/
def Tile.records (x : Tile) : Nat × List (Nat × Bool × Bool) := (x.form, x.recs.map (fun e => (e.pos, e.keep, e.new)))

/-- Every slice that the sequence reads has slice 0's mask, and a sparse gradient carries the same records (R229,
R238). -/
def State.masksAgree (s : State) (t : Task) (id k : Nat) : Bool :=
  let d := s.descOf id
  !d.sparse ||
    (let m := s.masterTile t id 0 k
     (List.range d.slices).all (fun i => (s.masterTile t id i k).mask == m.mask) &&
     (List.range t.st.inPorts).all (fun q => match t.tile? q k with
       | some x => decide (x.hdr.format < 0x10) || x.records == m.records
       | none => true))

/-- The gradients of a tile by position. -/
def State.gradTile (s : State) (t : Task) (id k : Nat) : List (Nat × (Nat × Flags × Bool)) :=
  (tilePositions (s.descOf id) k (s.masterTile t id 0 k)).map (fun p => (p, s.gradAt t k p))

/-- What an UPDATE task needs: the gradients of every tile of the shard, for the veto and pass 1 cover them all. -/
def State.updateNeeds (s : State) (t : Task) : List (Nat × Nat) :=
  (List.range t.st.inPorts).flatMap (fun q => (s.sliceTiles (s.descOf (t.st.p 4 3))).map (fun k => (q, k)))

/-- A gradient of the station is not finite at some update position (R243). -/
def State.gradVeto (s : State) (t : Task) (id : Nat) : Bool :=
  (s.sliceTiles (s.descOf id)).any (fun k => (s.gradTile t id k).any (fun g => !isFin32 g.2.1))

/-! ## The sequence over a tile -/

/-- The noise of a position (R250); +0 without NOISED. -/
def Task.noise (t : Task) (h : Hyper) (id x : Nat) : Nat × Flags :=
  if h.ns.isSome then noiseOf (randomWord t.c.seed id x t.c.step .noise) else (0, 0)

/-- One update position: its flat index, w, gs, and what the sequence gives, with pass 1's factors. -/
structure UpdPos where
  pos : Nat
  flat : Nat
  g : Nat
  under : Bool
  w : Nat
  delta : Delta

/-- The positions of a tile with what Table 9.3 computes before tau. -/
def State.updPositions (s : State) (t : Task) (h : Hyper) (id k : Nat) (f : Pass1) : List UpdPos :=
  let d := s.descOf id
  let sl (i p : Nat) : Nat := (posFp32 (s.masterTile t id i k) {} d.valueFormat p).1
  (s.gradTile t id k).map (fun q =>
    let p := q.1
    let x := d.flat k (p / 64) (p % 64)
    let z := t.noise h id x
    let gs := h.scaled q.2.1 z.1
    let w := sl 0 p
    let r := d.tilePos k
    let dl := match h.opt with
      | 0 => h.sgd gs.1 w (sl 1 p)
      | 4 => h.factored gs.1 w (if 2 ≤ d.slices then some (sl 1 p) else none)
          (FMap.get (fun _ => 0) f.rowf (64 * r.i + p / 64)) (FMap.get (fun _ => 0) f.colf (64 * r.j + p % 64)) f.rsum
      | _ => h.adam gs.1 w (sl 1 p) (sl 2 p)
    { pos := p, flat := x, g := q.2.1, under := q.2.2.2, w := w
      delta := { dl with flags := dl.flags ||| q.2.2.1 ||| z.2 ||| gs.2 } })

/-! ## Pass 1 (R242) -/

/-- A reference sum with W = 1 over values at global flat indices: reaches end at multiples of L (R252). -/
def flatSum (L : Nat) (square : Bool) (vs : List (Nat × Nat)) : SumState :=
  let r := vs.foldl (fun (a : SumState × Nat) q =>
    let s := if q.1 / L = a.2 then a.1 else a.1.fold
    let v := val32 q.2
    (s.addWindow (windowSum [mkTerm v (if square then v else valOne)]), q.1 / L)) (({} : SumState), 0)
  r.1.fold

/-- The NORM of values at global flat indices (R242, R252). -/
def flatNorm (L : Nat) (vs : List (Nat × Nat)) : Nat × Flags :=
  let s := flatSum L true vs
  let r := longResult s.long
  let n := normOf r.1
  (n.1, s.flags ||| r.2 ||| n.2)

/-- tau of LAYER_ADAPTIVE. -/
def trustRatio (nw nd : Nat) : Nat × Flags :=
  if abs32 nw = 0 || abs32 nd = 0 || !isFin32 nw || !isFin32 nd then (0x3F800000, 0)
  else
    let q := VeFn.rcp.run nd
    let r := mul32 nw q.1
    (r.1, q.2 ||| r.2)

/-- Sort pairs by their first component. -/
def sortByKey (vs : List (Nat × Nat)) : List (Nat × Nat) :=
  FMap.setMany (fun _ => 2 ^ 32) [] vs

/-- Pass 1 of LAYER_ADAPTIVE over the shard. -/
def State.pass1Layer (s : State) (t : Task) (h : Hyper) (id : Nat) : Pass1 :=
  let us := (s.sliceTiles (s.descOf id)).flatMap (fun k => s.updPositions t h id k {})
  let L := 2 ^ t.c.reachLog2
  let nw := flatNorm L (sortByKey (us.map (fun u => (u.flat, u.w))))
  let nd := flatNorm L (sortByKey (us.map (fun u => (u.flat, u.delta.d))))
  let tau := trustRatio nw.1 nd.1
  { tau := tau.1, flags := nw.2 ||| nd.2 ||| tau.2 }

/-- The value at an index of a rank-1 FP32 tensor, in the generation read. -/
def State.vecAt (s : State) (id x : Nat) : Nat :=
  match s.tensor id with
  | some t => (t.current id (x / 64)).at 0 (x % 64)
  | none => 0

/-- A plain reference SUM with W = 1 of values in ascending held index; absent ones are null (R242). -/
def plainSum (L : Nat) (vs : List (Option Nat)) : Nat × Flags :=
  refSum 1 L (vs.map (fun v => match v with
    | some c => mkTerm (val32 c) valOne
    | none => none)) none none

/-- Pass 1 of FACTORED: the new factors and rsum. -/
def State.pass1Factored (s : State) (t : Task) (h : Hyper) (id rid cid : Nat) : Pass1 :=
  let d := s.descOf id
  let n := d.dims.length
  let L := 2 ^ t.c.reachLog2
  let qs := (s.sliceTiles d).flatMap (fun k => (s.gradTile t id k).map (fun g =>
    let p := d.tilePos k
    let x := d.flat k (g.1 / 64) (g.1 % 64)
    let z := t.noise h id x
    let gs := h.scaled g.2.1 z.1
    let sq := mul32 gs.1 gs.1
    let q := add32 sq.1 h.eps
    ((64 * p.i + g.1 / 64) * d.cols + 64 * p.j + g.1 % 64, q.1, g.2.2.1 ||| z.2 ||| gs.2 ||| sq.2 ||| q.2)))
  let tab : FMap (Option Nat) := FMap.setMany (fun _ => none) [] (qs.map (fun q => (q.1, some q.2.1)))
  let at' (o i : Nat) : Option Nat := FMap.get (fun _ => none) tab (o * d.cols + i)
  let os := s.heldIndices d (n - 2)
  let is := s.heldIndices d (n - 1)
  let factor (fid x : Nat) (sum : Nat × Flags) : Nat × Flags :=
    let a := mul32 h.ob2 sum.1
    let b := fma32 h.b2 (s.vecAt fid x) a.1
    (b.1, sum.2 ||| a.2 ||| b.2)
  let rows := os.map (fun o => (o, factor rid o (plainSum L (is.map (fun i => at' o i)))))
  let cols := is.map (fun i => (i, factor cid i (plainSum L (os.map (fun o => at' o i)))))
  let rsum := plainSum L (rows.map (fun r => some r.2.1))
  { rowf := FMap.setMany (fun _ => 0) [] (rows.map (fun r => (r.1, r.2.1)))
    colf := FMap.setMany (fun _ => 0) [] (cols.map (fun c => (c.1, c.2.1)))
    rsum := rsum.1
    flags := (rows ++ cols).foldl (fun a r => a ||| r.2.2) (qs.foldl (fun a q => a ||| q.2.2) rsum.2) }

/-- The tiles of MASTER that a task reads are poisoned. -/
def State.masterPoison (s : State) (t : Task) (id k : Nat) : Bool :=
  (List.range (s.descOf id).slices).any (fun i => (s.masterTile t id i k).hdr.poison)

/-- A tile that pass 1 reads is poisoned: a gradient or a tile of MASTER anywhere in the shard, or a factor tile (R242). -/
def State.pass1Poison (s : State) (t : Task) (h : Hyper) (id : Nat) : Bool :=
  s.poisonedIn t (s.updateNeeds t) || (s.sliceTiles (s.descOf id)).any (s.masterPoison t id)
    || (decide (h.opt = 4) && [t.st.p 12 3, t.st.p 16 3].any (fun f => match s.tensor f with
      | some x => (s.heldTiles x.desc).any (fun k => (x.current f k).hdr.poison)
      | none => false))

/-- Pass 1, made once by the station's first task and kept for the others; a poisoned one is made again. -/
def State.pass1 (s : State) (t : Task) (h : Hyper) (id : Nat) : Pass1 :=
  match t.st.pass1 with
  | some p => if p.bad then fresh else p
  | none => fresh
where
  /-- The first pass of the station's optimizer. -/
  fresh : Pass1 :=
    match h.opt with
    | 3 => { s.pass1Layer t h id with bad := s.pass1Poison t h id }
    | 4 => { s.pass1Factored t h id (t.st.p 12 3) (t.st.p 16 3) with bad := s.pass1Poison t h id }
    | _ => {}

/-! ## The gauge's sets -/

/-- A set takes values at flat indices; subnormal element codes are noted. -/
def GaugeSet.take (g : GaugeSet) (vs : List (Nat × Nat × Bool)) : GaugeSet where
  vals := FMap.setMany (fun _ => none) g.vals (vs.map (fun v => (v.1, some v.2.1)))
  under := vs.foldl (fun u v => if v.2.2 then insertNat v.1 u else u.filter (fun x => x ≠ v.1)) g.under

/-! ## Writes -/

/-- FP32 subnormal. -/
def subnormal32 (c : Nat) : Bool := codeSubnormal 0 c

/-- A block of a generation being written with new values at the positions of M_r: its mask and KEEP stand, NEW
marks what is not in M_r (R213, R234). -/
def State.rewriteBlock (s : State) (t : Task) (id k : Nat) (vals : FMap (Option Nat)) : Except Nat (Layout × Tile) :=
  match s.tensor id with
  | none => .error 0x01
  | some m =>
    let old := m.readMask t.c id k
    let dest := m.dest t.c.stepMode id k
    (m.desc.newLayout k old dest.maskMap).map (fun (l : Layout) =>
      let code (p : Nat) : Nat := match FMap.get (fun _ => none) vals p with
        | some v => v
        | none => posCode dest p
      (l, copyBlock m.desc l id k code (fun _ => 0x7F) (fun _ => true)))

/-- A dense FP32 tile with new values. -/
def denseTile32 (d : TensorDesc) (id k : Nat) (vals : FMap (Option Nat)) : Tile :=
  { hdr := d.header id k 0 0
    elems := vals.filterMap (fun kv => match kv.2 with
      | some 0 | none => none
      | some v => some (kv.1, v)) }

/-- The tiles that an UPDATE task writes of MASTER, by slice. -/
def State.masterWrites (s : State) (t : Task) (id k : Nat) (slices : List (FMap (Option Nat))) :
    List (Nat × Except Nat (Option Layout × Tile)) :=
  let d := s.descOf id
  (slices.zip (List.range slices.length)).map (fun q =>
    let kk := d.sliceTile q.2 k
    (kk, if d.sparse then (s.rewriteBlock t id kk q.1).map (fun (x : Layout × Tile) => (some x.1, x.2))
         else .ok (none, denseTile32 d id kk q.1)))

/-- COPY of a new master tile (R244): MASTER's form, records and KEEP, with scales of its own. -/
def State.copyWrite (s : State) (t : Task) (cid k : Nat) (l : Option Layout) (m : Tile) : Tile × Flags × WeirIn :=
  let spec := s.convSpec t.c cid 0
  let v (p : Nat) : Val := val32 (posCode m p)
  let d := spec.desc
  match l with
  | some l =>
    let x := spec.block l k (fun _ => .nearest) v
    let ps := (l.pos.map (fun q => q.1)).filter (inExtent (d.extRows k) (d.extCols k))
    (x.1, x.2, { id := cid, amax := amaxCode (ps.map v), ovf := x.2.testBit 0, grad := false })
  | none => s.convInto t cid 0 k (fun r c => v (64 * r + c))

/-- The factor tiles that a task writes: those of its rows where it is the first held column tile, and of its columns
where it is the first held row tile. -/
def State.factorWrites (s : State) (t : Task) (id k : Nat) (f : Pass1) : List (Nat × Nat × Tile) :=
  let d := s.descOf id
  let p := d.tilePos k
  let ts := s.sliceTiles d
  let first (same : TilePos → Bool) : Bool := (ts.find? (fun q => same (d.tilePos q))) == some k
  let tile (fid u : Nat) (m : FMap Nat) : Tile :=
    { hdr := (s.descOf fid).header fid u 0 0
      elems := (m.filter (fun kv => kv.1 / 64 = u ∧ kv.2 ≠ 0)).map (fun kv => (kv.1 % 64, kv.2)) }
  (if first (fun q => q.i == p.i) then [(t.st.p 12 3, p.i, tile (t.st.p 12 3) p.i f.rowf)] else [])
    ++ (if first (fun q => q.j == p.j) then [(t.st.p 16 3, p.j, tile (t.st.p 16 3) p.j f.colf)] else [])

/-- Write several tiles of homes. -/
def State.storeMany (s : State) (c : Course) (k : WriteKind) (ws : List (Nat × Nat × Tile)) : State :=
  ws.foldl (fun (s : State) (w : Nat × Nat × Tile) => s.storeTile c w.1 w.2.1 w.2.2 k) s

/-- The first violation among blocks to write: its tile and cause. -/
def firstCause (xs : List (Nat × Except Nat (Option Layout × Tile))) : Option (Nat × Nat) :=
  xs.findSome? (fun x => match x.2 with
    | .error c => some (x.1, c)
    | .ok _ => none)

/-- The tiles among blocks to write. -/
def goodTiles (xs : List (Nat × Except Nat (Option Layout × Tile))) : List (Nat × Option Layout × Tile) :=
  xs.filterMap (fun x => match x.2 with
    | .error _ => none
    | .ok y => some (x.1, y.1, y.2))

/-! ## UPDATE_TASK -/

/-- The tile that output 0 carries: slice 0 of MASTER as FP32 with the written generation's number (R238). -/
def State.masterOut (s : State) (t : Task) (id k : Nat) (x : Tile) : List (Nat × Tile) :=
  if t.st.outPorts = 0 then []
  else
    let d := s.descOf id
    let h := d.header id k (s.writeGenOf t.c id) t.c.epoch
    [(0, { x with hdr := { h with format := if d.sparse then formatOf d.format x.form else d.format } })]

/-- A vetoed UPDATE writes nothing: the gradient set is recorded, output 0 carries the master values read (R243), and the
flags are those of the gradients (R93, R238). -/
def State.vetoUpdate (s : State) (t : Task) (id : Nat) (poison : Bool) : State :=
  let k := t.e.tile
  let d := s.descOf id
  let gt := s.gradTile t id k
  let gs := gt.map (fun g => (d.flat k (g.1 / 64) (g.1 % 64), g.2.1, g.2.2.2))
  let s := s.updStation t (fun q => { q with diag := { q.diag with vetoed := true, set1 := q.diag.set1.take gs } })
  let s := match s.course t.c.id with
    | none => s
    | some c => s.setCourse { c with veto := true }
  s.guarded t none (fun _ => false) (fun s => s.finish t poison (s.masterOut t id k (s.masterTile t id 0 k))
    (gt.foldl (fun a g => a ||| g.2.2.1) 0))

/-- The effect of an UPDATE on one tile position of MASTER's slices. -/
def State.applyUpdate (s : State) (t : Task) (h : Hyper) (id : Nat) (poison : Bool) : State :=
  let k := t.e.tile
  let f := s.pass1 t h id
  let us := s.updPositions t h id k f
  let rs := us.map (fun u => (u, h.apply f.tau u.w u.delta))
  let tab (g : UpdPos × Nat × Nat × Flags → Option Nat) : FMap (Option Nat) :=
    FMap.setMany (fun _ => none) [] (rs.map (fun r => (r.1.pos, g r)))
  let slices := [tab (fun r => some r.2.2.1)]
    ++ (if h.opt ≠ 4 ∨ 2 ≤ (s.descOf id).slices then [tab (fun r => r.1.delta.m)] else [])
    ++ (if h.opt ≠ 0 ∧ h.opt ≠ 4 then [tab (fun r => r.1.delta.v)] else [])
  let ws := s.masterWrites t id k slices
  match firstCause ws with
  | some c => s.haltWrite t id c.1 c.2
  | none =>
    let tiles := goodTiles ws
    let cid := t.st.p 8 3
    let m0 := (tiles.head?).map (fun x => x.2)
    let copy := if cid = 0 then none else m0.map (fun x => s.copyWrite t cid k x.1 x.2)
    let fl := rs.foldl (fun a r => a ||| r.2.2.2) (f.flags ||| (match copy with
      | some c => c.2.1
      | none => 0))
    let kind : WriteKind := if h.ns.isSome then .noised else .other
    let factors := if h.opt = 4 then s.factorWrites t id k f else []
    let poison := poison || f.bad
    let out := match m0 with
      | some x => s.masterOut t id k x.2
      | none => []
    s.writeOut t poison out fl (copy.map (fun c => c.2.2)).toList (fun s =>
      let s := s.updStation t (fun q => { q with
        pass1 := if h.opt = 3 ∨ h.opt = 4 then some f else q.pass1
        diag := { q.diag with
          set0 := q.diag.set0.take (rs.map (fun r => (r.1.flat, r.2.2.1, subnormal32 r.2.2.1)))
          set1 := q.diag.set1.take (us.map (fun u => (u.flat, u.g, u.under)))
          set2 := q.diag.set2.take (rs.map (fun r => (r.1.flat, r.2.1, subnormal32 r.2.1))) } })
      let fallback (x : Nat × Option Layout × Tile) : Bool := x.2.1.any (fun l => l.lenient)
      let s := s.logFallbacks t ((tiles.filter fallback).map (fun _ => id)
        ++ (if cid ≠ 0 ∧ (tiles.head?).any fallback = true then [cid] else []))
      let s := s.storeMany t.c kind (tiles.map (fun x => (id, x.1, x.2.2.poisoned poison)))
      let s := match copy with
        | some c => s.storeTile t.c cid k (c.1.poisoned poison) kind
        | none => s
      s.storeMany t.c .other (factors.map (fun w => (w.1, w.2.1, w.2.2.poisoned poison))))

/-- UPDATE_TASK (R241): one tile position of the last two dimensions. In a plain course, which has no step to veto, a gradient
that is not finite is applied as it is (log entry 93). A vetoed step that probes runs the probe form of its COPY
first (R262). -/
def execUpdateTask (j : Nat) (s : State) : Host.Outcome State Fault Refusal :=
  s.runTask j stUpdate (fun t =>
    if t.st.p 0 1 = 5 then s
    else
      match s.updateBad t with
      | some w => s.haltFormat t w
      | none =>
        let id := t.st.p 4 3
        let needs := s.updateNeeds t
        if !t.ready needs || !(s.sliceTiles (s.descOf id)).contains t.e.tile then s
        else if !s.masksAgree t id t.e.tile then s.haltFormat t t.e.tile
        else
          let h := t.st.hyper (((s.polder (s.polderOf id)).map (fun (p : Polder) => p.ns)).getD 0)
          let poison := s.poisonedIn t ((List.range t.st.inPorts).map (fun q => (q, t.e.tile)))
            || s.masterPoison t id t.e.tile
          let probe := decide (t.st.p 8 3 ≠ 0) && s.needsProbe t.c (t.st.p 8 3)
          if t.c.stepMode && (t.c.veto || s.gradVeto t id) && !probe then s.vetoUpdate t id poison
          else s.applyUpdate t h id poison)

/-! ## CLIP_TASK (R249) -/

/-- The factor of a squared norm. -/
def clipFactor (c c2 n : Nat) : Nat × Flags :=
  if !isFin32 n then (0, 0)
  else if !lt32 c2 n then (0x3F800000, 0)
  else
    let q := VeFn.rsq.run n
    let f := mul32 c q.1
    (minmax32 false f.1 0x3F800000, q.2 ||| f.2)

/-- CLIP_TASK: one tile of squared norms becomes a tile of factors. -/
def execClipTask (j : Nat) (s : State) : Host.Outcome State Fault Refusal :=
  s.runTask j stUpdate (fun t =>
    if t.st.p 0 1 ≠ 5 then s
    else
      match s.clipBad t with
      | some w => s.haltFormat t w
      | none =>
        match t.tile? 0 t.e.tile with
        | none => s
        | some x =>
          let p := s.polder (s.polderOf (t.inId 0))
          let c := (p.map (fun (q : Polder) => leAt q.body 8 4)).getD 0
          let c2 := (p.map (fun (q : Polder) => q.c2)).getD 0
          let d := s.descOf (t.outId 0)
          let k := t.e.tile
          let xs := (extentPos (d.extRows k) (d.extCols k)).map (fun q =>
            let n := x.fp32 (s.ctxOf x) q.1 q.2
            (q, n.1, clipFactor c c2 n.1, n.2))
          let tile : Tile :=
            { hdr := d.header (t.outId 0) k (s.writeGenOf t.c (t.outId 0)) t.c.epoch
              elems := codesAt (xs.map (fun y => (y.1, y.2.2.1.1))) }
          let fl := xs.foldl (fun a y => a ||| y.2.2.1.2 ||| y.2.2.2) 0
          let s := s.updStation t (fun q => { q with diag := { q.diag with
            set0 := q.diag.set0.take (xs.map (fun y => (d.flat k y.1.1 y.1.2, y.2.1, subnormal32 y.2.1)))
            set2 := q.diag.set2.take (xs.map (fun y =>
              (d.flat k y.1.1 y.1.2, y.2.2.1.1, subnormal32 y.2.2.1.1))) } })
          s.deliver t (s.poisons t.c x) [(0, tile)] fl [])

/-! ## RNG and GAUGE -/

/-- The first condition of R248 that an RNG breaks (log entry 94). -/
def State.rngBad (s : State) (t : Task) : Option Nat :=
  let d := s.descOf (t.outId 0)
  let dist := t.st.p 0 1
  failAt (decide (t.st.params.length ≠ 8 ∨ 2 < dist)) 0 <|> failAt (!t.st.zero 2 8) 2
    <|> failAt (decide ((dist = 0) ≠ (d.format = 9)) || decide (d.format = 8)) 0x200

/-- RNG_TASK (R248): one output tile. UNIFORM and NORMAL into an index format, for which chapter 3 has no conversion, halt the
stream with FORMAT (log entry 94). -/
def execRngTask (j : Nat) (s : State) : Host.Outcome State Fault Refusal :=
  s.runTask j stRng (fun t =>
    let st := t.st
    let id := t.outId 0
    let d := s.descOf id
    let dist := st.p 0 1
    match s.rngBad t with
    | some w => s.haltFormat t w
    | none =>
      let k := t.e.tile
      let word (r c : Nat) : Nat := randomWord t.c.seed id (d.flat k r c) t.c.step .user
      if dist = 0 then
        s.deliver t false [(0, { hdr := d.header id k (s.writeGenOf t.c id) t.c.epoch
                                 elems := codesAt ((extentPos (d.extRows k) (d.extCols k)).map (fun p =>
                                   (p, word p.1 p.2))) })] 0 []
      else
        let val (r c : Nat) : Nat × Flags := if dist = 1 then (uniformOf (word r c), 0) else noiseOf (word r c)
        let x := s.convTile t 0 (st.p 1 1) k (fun r c => val32 (val r c).1)
        let fl := orFlags ((extentPos (d.extRows k) (d.extCols k)).map (fun p => val p.1 p.2))
        s.deliverTile t false x fl)

/-- The first condition of R251 that a GAUGE breaks. -/
def Task.gaugeBad (t : Task) : Option Nat := failAt (decide (t.st.params.length ≠ 8)) 0 <|> failAt (!t.st.zero 2 8) 2

/-- GAUGE_TASK (R251): the tile passes unchanged and its stored values, decoded with the flags of R93, enter set 0. -/
def execGaugeTask (j : Nat) (s : State) : Host.Outcome State Fault Refusal :=
  s.runTask j stGauge (fun t =>
    match t.gaugeBad with
    | some w => s.haltFormat t w
    | none =>
      match t.tile? 0 t.e.tile with
      | none => s
      | some x =>
        let d := s.descOf (t.inId 0)
        let sp := decide (0x10 ≤ x.hdr.format)
        let ps := if sp then x.mask else (extentPos x.rows x.cols).map (fun p => 64 * p.1 + p.2)
        let code := if x.hdr.longSum then 0 else if sp then d.valueFormat else x.hdr.format
        let vs := ps.map (fun p => (p, posFp32 x (s.ctxOf x) d.valueFormat p))
        let s := s.updStation t (fun q => { q with diag := { q.diag with
          set0 := q.diag.set0.take (vs.map (fun v =>
            (d.flat t.e.tile (v.1 / 64) (v.1 % 64), v.2.1, codeSubnormal code (posCode x v.1)))) } })
        s.deliver t (s.poisons t.c x) [(0, x)] (orFlags (vs.map (fun v => (v.1, v.2.2)))) [])

end Sys2Proof.Machine
end

