-- ==== Sys2Proof/Machine/Mask.lean ====
section
/-! DEFINITION. Pruning, regrowth and histograms (chapter 8): scores and keys (8.2), HIST (8.3), the selection of a
scope unit (8.4), and the rewriting of blocks by PRUNE and REGROW (8.5). A task of these stations is one scope unit. -/

namespace Sys2Proof.Machine

/-! ## Eligible positions, keys and entries (R214, R219, R220) -/

/-- An entry of a unit: its tile, its first position, its flat index and its key; a group of four counts as one. -/
structure MaskEntry where
  tile : Nat
  pos : Nat
  flat : Nat
  key : Nat

/-- What a mask station works on: target, companion, scope, score kind, and which rule of R214 applies. -/
structure MaskJob where
  target : Nat
  companion : Nat
  scope : Nat
  score : Nat
  prune : Bool

/-- The target selects whole groups (R220). -/
def TensorDesc.grouped (d : TensorDesc) : Bool := formOf d.format == bfB4

/-- A block of M_r. -/
def State.readBlockOf (s : State) (c : Course) (id k : Nat) : Tile :=
  match s.tensor id with
  | none => {}
  | some t => t.readMask c id k

/-- A position may be selected as far as the masks say (R214); a position of a group outside the extent never
stands in the way (R220). -/
def MaskJob.allowed (m : MaskJob) (rows cols : Nat) (dest read : Tile) (p : Nat) : Bool :=
  if m.prune then
    (dest.recs.any (fun e => e.pos = p && !e.keep)) || !inExtent rows cols p
  else !inExtent rows cols p || !(dest.mask.contains p || read.mask.contains p)

/-- The score of a position: its FP32 key, none for a NaN (R219), with flags. -/
def scoreKey (v : Nat × Flags) : Option Nat × Flags :=
  (if isNan32 v.1 then none else some (v.1 % 2 ^ 31), v.2)

/-- The entries of a tile within a unit, their NaN scores and their flags. `score` gives the key of a position, or
nothing where the position has no score. A group with a NaN among its scores is not eligible and counts as one (R219, R220). -/
def State.tileEntries (s : State) (t : Task) (m : MaskJob) (u k : Nat) (score : Nat → Option (Option Nat × Flags)) :
    List MaskEntry × Nat × Flags :=
  let d := s.descOf m.target
  let dest := s.destBlock t.c m.target k
  let read := s.readBlockOf t.c m.target k
  let ok := m.allowed (d.extRows k) (d.extCols k) dest read
  let ps := (tilePositions { d with format := 0 } k {}).filter (fun p => d.unitOf m.scope k p = u)
  let scored := ps.filterMap (fun p => if ok p then (score p).map (fun q => (p, q)) else none)
  let nans := (scored.filter (fun q => q.2.1.isNone)).map (fun q => q.1)
  let keyed := scored.filterMap (fun q => q.2.1.map (fun x => (q.1, x)))
  let fl := scored.foldl (fun a q => a ||| q.2.2) 0
  let entry (p key : Nat) : MaskEntry := { tile := k, pos := p, flat := d.flat k (p / 64) (p % 64), key := key }
  if d.grouped then
    let whole (ps : List Nat) : List Nat :=
      (sortNat (ps.map (fun p => p / 4))).filter (fun g => (List.range 4).all (fun i => ok (4 * g + i)))
    let bad := whole nans
    (((whole (keyed.map (fun q => q.1))).filter (fun g => !bad.contains g)).map (fun g =>
        entry (4 * g) ((keyed.filter (fun q => q.1 / 4 = g)).foldl (fun a q => max a q.2) 0)), bad.length, fl)
  else (keyed.map (fun q => entry q.1 q.2), nans.length, fl)

/-- The RANDOM score of a position of the target. -/
def State.randomKey (s : State) (t : Task) (id k p : Nat) : Nat :=
  randomWord t.c.seed id ((s.descOf id).flat k (p / 64) (p % 64)) t.c.step .regrowth / 2

/-- A position is stored in a score tile; every valid position of a dense tile is. -/
def storedAt (x : Tile) (p : Nat) : Bool :=
  if 0x10 ≤ x.hdr.format then x.mask.contains p else decide (p / 64 < x.rows ∧ p % 64 < x.cols)

/-- The scores that an input tile gives (R221, R231). -/
def State.tileScore (s : State) (t : Task) (m : MaskJob) (k : Nat) (x : Tile) (p : Nat) :
    Option (Option Nat × Flags) :=
  if !storedAt x p then none
  else if m.score = 2 then some (some (s.randomKey t m.target k p), 0)
  else
    let v := posFp32 x (s.ctxOf x) (s.descOf x.hdr.tensor).valueFormat p
    some (scoreKey (abs32 v.1, v.2))

/-- The block that a mask station reads its MAGNITUDE scores from: slice 0 of the companion, or the target, in the
generation being written (R218), with what decodes it. -/
def State.ownScores (s : State) (t : Task) (m : MaskJob) (k : Nat) : Tile × TileCtx × Nat :=
  let id := if m.companion = 0 then m.target else m.companion
  match s.tensor id with
  | none => ({}, {}, 0)
  | some q =>
    (q.dest t.c.stepMode id k,
      { outer := if q.toNext t.c.stepMode && q.isWritten k then q.writeScale else q.scale.s }, q.desc.valueFormat)

/-- The scores that PRUNE reads itself (R230). -/
def State.ownScore (s : State) (t : Task) (m : MaskJob) (k p : Nat) : Option (Option Nat × Flags) :=
  if m.score = 2 then some (some (s.randomKey t m.target k p), 0)
  else
    let b := s.ownScores t m k
    let v := posFp32 b.1 b.2.1 b.2.2 p
    some (scoreKey (abs32 v.1, v.2))

/-- The tile of a score tensor at the place of a tile of the target. -/
def State.scoreTile (s : State) (t : Task) (m : MaskJob) (port k : Nat) : Nat :=
  (s.descOf (t.inId port)).tileIndex ((s.descOf m.target).tilePos k)

/-- The entries of a unit, from an input port or from the station's own reads. -/
def State.unitEntries (s : State) (t : Task) (m : MaskJob) (u : Nat) (port : Option Nat) :
    List MaskEntry × Nat × Flags :=
  ((s.unitTiles (s.descOf m.target) m.scope u).map (fun k =>
    s.tileEntries t m u k (match port with
      | none => s.ownScore t m k
      | some q => fun p => match t.tile? q (s.scoreTile t m q k) with
        | some x => s.tileScore t m k x p
        | none => none))).foldl
    (fun a r => (a.1 ++ r.1, a.2.1 + r.2.1, a.2.2 ||| r.2.2)) ([], 0, 0)

/-- The histogram of entries: the count of each bin that holds any (R219). -/
def histogram (es : List MaskEntry) : FMap Nat :=
  es.foldl (fun m e => FMap.update (fun _ => 0) m (e.key / 2 ^ 19) (· + 1)) []

/-! ## Selection (Table 8.5) -/

/-- The threshold bin and the take from it, along bins in selection order. -/
def threshold (hist : FMap Nat) (k : Nat) : Nat → List Nat → Nat × Nat
  | before, [] => (0, k - before)
  | before, b :: bs =>
    let n := FMap.get (fun _ => 0) hist b
    if k ≤ before + n then (b, k - before) else threshold hist k (before + n) bs

/-- Fill the take from the threshold bin in ascending flat index. -/
def compact (prune : Bool) (tb : Nat) : Nat → List MaskEntry → List MaskEntry
  | _, [] => []
  | take, e :: es =>
    let b := e.key / 2 ^ 19
    if (prune && decide (b < tb)) || (!prune && decide (tb < b)) then e :: compact prune tb take es
    else if b = tb ∧ 0 < take then e :: compact prune tb (take - 1) es
    else compact prune tb take es

/-- Entries by ascending flat index. -/
def insertEntry (e : MaskEntry) : List MaskEntry → List MaskEntry
  | [] => [e]
  | x :: xs => if e.flat ≤ x.flat then e :: x :: xs else x :: insertEntry e xs

/-- Select `k` entries of a unit (R226). -/
def selectUnit (es : List MaskEntry) (k : Nat) (prune : Bool) : List MaskEntry :=
  if k = 0 then []
  else if es.length ≤ k then es
  else
    let bins := if prune then List.range 4096 else (List.range 4096).reverse
    let r := threshold (histogram es) k 0 bins
    compact prune r.1 r.2 (es.foldr insertEntry [])

/-! ## HIST -/

/-- A score input matches the target (R221): its shape, with the sharding of its last two dimensions, or the
companion. -/
def scoreShape (x d : TensorDesc) : Bool :=
  let n := d.dims.length
  x.dims == d.dims && sameShard x (n - 2) d (n - 2) && sameShard x (n - 1) d (n - 1)

/-- The companion meets R229 as far as its description says. -/
def companionOk (c d : TensorDesc) : Bool :=
  c.sparse && decide (c.valueFormat = 0 ∧ c.scaleBlk = 0)
    && decide (c.rank = 2 ∨ (c.rank = 3 ∧ 1 ≤ c.slices ∧ c.slices ≤ 4)) && fitsLastTwo d c

/-- A named companion that does not meet R229 breaks its parameter byte. -/
def State.companionBad (s : State) (t : Task) (id byte : Nat) (d : TensorDesc) : Option Nat :=
  if id = 0 then none
  else match s.namedDesc t id with
    | none => some byte
    | some c => failAt (!companionOk c d || (decide (c.rank = 3) && s.shardedDim c 0)) byte

/-- The first byte of a HIST's parameters, or the port, that breaks R221. An output stream that does not name the target breaks no
check here (log entry 129). -/
def State.histBad (s : State) (t : Task) : Option Nat :=
  let st := t.st
  failAt (decide (st.params.length ≠ 16 ∨ 3 < st.p 0 1)) 0 <|> failAt (decide (2 < st.p 1 1)) 1
    <|> failAt (decide (1 < st.p 2 1)) 2 <|> failAt (!st.zero 3 4) 3 <|> failAt (!st.zero 7 8) 7
    <|> failAt (!st.zero 11 16) 11
    <|> (match s.namedDesc t (st.p 4 3) with
      | none => some 4
      | some d =>
        failAt (!d.sparse) 4 <|> s.companionBad t (st.p 8 3) 8 d
          <|> failAt (!(scoreShape (s.descOf (t.inId 0)) d || (decide (st.p 8 3 ≠ 0) && decide (t.inId 0 = st.p 8 3))))
            0x100)

/-- What a HIST counts. -/
def Station.histJob (st : Station) : MaskJob where
  target := st.p 4 3
  companion := st.p 8 3
  scope := st.p 0 1
  score := st.p 1 1
  prune := st.p 2 1 == 0

/-- The tiles that a HIST's unit needs. -/
def State.histNeeds (s : State) (t : Task) : List (Nat × Nat) :=
  let m := t.st.histJob
  (s.unitTiles (s.descOf m.target) m.scope t.e.tile).map (fun k => (0, s.scoreTile t m 0 k))

/-- A histogram tile (R222). -/
def State.histTile (s : State) (t : Task) (m : MaskJob) (h : FMap Nat) : Tile :=
  { hdr := { tensor := m.target, index := t.e.tile, format := 9, gen := s.writeGenOf t.c m.target
             epoch := t.c.epoch }
    elems := h }

/-- A tile of another slice than slice 0 comes, or is to come, on a companion input of a HIST (R221); an UPDATE emits slice 0
alone (R238). -/
def State.otherSlice (s : State) (t : Task) (m : MaskJob) : Option Nat :=
  let d := s.descOf m.target
  let n := d.tileRows * d.tileCols
  if t.inId 0 ≠ m.companion then none
  else
    let due := match t.c.inStream t.st.id 0 with
      | some x => if (t.c.station x.prod).any (fun p => p.typ == stUpdate) then [] else s.portTiles t.c x.prod x.prodPort
      | none => []
    ((t.tiles 0).map (fun x => x.hdr.index) ++ due).find? (fun k => decide (n ≤ k))

/-- HIST_TASK (R221): the histogram of one unit. -/
def execHistTask (j : Nat) (s : State) : Host.Outcome State Fault Refusal :=
  s.runTask j stHist (fun t =>
    match s.histBad t with
    | some w => s.haltFormat t w
    | none =>
      let m := t.st.histJob
      let d := s.descOf m.target
      match s.otherSlice t m with
      | some k => s.haltInput t 0 k
      | none =>
      if !t.ready (s.histNeeds t) || !(s.maskUnits d m.scope).contains t.e.tile then s
      else
        let r := s.unitEntries t m t.e.tile (some 0)
        if 2 ^ 32 ≤ r.1.length ∨ (m.scope = 2 ∧ 2 ^ 40 ≤ t.e.tile) then s.haltFormat t 0x200
        else s.deliver t (s.poisonedIn t (s.histNeeds t)) [(0, s.histTile t m (histogram r.1))] r.2.2 [])

/-! ## PRUNE and REGROW: parameters (R212, R228 to R231) -/

/-- What a PRUNE or REGROW selects. -/
def Station.maskJob (st : Station) : MaskJob where
  target := st.p 12 3
  companion := st.p 16 3
  scope := st.p 0 1
  score := st.p 1 1
  prune := st.typ == stPrune

/-- The port of the histogram stream, if it has one (R230, R231). -/
def Station.histPort (st : Station) : Option Nat :=
  if st.typ = stPrune then some 0 else if st.inPorts = 2 then some 1 else none

/-- The port of the scores, if they come on one. -/
def Station.scorePort (st : Station) : Option Nat :=
  if st.typ = stRegrow then some 0 else if st.p 1 1 = 1 then some 1 else none

/-- The histogram stream comes from a HIST of the same job and the right eligibility. -/
def Task.histMatches (t : Task) (port : Nat) : Bool :=
  match (t.c.inStream t.st.id port).bind (fun (x : Stream) => t.c.station x.prod) with
  | none => false
  | some h =>
    let a := h.histJob
    let m := t.st.maskJob
    h.typ == stHist && decide (a.target = m.target ∧ a.companion = m.companion ∧ a.scope = m.scope ∧ a.score = m.score)
      && a.prune == m.prune

/-- The PRUNE that a REGROW names. -/
def Task.namedPrune (t : Task) : Option Station :=
  if t.st.typ = stRegrow ∧ (t.st.p 20 4).testBit 31 then t.c.station (t.st.p 20 4 % 2 ^ 20) else none

/-- The first byte of a mask station's parameters, or the port, that breaks its rules; 0x300 stands for R212. -/
def State.maskBad (s : State) (t : Task) : Option Nat :=
  let st := t.st
  let regrow := decide (st.typ = stRegrow)
  let cm := st.p 2 1
  let init := lt32 0 (st.p 24 4) && isFin32 (st.p 24 4)
  failAt (decide (st.params.length ≠ 32 ∨ 3 < st.p 0 1)) 0
    <|> failAt (decide (2 < st.p 1 1) || (regrow && decide (st.p 1 1 = 0))) 1
    <|> failAt (decide (2 < cm) || (decide (cm = 2) && (match t.namedPrune with
      | none => true
      | some q => decide (q.p 0 1 ≠ st.p 0 1)))) 2
    <|> failAt (decide (1 < st.p 3 1) || (!regrow && decide (st.p 3 1 ≠ 0))) 3
    <|> failAt (decide (1 < st.p 4 1) || (!regrow && decide (st.p 4 1 ≠ 0))) 4
    <|> failAt (!st.zero 5 8) 5
    <|> failAt ((decide (cm = 1) && decide (2 ^ 16 ≤ st.p 8 4)) || (decide (cm = 2) && decide (st.p 8 4 ≠ 0))) 8
    <|> failAt (!st.zero 15 16) 15 <|> failAt (!st.zero 19 20) 19
    <|> failAt (if regrow then decide (st.p 20 4 / 2 ^ 20 % 2 ^ 11 ≠ 0) else decide (st.p 20 4 ≠ 0)) 20
    <|> failAt (decide (st.p 3 1 = 1) && !init) 24 <|> failAt (!st.zero 28 32) 28
    <|> (match s.namedDesc t (st.p 12 3) with
      | none => some 12
      | some d =>
        failAt (!t.c.stepMode || !d.sparse || !(decide (formOf d.format = bfE) || d.grouped)) 0x300
          <|> s.companionBad t (st.p 16 3) 16 d
          <|> (match st.scorePort with
            | none => failAt (decide (st.inPorts ≠ 1)) 0x101
            | some q => failAt (decide (st.inPorts ≤ q)) (0x100 + q))
          <|> (match st.histPort with
            | none => none
            | some q => failAt (!t.histMatches q) (0x100 + q)))

/-- The score tensor has a tile at the place of a tile of the target, and the device holds it. -/
def State.scoreComes (s : State) (t : Task) (m : MaskJob) (port k : Nat) : Bool :=
  let x := s.descOf (t.inId port)
  let p := (s.descOf m.target).tilePos k
  decide (p.lead < (x.leading.foldl (· * ·) 1) ∧ p.i < x.tileRows ∧ p.j < x.tileCols) && s.holds x (s.scoreTile t m port k)

/-- The tiles that come on the score stream and lie wholly beyond the target (R231). -/
def State.scoresOutside (s : State) (t : Task) (m : MaskJob) (port : Nat) : List Nat :=
  let d := s.descOf m.target
  let lead := d.leading.foldl (· * ·) 1
  match t.c.inStream t.st.id port with
  | none => []
  | some x => (s.portTiles t.c x.prod x.prodPort).filter (fun k =>
      let g := (s.descOf (t.inId port)).tilePos k
      decide (lead ≤ g.lead ∨ d.tileRows ≤ g.i ∨ d.tileCols ≤ g.j))

/-- The tiles that a unit of a mask station needs; a score tile that lies beyond the target is waited for too, since it halts the
stream. -/
def State.maskNeeds (s : State) (t : Task) : List (Nat × Nat) :=
  let m := t.st.maskJob
  (match t.st.histPort with
    | none => []
    | some q => [(q, t.e.tile)]) ++
  (match t.st.scorePort with
    | none => []
    | some q => ((s.unitTiles (s.descOf m.target) m.scope t.e.tile).filter (s.scoreComes t m q)).map
        (fun k => (q, s.scoreTile t m q k)) ++ (s.scoresOutside t m q).map (fun k => (q, k)))

/-- The named PRUNE has run its units, really or in probe form (R215). -/
def State.pruneDone (s : State) (t : Task) : Bool :=
  match t.namedPrune with
  | none => true
  | some q =>
    (s.maskUnits (s.descOf (q.p 12 3)) (q.p 0 1)).all (fun u => q.done.contains u || q.probed.contains u)

/-- A companion block whose mask is not the target's, in M_r or in the generation being written, by tile (R229). -/
def State.companionDiffers (s : State) (t : Task) (m : MaskJob) (ks : List Nat) : Option Nat :=
  if m.companion = 0 then none
  else
    let c := s.descOf m.companion
    ks.find? (fun k =>
      let a := (s.readBlockOf t.c m.target k).mask
      let b := (s.destBlock t.c m.target k).mask
      (List.range c.slices).any (fun i => (s.readBlockOf t.c m.companion (c.sliceTile i k)).mask != a
        || (s.destBlock t.c m.companion (c.sliceTile i k)).mask != b))

/-- A histogram tile's counts are those of the recount, and the tiles name held units only (R230). -/
def State.recountOk (s : State) (t : Task) (m : MaskJob) (es : List MaskEntry) : Bool :=
  match t.st.histPort with
  | none => true
  | some q =>
    let us := s.maskUnits (s.descOf m.target) m.scope
    (t.tiles q).all (fun x => us.contains x.hdr.index)
      && (match t.tile? q t.e.tile with
        | none => false
        | some x => x.elems == histogram es)

/-- n_r: positions, or groups, of a unit in M_r (R225). -/
def State.unitCount (s : State) (t : Task) (m : MaskJob) (u : Nat) : Nat :=
  let d := s.descOf m.target
  ((s.unitTiles d m.scope u).map (fun k =>
    let ps := (s.readBlockOf t.c m.target k).mask.filter (fun p => d.unitOf m.scope k p = u)
    if d.grouped then (sortNat (ps.map (fun p => p / 4))).length else ps.length)).foldl (· + ·) 0

/-- The number to select in a unit (R225). -/
def State.selectCount (s : State) (t : Task) (m : MaskJob) (u : Nat) : Nat :=
  match t.st.p 2 1 with
  | 0 => t.st.p 8 4
  | 1 => t.st.p 8 4 % 2 ^ 16 * s.unitCount t m u / 2 ^ 16
  | _ => match t.namedPrune with
    | some q => FMap.get (fun _ => 0) q.diag.selected u
    | none => 0

/-! ## The rewriting of blocks (R232 to R234) -/

/-- The initial value of a regrown position: v0 with its flags (R232). -/
def State.initValue (s : State) (t : Task) (m : MaskJob) (k p : Nat) : Nat × Flags :=
  if t.st.p 3 1 = 0 then (0, 0)
  else
    let id := if m.companion = 0 then m.target else m.companion
    let x := (s.descOf m.target).flat k (p / 64) (p % 64)
    mul32 (t.st.p 24 4) (uniformOf (randomWord t.c.seed id x t.c.step .regrowth))

/-- The mask of a block after the selected positions leave or enter it. -/
def changedMask (prune setKeep : Bool) (sel : List Nat) (m : MaskMap) : MaskMap :=
  if prune then m.filter (fun q => !sel.contains q.1)
  else sel.foldl (fun (a : MaskMap) p => FMap.insert a p (setKeep, true)) m

/-- A slice of the companion rewritten: its values stand, a regrown position takes v0 in slice 0 and +0 elsewhere, and +0 outside the
extent. Beside it, whether it is a lenient fallback (R184). -/
def State.companionBlock (s : State) (t : Task) (m : MaskJob) (i k : Nat) (sel : List Nat) : Except Nat (Tile × Bool) :=
  match s.tensor m.companion with
  | none => .error 0x01
  | some q =>
    let kk := q.desc.sliceTile i k
    let dest := q.dest t.c.stepMode m.companion kk
    (q.desc.newLayout kk (q.readMask t.c m.companion kk)
        (changedMask m.prune (t.st.p 4 1 == 1) sel dest.maskMap)).map (fun (l : Layout) =>
      (copyBlock q.desc l m.companion kk
        (fun p => if sel.contains p then
            (if i = 0 ∧ inExtent (q.desc.extRows kk) (q.desc.extCols kk) p = true then (s.initValue t m k p).1 else 0)
          else posCode dest p)
        (fun _ => 0x7F) (fun _ => true), l.lenient))

/-- The target's block as it stood before the station first wrote it, with its outer scale. -/
def State.baseBlock (s : State) (t : Task) (m : MaskJob) (k : Nat) : Nat × Tile :=
  ((t.st.bases.find? (fun q => decide (q.1 = k))).map (fun q => q.2)).getD
    ((s.ownScores t { m with companion := 0 } k).2.1.outer, s.destBlock t.c m.target k)

/-- The value at a mask position of the target's block (R233): with a companion, slice 0's; else what the block held before the
station, or v0 where the station regrows it. A block that two units share is so converted from exact values each time. -/
def State.maskValue (s : State) (t : Task) (m : MaskJob) (k : Nat) (sel : List Nat) (p : Nat) : Val :=
  let b := s.ownScores t m k
  let x := if m.companion = 0 then s.baseBlock t m k else (b.2.1.outer, b.1)
  if sel.contains p || (decide (m.companion = 0) && !x.2.mask.contains p) then val32 (s.initValue t m k p).1
  else (x.2.spAt b.2.2 x.1 (p / 64) (p % 64)).getD Val.zero

/-- Without a companion, a value that remains keeps its bits where its scale block keeps its scale (R233). -/
def keepBits (base x : Tile) : Tile :=
  { x with recs := x.recs.map (fun e => match base.rec? e.row e.col with
      | some o => if base.spScale e.pos = x.spScale e.pos then { e with code := o.code } else e
      | none => e) }

/-- The target's block rewritten, converted from slice 0 or from its own values (R233). Beside it, whether it is a lenient
fallback (R184). -/
def State.targetBlock (s : State) (t : Task) (m : MaskJob) (k : Nat) (sel : List Nat) :
    Except Nat ((Tile × Bool) × Flags × WeirIn) :=
  let d := s.descOf m.target
  let dest := s.destBlock t.c m.target k
  (d.newLayout k (s.readBlockOf t.c m.target k)
      (changedMask m.prune (t.st.p 4 1 == 1) sel dest.maskMap)).map (fun (l : Layout) =>
    let v := s.maskValue t m k sel
    let spec := s.convSpec t.c m.target 0
    let x := spec.block l k (fun _ => .nearest) v
    let ps := (l.pos.map (fun q => q.1)).filter (inExtent (d.extRows k) (d.extCols k))
    let base := s.baseBlock t m k
    let y := if m.companion = 0 ∧ base.1 = spec.outer then keepBits base.2 x.1 else x.1
    ((y, l.lenient), x.2, { id := m.target, amax := amaxCode (ps.map v), ovf := x.2.testBit 0, grad := false }))

/-- What a unit's task writes of one tile. -/
structure MaskWrite where
  writes : List (Nat × Nat × Tile)
  flags : Flags
  weir : WeirIn
  /-- The tensors whose blocks are lenient fallbacks (R184). -/
  lenient : List Nat

/-- What a unit's task writes of one tile: the target's block and the companion's slices. A write that cannot be made names the
tensor, the tile and the cause. -/
def State.maskWrites (s : State) (t : Task) (m : MaskJob) (k : Nat) (sel : List Nat) :
    Except (Nat × Nat × Nat) MaskWrite :=
  match s.targetBlock t m k sel with
  | .error c => .error (m.target, k, c)
  | .ok x =>
    let cs := if m.companion = 0 then [] else
      (List.range (s.descOf m.companion).slices).map (fun i =>
        ((s.descOf m.companion).sliceTile i k, s.companionBlock t m i k sel))
    match cs.findSome? (fun y => match y.2 with
      | .error c => some (y.1, c)
      | .ok _ => none) with
    | some c => .error (m.companion, c)
    | none =>
      let d := s.descOf m.target
      let grown := if m.prune then [] else sel.filter (inExtent (d.extRows k) (d.extCols k))
      let zs := cs.filterMap (fun y => match y.2 with
        | .error _ => none
        | .ok z => some (y.1, z))
      .ok { writes := zs.map (fun y => (m.companion, y.1, y.2.1)) ++ [(m.target, k, x.1.1)]
            flags := grown.foldl (fun a p => a ||| (s.initValue t m k p).2) x.2.1
            weir := x.2.2
            lenient := (zs.filter (fun y => y.2.2)).map (fun _ => m.companion) ++ (if x.1.2 then [m.target] else []) }

/-- The selected positions of a tile; a group stands for its four positions. -/
def selectedIn (d : TensorDesc) (k : Nat) (sel : List MaskEntry) : List Nat :=
  let ps := (sel.filter (fun e => e.tile = k)).map (fun e => e.pos)
  if d.grouped then ps.flatMap (fun p => (List.range 4).map (fun i => p + i)) else ps

/-- The counts that a unit adds to the mask record (Table 8.6). -/
def StationRec.note (r : StationRec) (u n nans : Nat) (short vetoed : Bool) : StationRec :=
  { r with
    selected := FMap.set (fun _ => 0) r.selected u n
    nans := FMap.set (fun _ => 0) r.nans u nans
    short := if short then insertNat u r.short else r.short.filter (fun x => x ≠ u)
    vetoed := vetoed || r.vetoed }

/-- A tile that the unit reads is poisoned. -/
def State.maskPoison (s : State) (t : Task) (m : MaskJob) (ks : List Nat) : Bool :=
  s.poisonedIn t (s.maskNeeds t) || ks.any (fun k => (s.destBlock t.c m.target k).hdr.poison
    || (decide (m.companion ≠ 0) && (List.range (s.descOf m.companion).slices).any (fun i =>
      (s.destBlock t.c m.companion ((s.descOf m.companion).sliceTile i k)).hdr.poison)))

/-- The blocks that writes replace, as they stand in the generation being written. -/
def State.replaced (s : State) (c : Course) (ws : List (Nat × Nat × Tile)) : List (Nat × Bool × Nat × Tile) :=
  ws.filterMap (fun w => (s.tensor w.1).map (fun (t : Tensor) =>
    (w.1, (if t.toNext c.stepMode then !t.curHalf w.2.1 else t.curHalf w.2.1), w.2.1, t.dest c.stepMode w.1 w.2.1)))

/-- A mask unit writes: its course keeps what the writes replace, and its station that they have landed (R217, R227). -/
def State.writeMask (s : State) (t : Task) (kind : WriteKind) (ws : List (Nat × Nat × Tile)) (flags : Flags) : State :=
  let old := s.replaced t.c ws
  let s := s.updStation t (fun q => { q with landed := FMap.set (fun _ => 0) q.landed t.e.tile (1 + flags) })
  let s := match s.course t.c.id with
    | none => s
    | some c => s.setCourse { c with undo := c.undo ++ old }
  s.storeMany t.c kind ws

/-- A station without a companion keeps the target's blocks as they stand before its first write of them (R233). -/
def State.keepBases (s : State) (t : Task) (m : MaskJob) (ws : List (Nat × Nat × Tile)) : State :=
  if m.companion ≠ 0 then s
  else s.updStation t (fun q => { q with
    bases := q.bases ++ ((ws.filter (fun w => decide (w.1 = m.target) && !q.bases.any (fun b => decide (b.1 = w.2.1)))).map (fun w =>
      (w.2.1, s.baseBlock t m w.2.1))) })

/-- The selection and the writes of one unit. A unit whose writes have landed is not selected again: its replay would select
the same set from the same mask (R227). A poisoned one waits for its replay. -/
def State.selectAndWrite (s : State) (t : Task) (m : MaskJob) (ks : List Nat) : State :=
  let d := s.descOf m.target
  let r := s.unitEntries t m t.e.tile t.st.scorePort
  if s.maskPoison t m ks then s.finish t true [] r.2.2
  else if FMap.get (fun _ => 0) t.st.landed t.e.tile ≠ 0 then
    s.finish t false [] (FMap.get (fun _ => 0) t.st.landed t.e.tile - 1)
  else if !s.recountOk t m r.1 then s.haltInput t (t.st.histPort.getD 0) t.e.tile
  else if t.c.veto then
    (s.updStation t (fun q => { q with diag := q.diag.note t.e.tile 0 r.2.1 false true })).finish t false [] r.2.2
  else
    let n := s.selectCount t m t.e.tile
    let sel := selectUnit r.1 n m.prune
    let ws := ((ks.map (fun k => (k, selectedIn d k sel))).filter (fun q => !q.2.isEmpty)).map
      (fun q => s.maskWrites t m q.1 q.2)
    match ws.findSome? (fun w => match w with
      | .error c => some c
      | .ok _ => none) with
    | some c => s.haltWrite t c.1 c.2.1 c.2.2
    | none =>
      let good := ws.filterMap (fun w => match w with
        | .error _ => none
        | .ok x => some x)
      let s := s.updStation t (fun q =>
        { q with diag := q.diag.note t.e.tile sel.length r.2.1 (decide (r.1.length < n)) false })
      let fl := good.foldl (fun a g => a ||| g.flags) r.2.2
      s.writeOut t false [] fl (good.map (fun g => g.weir))
        (fun s => ((s.keepBases t m (good.flatMap (fun g => g.writes))).logFallbacks t (good.flatMap (fun g => g.lenient))).writeMask t
          (if m.score = 1 then .other else .keeps) (good.flatMap (fun g => g.writes)) fl)

/-- The stored positions of a score tile with the byte of each in the tile's payload: an element, or a record. -/
def scorePositions (x : Tile) : List (Nat × Nat) :=
  if 0x10 ≤ x.hdr.format then (x.recs.zip (List.range x.recs.length)).map (fun e => (e.1.pos, 64 + 2 * e.2))
  else (extentPos x.rows x.cols).map (fun p => (64 * p.1 + p.2, (64 * p.1 + p.2) * codeBits x.hdr.format / 8))

/-- The first score position beyond the target's extent (R231): its tile and the byte in that. -/
def State.scoreBeyond (s : State) (t : Task) (m : MaskJob) : Option (Nat × Nat) :=
  match t.st.scorePort with
  | none => none
  | some q =>
    let d := s.descOf m.target
    let lead := d.leading.foldl (· * ·) 1
    (t.tiles q).findSome? (fun x =>
      let g := (s.descOf (t.inId q)).tilePos x.hdr.index
      ((scorePositions x).find? (fun p => decide (lead ≤ g.lead ∨ d.rows ≤ 64 * g.i + p.1 / 64
        ∨ d.cols ≤ 64 * g.j + p.1 % 64))).map (fun p => (x.hdr.index, p.2)))

/-- A tile that came on an input of a mask station halts the stream whatever its unit waits for: another slice of a HIST's companion
(R221), or a score beyond a REGROW's target (R231). -/
def State.haltsEarly (s : State) (t : Task) : Bool :=
  if t.st.typ = stHist then (s.otherSlice t t.st.histJob).isSome
  else if t.st.typ = stRegrow then (s.scoreBeyond t t.st.maskJob).isSome else false

/-- One unit of a PRUNE or REGROW. -/
def State.maskTask (s : State) (t : Task) : State :=
  match s.maskBad t with
  | some w => if w = 0x300 then s.haltFormat t t.st.id else s.haltFormat t w
  | none =>
    let m := t.st.maskJob
    let d := s.descOf m.target
    match s.scoreBeyond t m with
    | some p => s.haltSparse t (.input (t.st.scorePort.getD 0)) (t.inId (t.st.scorePort.getD 0)) 0x13 p.1 p.2
    | none =>
    if !t.ready (s.maskNeeds t) || !(s.maskUnits d m.scope).contains t.e.tile || !s.pruneDone t then s
    else
      let ks := s.unitTiles d m.scope t.e.tile
      match s.companionDiffers t m ks with
      | some k => s.haltFormat t k
      | none => s.selectAndWrite t m ks

/-- PRUNE_TASK (R228): one unit loses its lowest scores. -/
def execPruneTask (j : Nat) (s : State) : Host.Outcome State Fault Refusal := s.runTask j stPrune s.maskTask

/-- REGROW_TASK (R228): one unit gains its highest scores. -/
def execRegrowTask (j : Nat) (s : State) : Host.Outcome State Fault Refusal := s.runTask j stRegrow s.maskTask

end Sys2Proof.Machine
end

