-- ==== Sys2Proof/Machine/Wire.lean ====
section
/-! DEFINITION. Dunnath packets as bytes (R11, R343): the header of Table 13.4, the payloads of Tables 13.5 and 14.4, the UDP
header before them, and what makes a received packet a malformed header (Table 13.7). -/

namespace Sys2Proof.Machine

/-! ## Types and payloads -/

/-- TYPE of a message (Table 13.5). -/
def msgType : NetMsg → Nat
  | .frag | .part .. | .block .. | .rows .. | .answer .. => 0x1
  | .ack => 0x2
  | .nak _ => 0x3
  | .credit _ => 0x4
  | .openReq _ => 0x5
  | .openAck _ => 0x6
  | .closeReq => 0x7
  | .reply _ _ => 0x9
  | _ => 0x8

/-- A DATA message: its payload is held in DM buffers and needs credit (R346). -/
def isData (m : NetMsg) : Bool := msgType m == 0x1

/-- The 16-byte payload of an expert CTRL (Table 14.4). -/
def keyBytes (k : ExpertKey) : List Byte :=
  toLe 3 k.operand ++ toLe 1 0 ++ toLe 2 k.expert ++ toLe 2 0 ++ toLe 4 k.course ++ toLe 4 (k.station % 2 ^ 20)

/-- What a step-round message carries behind its subtype byte, in numbers: the spec names it and gives it no layout. -/
def roundFields (m : StepRound) : List Nat :=
  [m.func, m.course, m.step, m.attempt, m.final.toNat, m.veto.toNat, m.weir.length]
    ++ m.weir.flatMap (fun w => [w.1, w.2.1, w.2.2.toNat]) ++ m.probe.flatMap (fun p => [p.1, p.2])

/-- What a REPEAT or a GIVE_UP carries behind its subtype byte, in numbers. -/
def nameFields (n : StepName) : List Nat := [n.func, n.course, n.step, n.attempt]

/-- The payload of a message that is not DATA; of STEP_DONE, REPEAT and GIVE_UP the bytes behind the subtype are free
(log entry 121). -/
def plainBytes : NetMsg → List Byte
  | .nak psn => toLe 4 psn
  | .openReq v | .openAck v => toLe 1 v
  | .reply code psn => toLe 1 code ++ toLe 4 psn
  | .stepDone m => toLe 1 0x01 ++ (Config.roundBody 0x01 (roundFields m)).take 4087
  | .repeatStep n => toLe 1 0x02 ++ (Config.roundBody 0x02 (nameFields n)).take 4087
  | .giveUp n => toLe 1 0x03 ++ (Config.roundBody 0x03 (nameFields n)).take 4087
  | .fetch k => toLe 1 0x10 ++ keyBytes k
  | .ship k => toLe 1 0x11 ++ keyBytes k
  | .answerEnd k => toLe 1 0x12 ++ keyBytes k
  | .cancel k => toLe 1 0x13 ++ keyBytes k
  | .deny k => toLe 1 0x14 ++ keyBytes k
  | _ => []

/-- The payload bytes of a tile (log entry 67): a sparse block's entry and data (R173); else the elements in element order, FP32
where they are partials, and the scales. -/
def State.tileData (s : State) (x : Tile) : List Byte :=
  let d := s.descOf x.hdr.tensor
  if 0x10 ≤ x.hdr.format then d.payload x
  else
    packCodes (codeBits (if x.hdr.longSum then 0 else x.hdr.format)) (x.codes d.colOrder)
      ++ x.scales.map (BitVec.ofNat 8)

/-- The payload bytes of exchange data: the pre-pass's, or the tile's with the `lo` of each pair behind. -/
def State.loadData (s : State) (l : XLoad) : List Byte :=
  if !l.bytes.isEmpty then l.bytes.map (BitVec.ofNat 8)
  else
    let lo (p : Nat) : List Byte := toLe 4 (FMap.get (fun _ => 0) l.lo p)
    s.tileData l.x ++ (if !l.pair then []
      else if 0x10 ≤ l.x.hdr.format then l.x.recs.flatMap (fun e => lo e.pos)
      else (List.range 4096).flatMap (fun e =>
        let p := elemAt (s.descOf l.x.hdr.tensor).colOrder e
        lo (64 * p.1 + p.2)))

/-- The payload bytes of a message. -/
def State.msgData (s : State) : NetMsg → List Byte
  | .part _ _ _ _ l => s.loadData l
  | .block _ x | .rows _ x | .answer _ x => s.tileData x
  | m => plainBytes m

/-! ## The header (Table 13.4) -/

/-- Bytes of the header of a version: a v1 header stops before XCTX. -/
def headBytes (ver : Nat) : Nat := if ver = 1 then 24 else 32

/-- What of LEN goes to XCTX: a v1 packet carries it as the first 8 bytes of its payload. -/
def xctxBytes (ver : Nat) : Nat := if ver = 1 then 8 else 0

/-- A header's 32 bytes of v2; those of v1 with the XCTX of its payload are the same bytes. -/
def headerBytes (h : DnHdr) (typ : Nat) : List Byte :=
  let bit (b : Bool) (i : Nat) : Nat := b.toNat * 2 ^ i
  toLe 1 (h.ver * 16 + typ) ++ toLe 1 (bit h.veto 0 + bit h.rescaled 1 + bit h.last 2 + bit h.retx 3 + h.attempt * 16)
    ++ toLe 1 (h.channel + bit h.device 6) ++ toLe 1 h.leg ++ toLe 4 h.session ++ toLe 4 h.psn ++ toLe 4 h.ackPsn
    ++ toLe 2 h.credit ++ toLe 2 h.epoch ++ toLe 2 h.gen ++ toLe 2 h.len ++ toLe 8 h.xctx

/-- The header that received bytes give. -/
def headerOf (b : List Byte) : DnHdr :=
  let flags := leAt b 1 1
  let ch := leAt b 2 1
  { ver := leAt b 0 1 / 16, veto := flags.testBit 0, rescaled := flags.testBit 1, last := flags.testBit 2
    retx := flags.testBit 3, attempt := flags / 16 % 4, channel := ch % 64, device := ch.testBit 6, leg := leAt b 3 1 % 4
    session := leAt b 4 4, psn := leAt b 8 4, ackPsn := leAt b 12 4, credit := leAt b 16 2, epoch := leAt b 18 2
    gen := leAt b 20 2, len := leAt b 22 2, xctx := leAt b 24 8 }

/-- CTRL subtypes (Tables 13.5 and 14.4). -/
def ctrlSubtypes : List Nat := [0x01, 0x02, 0x03, 0x10, 0x11, 0x12, 0x13, 0x14]

/-- Received bytes give a malformed header whatever the session: a reserved version, TYPE, CTRL subtype, reply code or bit, LEN
above 4,096 or other than the UDP length says, or RESCALED on v1 (Table 13.7). -/
def malformedBytes (b : List Byte) : Bool :=
  let h := headerOf b
  let typ := leAt b 0 1 % 16
  let first := leAt b 32 1
  decide (b.length < 24 ∨ (h.ver ≠ 1 ∧ h.ver ≠ 2) ∨ typ = 0 ∨ 9 < typ ∨ 64 ≤ leAt b 1 1 ∨ 128 ≤ leAt b 2 1 ∨ 4 ≤ leAt b 3 1
      ∨ 4096 < h.len ∨ b.length ≠ headBytes h.ver + h.len ∨ h.len < xctxBytes h.ver)
    || (h.device && decide (h.channel ≠ 0)) || (h.rescaled && decide (h.ver = 1))
    || (decide (typ = 8) && !ctrlSubtypes.contains first) || (decide (typ = 9) && decide (6 < first))

/-! ## UDP (R343) -/

/-- The sum of 16-bit words that the UDP checksum complements. -/
def wordSum : List Byte → Nat
  | [] => 0
  | [a] => 256 * a.toNat
  | a :: b :: rest => 256 * a.toNat + b.toNat + wordSum rest

/-- The UDP checksum over some bytes: the complement of their ones' complement sum, 0 written as all ones. -/
def udpSum (b : List Byte) : Nat :=
  let n := wordSum b
  let c := 65535 - (if n = 0 then 0 else (n - 1) % 65535 + 1)
  if c = 0 then 65535 else c

/-- The mesh entry of a device. -/
def State.meshEntry (s : State) (dev : Nat) : Option MeshEntry :=
  match s.mesh with
  | none => none
  | some m => m.entries.find? (fun e => decide (e.device = dev))

/-- The 16 address bytes of a device (Table 13.3). -/
def State.meshAddr (s : State) (dev : Nat) : List Byte :=
  match s.meshEntry dev with
  | some e => (e.bytes.drop 16).take 16
  | none => []

/-- Frames to the device go over IPv6. -/
def State.overIpv6 (s : State) (dev : Nat) : Bool :=
  match s.meshEntry dev with
  | some e => (leAt e.bytes 7 1).testBit 0
  | none => false

/-- A packet to a peer as UDP carries it: the UDP header with the destination port DN_UDP_PORT and its checksum, 0 on IPv4, the
Dunnath header, and the payload. The source port carries path entropy. -/
def State.frame (s : State) (peer : Nat) (h : DnHdr) (m : NetMsg) (data : List Byte) : List Byte :=
  let body := headerBytes h (msgType m) ++ data
  let len := 8 + body.length
  let udp (ck : Nat) : List Byte :=
    toBe 2 (Config.udpEntropy peer).toNat ++ toBe 2 (s.regF .netCtl 0 63 48) ++ toBe 2 len ++ toBe 2 ck
  let ck := if s.overIpv6 peer then
      udpSum (s.meshAddr (selfDevice s.mesh) ++ s.meshAddr peer ++ toBe 4 len ++ toBe 4 17 ++ udp 0 ++ body)
    else 0
  udp ck ++ body

end Sys2Proof.Machine
end

