-- ==== Sys2Proof/Machine/NetOps.lean ====
section
/-! DEFINITION. The shared operations of the network: participants (R342), sessions (R344 to R346) and the sending of
packets. -/

namespace Sys2Proof.Machine

/-! ## The mesh -/

/-- The entries of the mesh; without one the device stands alone. -/
def State.meshEntries (s : State) : List MeshEntry :=
  match s.mesh with
  | none => []
  | some m => m.entries

/-- The axes that the mesh has. -/
def State.meshAxes (s : State) : Nat :=
  match s.mesh with
  | none => 0
  | some m => (m.axes.takeWhile (fun a => a ≠ 0)).length

/-- The other devices of the mesh. -/
def State.peers (s : State) : List Nat :=
  (s.meshEntries.map (fun e => e.device)).filter (fun d => d ≠ selfDevice s.mesh)

/-- Participant order: by node id, then local rank. -/
def rankLe (a b : MeshEntry) : Bool :=
  decide (a.nodeId < b.nodeId) || (decide (a.nodeId = b.nodeId) && decide (a.localRank ≤ b.localRank))

/-- Put an entry into participant order. -/
def insertRank (x : MeshEntry) : List MeshEntry → List MeshEntry
  | [] => [x]
  | y :: ys => if rankLe x y then x :: y :: ys else y :: insertRank x ys

/-- The participants of an exchange over some axes, in their order (R342). -/
def State.participants (s : State) (axes : Nat) : List MeshEntry :=
  let me := s.meshEntries.find? (fun e => e.device = selfDevice s.mesh)
  match me with
  | none => [{ device := selfDevice s.mesh, nodeId := 0, localRank := 0, coord := [0, 0, 0, 0] }]
  | some me =>
    ((s.meshEntries.filter (fun e => (List.range 4).all (fun a =>
      axes.testBit a || decide (e.coord.getD a 0 = me.coord.getD a 0))))).foldr insertRank []

/-! ## Sessions -/

/-- The session with a peer. -/
def State.session (s : State) (peer : Nat) : DnSession := FMap.get (fun _ => {}) s.net.sessions peer

/-- Write a session. -/
def State.setSession (s : State) (peer : Nat) (q : DnSession) : State :=
  { s with net := { s.net with sessions := FMap.set (fun _ => {}) s.net.sessions peer q } }

/-- The version that the device offers (R344). -/
def State.offeredVersion (s : State) : Nat := if s.feature 6 then 2 else 1

/-- The payload that one credit unit allows (R346). -/
def creditUnit : Nat := 4096

/-- The tensor that a message draws on, if any. -/
def State.msgTensor (s : State) : NetMsg → Option Nat
  | .part c st p _ _ => (s.course c).map (fun x => x.inTensor st p)
  | .block k _ => some k.operand
  | .rows _ x => some x.hdr.tensor
  | .answer _ x => some x.hdr.tensor
  | _ => none

/-- The payload derives from a tensor of a polder that is not OPEN (R484). -/
def State.guardedMsg (s : State) (m : NetMsg) : Bool :=
  match s.msgTensor m with
  | some id => decide (s.policyOf (s.polderOf id) ≠ 0)
  | none => false

/-- MACSEC_REQ of a port. -/
def State.macsecReq (s : State) (n : Nat) : Bool := getBit (s.reg ⟨.portCtl, n, 0⟩) 8

/-- A port sends: it is up, and where MACSEC_REQ holds its transmit channel has an association (R409). -/
def State.portSends (s : State) (n : Nat) : Bool :=
  s.portUp n && (!s.macsecReq n || s.net.sas.any (fun a => decide (a.port = n) && a.transmit))

/-- A port takes frames of peers: it is up, and where MACSEC_REQ holds a receive channel has an association (R339). -/
def State.portTakes (s : State) (n : Nat) : Bool :=
  s.portUp n && (!s.macsecReq n || s.net.sas.any (fun a => decide (a.port = n) && !a.transmit))

/-- The port for a packet: one that sends, with MACSEC_REQ where the payload asks for it, and another than `avoid`
where another is up (R345, R484). -/
def State.sendPort (s : State) (secure : Bool) (avoid : Option Nat) : Option Nat :=
  let ps := (List.range s.part.ports).filter (fun n => s.portSends n && (!secure || s.macsecReq n))
  match ps.find? (fun n => some n != avoid) with
  | some n => some n
  | none => ps.head?

/-- MACsec seals a frame of a port: the association that was installed last for the port's transmit channel gives it the next
packet number (R339). -/
def State.sealFrame (s : State) (port : Nat) : State :=
  match s.net.sas.reverse.find? (fun (a : MacSa) => decide (a.port = port) && a.transmit) with
  | none => s
  | some a => { s with net := { s.net with sas := s.net.sas.map (fun (x : MacSa) =>
      if x = a then { x with pn := x.pn + 1 } else x) } }

/-- A packet goes out on a port. -/
def State.transmit (s : State) (peer port : Nat) (h : DnHdr) (m : NetMsg) (data : List Byte) : State :=
  (s.sealFrame port).emit (.packet peer port h m (s.frame peer h m data))

/-- Send a packet now: it takes the next PSN, carries the cumulative acknowledgement and the credit that is due, and
stays until it is acknowledged. -/
def State.sendNow (s : State) (peer port : Nat) (h : DnHdr) (m : NetMsg) (data : List Byte) : State :=
  let q := s.session peer
  let h := { h with ver := q.version, session := q.txId, psn := q.txNext, ackPsn := q.rxNext
                    credit := q.freed / creditUnit }
  let q := { q with
    txNext := (q.txNext + 1) % 2 ^ 32
    granted := q.granted + q.freed / creditUnit * creditUnit
    freed := q.freed % creditUnit
    room := if isData m then q.room - h.len else q.room
    sinceAck := 0
    unacked := q.unacked ++ [{ port := port, hdr := h, msg := m, data := data }] }
  (s.setSession peer q).transmit peer port h m data

/-- The packets of a message of `n` payload bytes in a version, with their payloads: each takes up to 4,096 bytes with what LEN
gives XCTX, and the last one stands for the message (R343, Table 13.4). -/
def packetsOf (ver : Nat) (h : DnHdr) (m : NetMsg) (data : List Byte) : List (DnHdr × NetMsg × List Byte) :=
  let n := h.len
  let x := xctxBytes ver
  let u := 4096 - x
  let k := max 1 (ceilDiv n u)
  ((List.range (k - 1)).map (fun i => ({ h with len := 4096, last := false }, NetMsg.frag, (data.drop (u * i)).take u)))
    ++ [({ h with len := n - u * (k - 1) + x, last := true }, m, data.drop (u * (k - 1)))]

/-- Payload bytes of a DATA message on the wire, with what each packet of version 1 gives XCTX. -/
def wireBytes (ver n : Nat) : Nat := n + xctxBytes ver * max 1 (ceilDiv n (4096 - xctxBytes ver))

/-- The peer runs the exchange instance that a message belongs to (R346). -/
def DnSession.allows (q : DnSession) (h : DnHdr) : NetMsg → Bool
  | .part c st p _ _ => q.grants.contains (c, st, p, h.attempt)
  | _ => true

/-- Send what waits in a session, in order, while it is open and a port is up: a message waits while the credit does not
cover it, and behind such a one every later DATA message waits; exchange data waits for its instance at the peer. -/
def State.flush (s : State) (peer : Nat) (full : Bool) : List (DnHdr × NetMsg) → State
  | [] => s
  | (h, m) :: rest =>
    let q := s.session peer
    let keep (s : State) (full : Bool) : State :=
      let q := s.session peer
      (s.setSession peer { q with queue := q.queue ++ [(h, m)] }).flush peer full rest
    match s.sendPort (s.guardedMsg m) none with
    | none => keep s full
    | some port =>
      if !q.isOpen || !q.allows h m then keep s full
      else if isData m && (full || decide (q.room < wireBytes q.version h.len)) then keep s true
      else ((packetsOf q.version h m (s.msgData m)).foldl (fun (s : State) x => s.sendNow peer port x.1 x.2.1 x.2.2) s).flush
        peer full rest

/-- Send what may go of a session's queue, with more messages behind it. -/
def State.push (s : State) (peer : Nat) (new : List (DnHdr × NetMsg)) : State :=
  let q := s.session peer
  (s.setSession peer { q with queue := [] }).flush peer false (q.queue ++ new)

/-- In mirror mode package B computes its contributions but sends none (R460). -/
def State.mute (s : State) : Bool := s.mirror && s.pkg == .b

/-- Send a DATA message of `n` payload bytes to a peer, or queue it. -/
def State.sendData (s : State) (peer : Nat) (h : DnHdr) (m : NetMsg) (n : Nat) : State :=
  if s.mute then s else s.push peer [({ h with len := n }, m)]

/-- Send a CTRL message to a peer: it needs no credit. -/
def State.sendCtrl (s : State) (peer : Nat) (h : DnHdr) (m : NetMsg) : State :=
  if s.mute then s else s.push peer [({ h with device := true, len := (plainBytes m).length }, m)]

/-- Send a CTRL message to every other device of the mesh. -/
def State.broadcast (s : State) (h : DnHdr) (m : NetMsg) : State :=
  s.peers.foldl (fun s p => s.sendCtrl p h m) s

/-- Send a packet that has no PSN of its own (ACK, NAK, CREDIT, OPEN, OPEN_ACK, CLOSE, REPLY), with the credit that is
due, on a port that sends (R409). -/
def State.sendPlain (s : State) (peer port : Nat) (m : NetMsg) (attempt : Nat := 0) (first : Nat := 0) : State :=
  if s.mute || !s.portSends port then s else
  let q := s.session peer
  let v := max 1 q.version
  let h : DnHdr := { ver := v, session := q.txId, psn := q.txNext, ackPsn := q.rxNext, attempt := attempt
                     credit := first + q.freed / creditUnit, device := true, len := (plainBytes m).length + xctxBytes v }
  let q := { q with granted := q.granted + (first + q.freed / creditUnit) * creditUnit, freed := q.freed % creditUnit
                    sinceAck := 0 }
  (s.setSession peer q).transmit peer port h m (plainBytes m)

/-- Send such a packet on whatever port is up. -/
def State.sendLoose (s : State) (peer : Nat) (m : NetMsg) (attempt : Nat := 0) : State :=
  match s.sendPort false none with
  | some port => s.sendPlain peer port m attempt
  | none => s

/-- Drop what a session has sent and received so far: its own direction starts anew (R344). -/
def DnSession.restart (q : DnSession) : DnSession :=
  { q with isOpen := false, txId := 0, txNext := 0, unacked := [], room := 0, grants := [] }

/-- Ask a peer for a session (R344). -/
def State.openTo (s : State) (peer : Nat) : State :=
  (s.setSession peer (s.session peer).restart).sendLoose peer (.openReq s.offeredVersion)

/-- Close a session from this side: CLOSE goes to the peer (R341). -/
def State.closeTo (s : State) (peer : Nat) : State :=
  let q := s.session peer
  let s := if q.isOpen then s.sendLoose peer .closeReq else s
  s.setSession peer { closed := true }

/-- Buffers of a message of `n` consumed payload bytes free up: the credit is granted again with the next packet (R346). -/
def State.freeCredit (s : State) (peer n : Nat) : State :=
  let q := s.session peer
  s.setSession peer { q with freed := q.freed + wireBytes q.version n }

/-- VETO enters every exchange packet of an instance that still waits in a session (R357). -/
def State.vetoQueued (s : State) (key : XKey) : State :=
  let mark (x : DnHdr × NetMsg) : DnHdr × NetMsg := match x.2 with
    | .part c st p _ l =>
      if c = key.course ∧ st = key.station ∧ p = key.port then ({ x.1 with veto := true }, .part c st p true l)
      else x
    | _ => x
  { s with net := { s.net with sessions := s.net.sessions.map (fun (q : Nat × DnSession) =>
      (q.1, ({ q.2 with queue := q.2.queue.map mark } : DnSession))) } }

/-- Bytes of a tile's payload on the wire: a dense tile's elements and scales, or a block's entry and data (R173). -/
def State.payloadBytes (s : State) (x : Tile) : Nat :=
  if 0x10 ≤ x.hdr.format then
    match s.tensor x.hdr.tensor with
    | some t => (t.desc.payload x).length
    | none => 0
  else tileBytes (if x.hdr.longSum then 0 else x.hdr.format) + x.scales.length

/-- Bytes of an exchange payload on the wire (log entry 67): a pair takes a second FP32 value, the pre-pass its bytes. -/
def State.loadBytes (s : State) (l : XLoad) : Nat :=
  if !l.bytes.isEmpty then l.bytes.length
  else if 0x10 ≤ l.x.hdr.format then s.payloadBytes l.x + (if l.pair then 4 * l.x.recs.length else 0)
  else s.payloadBytes l.x + (if l.pair then tileBytes 0 else 0)

end Sys2Proof.Machine
end

