-- ==== Sys2Proof/Machine/Query.lean ====
section
/-! DEFINITION. QUERY of each kind (R410, R457), and PLACEMENT_REPORT with its snapshot (R86, Table 2.14). -/

namespace Sys2Proof.Machine

/-- Cores retired in the field (R456). -/
def State.retiredCores (s : State) : Nat :=
  ((List.range s.part.cores).filter (fun n => (s.core n).retired)).length

/-- The lifecycle state (LIFECYCLE register). -/
def State.lifecycleState (s : State) : Nat := s.secure.lifecycle

/-- The IDENTITY structure (Table 15.10). -/
def State.identity (s : State) : List Byte :=
  fitBytes 8 (s.part.name.toList.map (fun c => BitVec.ofNat 8 c.toNat))
    ++ toLe 1 s.part.dies ++ toLe 1 mePerCore ++ toLe 1 s.part.vePerCore ++ toLe 1 (pkgNum s.pkg)
    ++ toLe 2 s.part.stackCount ++ toLe 2 s.part.ports ++ toLe 2 (coresPerDie * s.part.dies)
    ++ toLe 2 s.retiredCores ++ toLe 1 s.lifecycleState ++ toLe 3 0 ++ toLe 8 Config.firmwareVersion.toNat
    ++ toLe 32 0

/-- Bytes reserved for the homes of one function. -/
def State.reservedOf (s : State) (func : Nat) : Nat :=
  s.tensors.foldl (fun a kv => match kv.2 with
    | some t => if t.func = func then a + t.bytes else a
    | none => a) 0

/-- The CAPACITY structure (Table 15.10). -/
def State.capacity (s : State) (func : Nat) : List Byte :=
  toLe 8 s.freeBytes ++ toLe 8 (s.reservedOf func)
    ++ toLe 4 (s.part.courseContexts - s.contextsUsed)
    ++ toLe 4 (s.courses.filter (fun c => c.started && decide (c.desc.func = func))).length ++ toLe 40 0

/-- The log entries that a function receives: a VF only its own (R457). -/
def State.logOf (s : State) (func : Nat) : List LogEntry :=
  if func = 0 then s.log else s.log.filter (fun e => e.func = func)

/-- The ERROR_LOG structure (R457): a 64-byte header, then the entries, oldest first. -/
def State.errorLog (s : State) (func : Nat) : List Byte :=
  let es := s.logOf func
  toLe 2 es.length ++ toLe 2 (s.regF .errlogStat 0 31 16) ++ toLe 60 0 ++ es.flatMap LogEntry.toBytes

/-- Write a QUERY's structure into its buffer: all of it, or as many bytes as fit, rounded down to 64; the
record carries the full size (R410). -/
def State.answerQuery (s : State) (d : Desc) (bytes : List Byte) : State :=
  let len := d.field 32 4
  let out := if len < bytes.length then bytes.take (len / 64 * 64) else bytes
  (s.emit (.hostWrite d.func (d.field 24 8) out)).completeStatus d 0x0000 bytes.length

/-- A QUERY of a given kind, if it is the ring's next descriptor. -/
def State.query (s : State) (ring kind : Nat) (bytes : Nat → List Byte) : State :=
  match s.dueDesc ring 0x09 with
  | none => s
  | some d => if d.field 16 1 = kind then s.answerQuery d (bytes d.func) else s

/-- QUERY_IDENTITY: a QUERY of kind 0x00. -/
def execQueryIdentity (ring : Nat) (s : State) : Host.Outcome State Fault Refusal :=
  .next (s.query ring 0x00 (fun _ => s.identity))

/-- QUERY_CAPACITY: a QUERY of kind 0x01. -/
def execQueryCapacity (ring : Nat) (s : State) : Host.Outcome State Fault Refusal :=
  .next (s.query ring 0x01 s.capacity)

/-- QUERY_ERROR_LOG: a QUERY of kind 0x02. -/
def execQueryErrorLog (ring : Nat) (s : State) : Host.Outcome State Fault Refusal :=
  .next (s.query ring 0x02 s.errorLog)

/-! ## The placement report -/

/-- The station entry of a report (Table 2.14). Its bit 20 says that the course pins the station, also once that pin has lapsed,
which the PIN_LAPSED warning tells (log entry 99). -/
def stationEntry (st : Station) : List Byte :=
  let off := st.typ = stExchange ∨ st.typ = stFence
  toLe 4 (st.id + (if st.pin.isSome then 2 ^ 20 else 0) + (if st.place.split then 2 ^ 21 else 0))
    ++ toLe 2 (if off then 0xFFFF else st.place.core)
    ++ toLe 1 (st.place.core / coresPerDie) ++ toLe 1 0 ++ toLe 2 (st.place.me % 2 ^ 12)
    ++ toLe 1 (st.place.ve % 16 + (if st.place.ue then 16 else 0) + st.place.mu % 8 * 32) ++ toLe 1 0
    ++ toLe 2 (if st.typ = stExchange then st.place.ports else 0) ++ toLe 2 0

/-- The granules of 4 KiB of a home that the `i`-th of its stacks holds. -/
def Tensor.granulesAt (t : Tensor) (i : Nat) : Nat :=
  let n := max 1 t.stackIds.length
  (ceilDiv t.bytes 4096 + n - 1 - i) / n

/-- The die whose stacks hold most bytes of a home, the lowest of several (R336). -/
def Tensor.homeDie (t : Tensor) : Nat :=
  let cnt (d : Nat) := (((t.stackIds.zip (List.range t.stackIds.length)).filter (fun q => q.1 / 8 = d)).map
    (fun q => t.granulesAt q.2)).sum
  (List.range 4).foldl (fun b d => if cnt b < cnt d then d else b) 0

/-- The stacks of a die that hold the home, as a mask. -/
def stackMask (stackIds : List Nat) (die : Nat) : Nat :=
  (List.range 8).foldl (fun a i => if stackIds.contains (8 * die + i) then a + 2 ^ i else a) 0

/-- The slots among some that hold tiles of a tensor. -/
def State.slotsOf (s : State) (id : Nat) (qs : List Slot) : List Slot :=
  qs.filter (fun q => s.courses.any (fun c => decide (c.id = q.course)
    && c.streams.any (fun x => decide (x.id = q.stream ∧ x.tensor = id))))

/-- The level of Table 1.3 that holds most of a tensor's tiles, the nearest of several (log entry 76), and its bytes in
CM and DM. -/
def State.residence (s : State) (id : Nat) : Nat × Nat :=
  let cm := s.slotsOf id (s.cores.flatMap (fun kv => kv.2.cm.slots))
  let dm := s.slotsOf id (s.dm.flatMap (fun kv => kv.2.slots))
  let all := match s.tensor id with
    | some t => (s.heldTiles t.desc).length
    | none => 0
  let rest := all - cm.length - dm.length
  (if dm.length ≤ cm.length ∧ rest ≤ cm.length ∧ 0 < cm.length then 2 else if rest ≤ dm.length ∧ 0 < dm.length then 3 else 4,
    ((cm ++ dm).map (fun q => q.bytes)).sum)

/-- The tensor entry of a report. -/
def State.tensorEntry (s : State) (id : Nat) : List Byte :=
  let t := (s.tensor id).getD {}
  let r := s.residence id
  toLe 4 id ++ toLe 1 r.1 ++ toLe 1 t.homeDie ++ toLe 2 (stackMask t.stackIds t.homeDie) ++ toLe 8 r.2

/-- A warning entry of a report. -/
def warningEntry (w : Nat × Nat × Nat × Nat) : List Byte :=
  toLe 2 w.1 ++ toLe 4 w.2.1 ++ toLe 4 w.2.2.1 ++ toLe 6 w.2.2.2

/-- The full report of a course: its entries and its counts. -/
def State.reportEntries (s : State) (c : Course) : List (List Byte) :=
  c.stations.map stationEntry ++ c.names.map s.tensorEntry ++ c.warnings.map warningEntry

/-- The report's header (Table 2.14). -/
def reportHeader (c : Course) (truncated : Bool) : List Byte :=
  toLe 4 c.id ++ toLe 8 c.step ++ toLe 4 c.stations.length ++ toLe 4 c.names.length
    ++ toLe 4 c.warnings.length ++ toLe 1 (if truncated then 1 else 0) ++ toLe 39 0

/-- Write one report: the header, and as many whole entries as the buffer holds. -/
def State.writeReport (s : State) (c : Course) (d : Desc) : State :=
  let es := s.reportEntries c
  let room := (d.field 32 4 - 64) / 16
  let bytes := reportHeader c (decide (room < es.length)) ++ (es.take room).flatten
  let s := s.emit (.hostWrite d.func (d.field 24 8) (bytes.take (d.field 32 4)))
  s.complete d { d.record 0x0000 (64 + 16 * es.length) with course := c.id }

/-- PLACEMENT_REPORT: the report waits for the course's next tile boundary. A VF that names a course of another function gets
NOT_PERMITTED (R392). Where there is no running or held course of that id, the spec names no status: the record's STATUS is a
free value. -/
def execPlacementReport (ring : Nat) (s : State) : Host.Outcome State Fault Refusal :=
  match s.dueDesc ring 0x0A with
  | none => .next s
  | some d =>
    let id := d.field 16 4
    match s.course id with
    | none =>
      let st := (Config.absentCourseStatus s.free).toNat
      let s := { s with free := s.free + 1 }
      .next (s.complete d { d.record st with course := id })
    | some c =>
      if d.func ≠ 0 ∧ d.func ≠ c.desc.func then .next (s.complete d { d.record 0x0003 with course := id })
      else .next ((s.markActed d).setCourse { c with reports := c.reports ++ [d] })

/-- Write every report that waits for a course, at a tile boundary. -/
def State.snapshotReports (s : State) (c : Course) : State :=
  c.reports.foldl (fun s d => s.writeReport c d) (s.setCourse { c with reports := [] })

/-- The station stands at a tile boundary: no task of it runs. -/
def State.atBoundary (s : State) (c : Course) (st : Station) : Bool :=
  !((s.journal.filterMap (fun kv => kv.2)).any (fun e =>
    decide (e.course = c.id ∧ e.station = st.id) && e.state == .issued && !e.finished))

/-- PLACEMENT_SNAPSHOT: a running course comes to a tile boundary of one of its stations, and its waiting reports are
written. -/
def execPlacementSnapshot (course station : Nat) (s : State) : Host.Outcome State Fault Refusal :=
  match s.course course with
  | none => .next s
  | some c =>
    if c.started && (c.station station).any (s.atBoundary c) then .next (s.snapshotReports c) else .next s

end Sys2Proof.Machine
end

