-- ==== Sys2Proof/Machine/CourseEnd.lean ====
section
/-! DEFINITION. The end of a course: the gauge ring and its records (R251 to R256, R236, R388), the weir's decision
(R260 to R262), the judgement of sparse generations (R171, R334), the step machine's transitions (Table 17.2), the
completion record, and the device fault (R459). -/

namespace Sys2Proof.Machine

/-! ## The gauge ring (R255) -/

/-- Slots of the gauge ring, 0 when it is off (Table 9.8). -/
def State.gaugeSlots (s : State) : Nat :=
  match s.regF .gaugeRing 0 4 0 with
  | 0 => 0
  | n => 2 ^ n

/-- A record is due: it is written into slot HEAD, or dropped and counted when the ring is full. The record is told
whether one was dropped since the last one written. -/
def State.gaugeWrite (s : State) (record : Bool → List Byte) : State :=
  let n := s.gaugeSlots
  let p : Reg := ⟨.gaugePtr, 0, 0⟩
  let head := getF (s.reg p) 19 0
  if n = 0 then s
  else if (head + 1) % n = getF (s.reg p) 51 32 % n then
    let s := s.countReg ⟨.gaugeStatus, 0, 0⟩ 15 0 1
    { s with host := { s.host with gaugeLost := true } }
  else
    let base := s.regF .gaugeRing 0 63 12 * 4096
    let s := s.emit (.hostWrite 0 (base + 128 * head) (fitBytes 128 (record s.host.gaugeLost)))
    let s := s.setReg p (setF (s.reg p) 19 0 ((head + 1) % n))
    { s with host := { s.host with gaugeLost := false } }

/-- A count of `b` bytes, saturating. -/
def satLe (b n : Nat) : List Byte := toLe b (min n (2 ^ (8 * b) - 1))

/-- The values of a gauge set with their flat indices. -/
def GaugeSet.list (g : GaugeSet) : List (Nat × Nat) := g.vals.filterMap (fun kv => kv.2.map (fun v => (kv.1, v)))

/-- Values of a set that are ±0. -/
def GaugeSet.zeros (g : GaugeSet) : Nat := (g.list.filter (fun v => v.2 % 2 ^ 31 = 0)).length

/-- The sum of squares of a set (R252). -/
def GaugeSet.sumSq (g : GaugeSet) (L : Nat) : Pair := (flatSum L true g.list).long

/-- The flags that the sum of squares of a set and its value raise (R127, R252). -/
def GaugeSet.sumFlags (g : GaugeSet) (L : Nat) : Flags :=
  let q := flatSum L true g.list
  q.flags ||| (longResult q.long).2

/-- The flags of the sums of a gauge record: of a vetoed one those of set 1 (log entry 96). -/
def StationRec.sumFlags (d : StationRec) (L : Nat) (veto : Bool) : Flags :=
  if veto then d.set1.sumFlags L else d.set0.sumFlags L ||| d.set1.sumFlags L ||| d.set2.sumFlags L

/-- A set of a gauge record (Table 9.7). -/
def GaugeSet.bytes (g : GaugeSet) (L : Nat) : List Byte :=
  let q := g.sumSq L
  toLe 4 q.hi ++ toLe 4 q.lo ++ toLe 4 (amaxCode (g.list.map (fun v => val32 v.2)))
    ++ satLe 6 g.zeros ++ satLe 6 g.under.length ++ satLe 6 (g.list.filter (fun v => !isFin32 v.2)).length ++ toLe 2 0

/-- The gradient set meets the dry condition (R257). -/
def GaugeSet.isDry (g : GaugeSet) (L frac : Nat) : Bool :=
  let n := g.list.length
  decide (n ≠ 0) && (decide ((longResult (g.sumSq L)).1 = 0)
    || decide (frac * n < (g.zeros + g.under.length) * 2 ^ 15))

/-- The fields of a gauge record (Table 9.7). -/
structure GaugeRec where
  vetoed : Bool := false
  probe : Bool := false
  dry : Bool := false
  source : Nat := 0
  tensor : Nat := 0
  withheld : Bool := false
  station : Nat := 0xFFFFF
  step : Nat := 0
  course : Nat := 0
  positions : Nat := 0
  tag : Nat := 0
  dryRun : Nat := 0
  stragglers : Nat := 0
  sets : List Byte := []

/-- The bytes of a gauge record. -/
def GaugeRec.bytes (r : GaugeRec) (lost : Bool) : List Byte :=
  let bit (b : Bool) (i : Nat) : Nat := if b then 2 ^ i else 0
  toLe 4 (bit r.vetoed 31 + bit r.probe 30 + bit r.dry 29 + bit lost 28 + r.source * 2 ^ 26 + 3 * 2 ^ 24
      + r.tensor % 2 ^ 24)
    ++ toLe 4 (bit r.withheld 20 + r.station % 2 ^ 20) ++ toLe 8 r.step ++ toLe 4 r.course
    ++ satLe 6 r.positions ++ toLe 2 r.tag ++ satLe 2 r.dryRun ++ satLe 2 r.stragglers
    ++ fitBytes 96 (if r.withheld then [] else r.sets)

/-- The tensor that a station's gauge record describes. -/
def Course.gaugeTensor (c : Course) (st : Station) : Nat :=
  if st.typ = stUpdate ∧ st.p 4 3 ≠ 0 then st.p 4 3 else c.inTensor st.id 0

/-- The course probes some tensor that the station writes (R262). -/
def State.probedBy (s : State) (ids : List Nat) : Bool :=
  ids.any (fun id => match s.tensor id with
    | some t => t.weir.probe.isSome
    | none => false)

/-- The gauge record of an UPDATE or GAUGE station. -/
def State.gaugeRec (s : State) (c : Course) (st : Station) (vetoed : Bool) : GaugeRec :=
  let L := 2 ^ c.reachLog2
  let id := c.gaugeTensor st
  let veto := vetoed || st.diag.vetoed
  let upd := st.typ == stUpdate
  let none32 : List Byte := List.replicate 32 0
  { vetoed := veto
    probe := s.probedBy (c.outputTensors st)
    dry := upd && st.diag.set1.isDry L (s.regF .gaugeCtl 0 30 16)
    source := if upd then 1 else 2
    tensor := id
    withheld := decide (s.policyOf (s.polderOf id) ≠ 0)
    station := st.id, step := c.step, course := c.id
    positions := max st.diag.set0.list.length st.diag.set1.list.length
    tag := if upd then st.p 2 2 else st.p 0 2
    dryRun := match s.tensor id with
      | some t => t.dry
      | none => 0
    sets := (if veto then none32 else st.diag.set0.bytes L) ++ st.diag.set1.bytes L
      ++ (if veto then none32 else st.diag.set2.bytes L) }

/-- The step record of a step course (R251). -/
def State.stepRec (s : State) (c : Course) (vetoed : Bool) : GaugeRec :=
  { vetoed := vetoed, probe := s.probedBy c.names, step := c.step, course := c.id, stragglers := c.stragglers }

/-- The mask record of a PRUNE or REGROW (Table 8.6). A vetoed one has selected nothing (R217, R236). -/
def maskRecord (c : Course) (st : Station) (vetoed : Bool) : List Byte :=
  let sum (m : FMap Nat) : Nat := (m.map (fun kv => kv.2)).foldl (· + ·) 0
  let veto := vetoed || st.diag.vetoed
  toLe 4 ((if veto then 2 ^ 31 else 0) + (if st.typ = stPrune then 1 else 2) * 2 ^ 24 + st.p 12 3 % 2 ^ 24)
    ++ toLe 4 (st.id % 2 ^ 20) ++ toLe 8 c.step ++ toLe 8 (if veto then 0 else sum st.diag.selected)
    ++ satLe 4 (if veto then 0 else st.diag.short.length) ++ satLe 4 (sum st.diag.nans)

/-- The route record of a DISPATCH (Table 14.5). -/
def routeRecord (c : Course) (st : Station) : List Byte :=
  let sum (m : FMap Nat) : Nat := (m.map (fun kv => kv.2)).foldl (· + ·) 0
  toLe 4 (c.outTensor st.id 0 % 2 ^ 24) ++ toLe 4 (st.id % 2 ^ 20) ++ toLe 8 c.step ++ toLe 4 c.id
    ++ satLe 4 st.diag.tokens ++ satLe 4 st.diag.passed ++ satLe 4 st.diag.fallbacks ++ satLe 4 (sum st.diag.nans)
    ++ satLe 4 st.diag.maxLoad ++ satLe 2 st.diag.fetched ++ satLe 2 st.diag.shipped ++ toLe 20 0

/-- The record of one station, if its type gives one. -/
def State.stationRecord (s : State) (c : Course) (vetoed : Bool) (st : Station) : State :=
  if st.typ = stUpdate ∨ st.typ = stGauge then s.gaugeWrite (s.gaugeRec c st vetoed).bytes
  else if st.typ = stPrune ∨ st.typ = stRegrow then
    if c.stepMode then s.gaugeWrite (fun _ => maskRecord c st vetoed) else s
  else if st.typ = stRoute ∧ st.p 0 1 = 0 then s.gaugeWrite (fun _ => routeRecord c st)
  else s

/-- The records of a course, in ascending station id, and its step record. -/
def State.writeRecords (s : State) (c : Course) (vetoed : Bool) : State :=
  let s := c.stations.foldl (fun (s : State) st => s.stationRecord c vetoed st) s
  if c.stepMode then s.gaugeWrite (s.stepRec c vetoed).bytes else s

/-- A station of the course makes a gauge record (R251). -/
def Station.gauged (st : Station) : Bool := decide (st.typ = stUpdate ∨ st.typ = stGauge)

/-- The course with the flags of its gauge sums (R127). -/
def Course.withGauge (c : Course) (vetoed : Bool) : Course :=
  { c with flags := (c.stations.filter Station.gauged).foldl (fun a st =>
      a ||| st.diag.sumFlags (2 ^ c.reachLog2) (vetoed || st.diag.vetoed)) c.flags }

/-- The flags of the gauge sums, in the UE of the core that runs each station and in the course (R112, R127). -/
def State.noteGauge (s : State) (c : Course) (vetoed : Bool) : State :=
  let s := (c.stations.filter Station.gauged).foldl (fun (s : State) st =>
    let r : Reg := ⟨.ueFlags, st.place.core, 0⟩
    s.setReg r (s.reg r ||| BitVec.ofNat 64 (st.diag.sumFlags (2 ^ c.reachLog2) (vetoed || st.diag.vetoed) % 32))) s
  s.setCourse (c.withGauge vetoed)

/-- The UPDATE whose writes of a MASTER land last (R257). -/
def Course.lastUpdate (c : Course) (id : Nat) : Option Station :=
  let us := c.stations.filter (fun st => st.typ = stUpdate && decide (st.p 4 3 = id))
  us.find? (fun a => us.all (fun b => !c.below a.id b.id))

/-- The records that decide dryness at the step's commit (R257, R258). -/
def State.keepDry (s : State) (c : Course) (vetoed : Bool) : State :=
  if !c.stepMode then s
  else
    (sortNat ((c.stations.filter (fun st => st.typ = stUpdate && decide (st.p 4 3 ≠ 0))).map (fun st => st.p 4 3))).foldl
      (fun (s : State) id =>
        match c.lastUpdate id, s.tensor id with
        | some st, some t =>
          s.setTensor id (some { t with dryRec := some ((s.gaugeRec c st vetoed).bytes false) })
        | _, _ => s) s

/-! ## The weir (R261, R262) -/

/-- k(h) of a format, as a biased exponent of FP32. -/
def weirExp (fmt h : Nat) : Nat :=
  match fmtOf fmt with
  | none => 1
  | some f => (roundUpExp f (amaxOf [val32 h]) (-126) 253 + 127).toNat

/-- The FP32 pattern of a power of two with a biased exponent. -/
def powTwo (e : Nat) : Nat := min 254 e * 2 ^ 23

/-- Push a value into the history. -/
def pushHist (h : List Nat) (a : Nat) : List Nat := h.drop 1 ++ [a]

/-- The largest entry of a history. -/
def histMax (h : List Nat) : Nat := h.foldl max 0

/-- The weir's decision (Table 9.12) from the record of the generation read. -/
def weirDecide (fmt : Nat) (r : ScaleRec) (w : WeirAcc) (vetoed : Bool) : ScaleRec :=
  let e := r.s / 2 ^ 23
  if vetoed then
    if w.grad then { r with s := powTwo (e + 1), clean := 0 } else r
  else
    let h := pushHist r.h w.amax
    let kh := weirExp fmt (histMax h)
    if w.ovf then { r with h := h, s := powTwo (max (e + 1) kh), clean := 0 }
    else if e < kh then { r with h := h, s := powTwo kh, clean := 0 }
    else if r.clean + 1 = 1000 then { r with h := h, s := powTwo (max (e - 1) kh), clean := 0 }
    else { r with h := h, clean := r.clean + 1 }

/-- The record of the generation written: a probe sets S_p, H and VALID; otherwise the decision. -/
def Tensor.weirNext (t : Tensor) (vetoed : Bool) : ScaleRec :=
  match t.weir.probe with
  | some sp => { s := sp, h := List.replicate 16 t.weir.probeAmax, valid := true, clean := 0 }
  | none => weirDecide t.desc.elemCode t.scale t.weir vetoed

/-- The weir computes the records of the tensors that the step has converted into, in this course or an earlier one of the
step: the veto of one course is the step's. -/
def State.runWeir (s : State) (c : Course) (vetoed : Bool) : State :=
  let veto := vetoed || (s.stepM c.desc.func).vetoed
  { s with tensors := s.tensors.map (fun kv => (kv.1, kv.2.map (fun (t : Tensor) =>
      if t.weir.seen && t.desc.outerScaled && decide (t.func = c.desc.func) then
        { t with scaleNext := some (t.weirNext veto) }
      else t))) }

/-! ## Sparse generations (R171, R334) -/

/-- The compaction copy: every block that the step did not write goes to the half being built. -/
def Tensor.compact (t : Tensor) (id : Nat) (held : List Nat) : Tensor :=
  held.foldl (fun (x : Tensor) k =>
    if x.isWritten k then x
    else
      let y := x.putHalf id (!x.flag) k (x.inHalf id x.flag k)
      { y with broken := FMap.set (fun _ => 0) y.broken (brokenKey (!x.flag) k) (FMap.get (fun _ => 0) x.broken (brokenKey x.flag k)) }) t

/-- The pool bytes of a half. -/
def Tensor.poolUse (t : Tensor) (id : Nat) (h : Bool) (held : List Nat) : Nat :=
  t.desc.poolBytes (held.map (t.inHalf id h))

/-- The pool's size. -/
def TensorDesc.poolSize (d : TensorDesc) : Nat := d.pool * 65536

/-- The course's last station to write a tensor (R81). -/
def Course.lastWriter (c : Course) (id : Nat) : Option Station :=
  let ws := c.stations.filter (fun st => (c.stationWrites st).contains id)
  ws.find? (fun a => ws.all (fun b => !c.below a.id b.id))

/-- The generation exceeds its pool: the stream of the last station to write it halts with NOSPACE. -/
def State.poolExceeded (s : State) (c : Course) (id : Nat) : State :=
  match c.lastWriter id with
  | none => s
  | some st =>
    let a := violationArgs id (s.writeGenOf c id) 0 0 0x20
    (s.logFor 0x0030 c.desc.func a.1 a.2).haltCourse c.id st.id st.haltSide 0x0005 0x20

/-- The next generation of a sparse tensor that a step course has built is completed by the compaction copy, laid into its home
and judged (R171, R334). -/
def State.judgeNext (s : State) (c : Course) (id : Nat) (t : Tensor) : State :=
  if !t.building then s
  else
    let held := s.heldTiles t.desc
    let t := { t.compact id held with whole := held.all t.isWritten }
    let s := (s.setTensor id (some t)).writeBlocks id t (!t.flag)
    if t.desc.poolSize < t.poolUse id (!t.flag) held then s.poolExceeded c id else s

/-- A generation written in place: what its judgement leaves of the tensor, and whether it exceeds its pool (R171). -/
def Tensor.judged (t : Tensor) (id : Nat) (held : List Nat) : Tensor × Bool :=
  if t.desc.poolSize < t.poolUse id (t.curHalf 0) held then ({ t with incomplete := true, inPlace := [] }, true)
  else
    let whole := held.all (fun k => FMap.get (fun _ => false) t.inPlace k)
    ({ t with incomplete := t.incomplete && !whole, inPlace := [] }, false)

/-- Judge a generation written in place. -/
def State.judgePlaced (s : State) (c : Course) (id : Nat) (t : Tensor) : State :=
  if t.inPlace.isEmpty then s
  else
    let q := t.judged id (s.heldTiles t.desc)
    let s := s.setTensor id (some q.1)
    if q.2 then s.poolExceeded c id else s

/-- Judge the generations that a step course has built, ascending (R171). -/
def State.judge (s : State) (c : Course) : State :=
  c.writes.foldl (fun (s : State) id => match s.tensor id with
    | some t => if t.desc.sparse && t.toNext c.stepMode then s.judgeNext c id t else s
    | none => s) s

/-- Judge the generations written in place whose last writer has landed its last write (R171). -/
def State.judgeLanded (s : State) (cid : Nat) : State :=
  match s.course cid with
  | none => s
  | some c =>
    c.writes.foldl (fun (s : State) id => match s.tensor id, c.lastWriter id with
      | some t, some w => if t.desc.sparse && !t.toNext c.stepMode && w.closed then s.judgePlaced c id t else s
      | _, _ => s) s

/-! ## The step machine (Table 17.2) -/

/-- A step course of the open step that has not completed and is not held behind its commit (R444). -/
def State.stepCourses (s : State) (f step : Nat) : List Course :=
  s.courses.filter (fun c => c.stepMode && decide (c.desc.func = f ∧ c.step = step) && !s.stepClosing c)

/-- The remaining step courses of a failed step stop with its failing status. -/
def State.stopStep (s : State) (f step status : Nat) : State :=
  { s with courses := s.courses.map (fun c =>
      if c.stepMode && c.started && decide (c.desc.func = f ∧ c.step = step) && c.halt.isNone then
        { c with halt := some { status := status } }
      else c) }

/-- A step course has completed with a status. -/
def State.stepEvent (s : State) (c : Course) (status : Nat) : State :=
  if !c.stepMode then s
  else
    let f := c.desc.func
    let m := s.stepM f
    if m.step ≠ c.step ∨ m.state = .idle ∨ m.state = .committing then s
    else if status ≠ 0x0000 ∧ status ≠ 0x0015 then
      (s.setStepM f { m with state := .failed, rerun := none }).stopStep f m.step status
    else
      let s := if status = 0x0015 ∧ !m.vetoed then s.countReg ⟨.netXstat, 0, 0⟩ 15 0 1 else s
      let m := { m with vetoed := m.vetoed || decide (status = 0x0015) }
      let m := if m.state = .repeating ∧ m.rerun = some c.id then { m with state := .opened, rerun := none } else m
      let rest := s.stepCourses f m.step
      if m.state = .opened ∧ rest.isEmpty then
        s.setStepM f { m with state := if m.vetoed then .vetoed else .complete }
      else s.setStepM f m

/-! ## The completion record -/

/-- Drop the journal entries of a course, with what its tasks hold of banks and its tiles of CM and DM. -/
def State.dropEntries (s : State) (cid : Nat) : State :=
  let mine := s.journal.filter (fun kv => match kv.2 with
    | some e => decide (e.course = cid)
    | none => false)
  (mine.foldl (fun (s : State) kv => s.dropEntry kv.1) s).dropSlots (fun q => decide (q.course = cid))

/-- The tile queues that carry a course's streams are empty again. -/
def State.clearQueues (s : State) (c : Course) : State :=
  c.streams.foldl (fun (s : State) x => match x.buffer with
    | .queue core q => s.setQueue core q {}
    | _ => s) s

/-- TRANSIENT tensors go with the last course that uses them (R77). -/
def State.dropTransients (s : State) (c : Course) : State :=
  c.names.foldl (fun (s : State) id =>
    match s.tensor id with
    | none => s
    | some t =>
      if t.desc.genPolicy = 0 ∧ t.releasing = none ∧ !s.releaseHeld id then s.dropTensor id else s) s

/-- What a course kept of generations written in place goes; one whose course stops before its last write is judged without a
halt (log entry 97). -/
def State.clearBefore (s : State) (c : Course) : State :=
  c.names.foldl (fun (s : State) id =>
    match s.tensor id with
    | none => s
    | some t =>
      let t := if t.inPlace.isEmpty then t else (t.judged id (s.heldTiles t.desc)).1
      s.setTensor id (some { t with before := none })) s

/-- The device's part in the network for a course ends. -/
def State.dropNet (s : State) (c : Course) : State :=
  { s with net := { s.net with
      inbox := s.net.inbox.filter (fun p => p.key.course ≠ c.id)
      xsent := s.net.xsent.filter (fun q => q.key.course ≠ c.id)
      rounds := s.net.rounds.filter (fun r => !(decide (r.2.course = c.id ∧ r.2.func = c.desc.func)))
      requests := s.net.requests.filter (fun r => r.key.course ≠ c.id) } }

/-- The course's reports that still wait are written with its last placement (log entry 98). -/
def State.lastReports (s : State) (c : Course) : State :=
  c.reports.foldl (fun (s : State) d => s.writeReport c d) s

/-- A course ends: its waiting reports, its completion record unless it stands already, its contexts, TRANSIENT
tensors and entries, and the step machine's event. A step course's copy stays until its step closes (R447). -/
def State.endCourse (s : State) (c : Course) (status detail id : Nat) (logged : Bool) : State :=
  let s := s.lastReports c
  let r := { c.desc.record status detail id with course := c.id, flags := c.flags, logged := logged }
  let s := if c.recorded = some status then s.dropDesc c.desc else s.complete c.desc r
  let copy := { c with reports := [], recorded := some status }
  let s := (((s.clearBefore c).dropEntries c.id).clearQueues c).dropNet c
  let s := { s with
    courses := s.courses.filter (fun (e : Course) => e.id ≠ c.id)
    copies := s.copies.filter (fun (e : Course) => e.id ≠ c.id) ++ (if c.stepMode then [copy] else []) }
  (s.dropTransients c).stepEvent c status

/-! ## The mesh hears of a failure (R360) -/

/-- The name of a step course. -/
def Course.stepName (c : Course) (attempt : Nat) : StepName where
  func := c.desc.func
  course := c.id
  step := c.step
  attempt := attempt

/-- The header of a course's CTRL messages. -/
def Course.ctrlHdr (c : Course) : DnHdr := { attempt := c.attempt, epoch := c.epoch }

/-- GIVE_UP goes to the mesh for a step course that ends with neither OK nor VETO (R360). -/
def State.tellFailure (s : State) (c : Course) : State :=
  if c.stepMode then s.broadcast c.ctrlHdr (.giveUp (c.stepName c.attempt)) else s

/-! ## Device faults (R459) -/

/-- Descriptors in flight, but for QUERYs, complete with DEVICE_FAULT. -/
def State.failDescs (s : State) (cls : Nat) : State :=
  (s.host.inflight.filter (fun d => d.ty ≠ 0x09)).foldl (fun (s : State) d => s.completeStatus d 0x0018 cls) s

/-- A device fault: logged; every running course completes with DEVICE_FAULT, and so does every descriptor in flight
and every later one, but for QUERY. A second fault changes nothing more. -/
def State.raiseFault (s : State) (cls : Nat) : State :=
  if s.host.deviceFault.isSome then s
  else
    let s := s.logFor 0x0070 deviceWide cls 0
    let s := { s with host := { s.host with deviceFault := some cls } }
    let s := s.courses.foldl (fun (s : State) c => (s.tellFailure c).endCourse c 0x0018 cls 0 true) s
    s.failDescs cls

end Sys2Proof.Machine
end

