-- ==== Sys2Proof/Machine/Exchange.lean ====
section
/-! DEFINITION. EXCHANGE (13.5 to 13.8, 13.10): parameters, partials, the fixed order within and between nodes, the
block-scaled payloads, veto, quarantine, and the accumulation of every Nth step. -/

namespace Sys2Proof.Machine

/-! ## Parameters (R349, R350, R363) -/

/-- The tensors X and Y of a pair, their polarity on the exchange's axes: a dimension lies on one of the axes. -/
def onAxes (d : TensorDesc) (axes q : Nat) : Bool :=
  decide (shardKind (d.shards.getD q 0) ≠ 0) && axes.testBit (shardAxis (d.shards.getD q 0))

/-- The dimensions of a tensor that lie on the axes. -/
def axisDims (d : TensorDesc) (axes : Nat) : List Nat := (List.range d.dims.length).filter (onAxes d axes)

/-- Sharding entries agree but for one dimension. -/
def shardsAgree (x y : TensorDesc) (except : Option Nat) : Bool :=
  (List.range x.dims.length).all (fun q => some q == except || x.shards.getD q 0 == y.shards.getD q 0)

/-- A pair's tensors meet R350. -/
def pairOk (op axes : Nat) (x y : TensorDesc) : Bool :=
  let dx := axisDims x axes
  let dy := axisDims y axes
  x.dims == y.dims
    && (match op with
      | 0 => dx.isEmpty && shardsAgree x y none
      | 1 => dx.isEmpty && (match dy with
          | [q] => decide (shardKind (y.shards.getD q 0) = 1) && shardsAgree x y (some q)
          | _ => false)
      | _ => (match dx with
          | [q] => decide (shardKind (x.shards.getD q 0) = 1 ∧ shardKind (y.shards.getD q 0) = 0)
              && shardsAgree x y (some q)
          | _ => false)
        && decide (x.format = y.format ∧ x.valueFormat = y.valueFormat ∧ x.scaleBlk = y.scaleBlk))
    && (!x.sparse || (y.sparse && decide (x.valueFormat = y.valueFormat ∧ x.format = y.format)))

/-- The accumulator of a pair (R363): DOUBLE, FP32, shape (2, shape of X), X's sharding on the other dimensions. -/
def accOk (a x : TensorDesc) : Bool :=
  a.double && !a.sparse && decide (a.format = 0 ∧ a.rank = x.rank + 1)
    && a.shape.take a.rank == 2 :: x.shape.take x.rank
    && decide (shardKind (a.shard.getD 0 0) = 0)
    && (List.range x.rank).all (fun q => a.shard.getD (q + 1) 0 == x.shard.getD q 0)

/-- The first byte of an EXCHANGE's parameters, or the port, that breaks its rules. -/
def State.exchangeBad (s : State) (t : Task) : Option Nat :=
  let st := t.st
  let op := st.p 0 1
  let axes := st.p 2 1
  let n := s.meshAxes
  let one := (List.range 4).filter (fun a => axes.testBit a)
  let every := st.p 6 1
  let x (i : Nat) := s.descOf (t.inId i)
  let y (i : Nat) := s.descOf (t.outId i)
  failAt (decide (st.params.length ≠ 16 ∨ 2 < op)) 0 <|> failAt (decide (1 < st.p 1 1 ∧ op ≠ 2)) 1
    <|> (if op = 2 then none else (List.range st.inPorts).findSome? (fun i => failAt (indexFormat (x i).format) (0x100 + i)))
    <|> failAt (decide (axes = 0 ∨ 2 ^ n ≤ axes ∨ (op ≠ 0 ∧ one.length ≠ 1))) 2
    <|> failAt (decide (2 < st.p 3 1 ∨ (op = 2 ∧ st.p 3 1 ≠ 0))) 3
    <|> failAt (decide (1 < st.p 4 1 ∨ (st.p 4 1 = 1 ∧ op = 2)) || (decide (st.p 4 1 = 1) && !s.feature 5)) 4
    <|> failAt (decide (63 < st.p 5 1)) 5
    <|> failAt (decide (every = 0 ∨ 64 < every ∨ (op = 2 ∧ every ≠ 1))) 6
    <|> failAt (!st.zero 7 8) 7 <|> failAt (!st.zero 15 16) 15
    <|> failAt (decide (st.outPorts ≠ st.inPorts)) 0x200
    <|> ((List.range st.inPorts).findSome? (fun i => failAt (!pairOk op axes (x i) (y i)) (0x100 + i)))
    <|> (if every = 1 then failAt (decide (st.p 12 3 ≠ 0)) 12
      else match s.namedDesc t (st.p 12 3) with
        | none => some 12
        | some a => failAt (!(List.range st.inPorts).all (fun i => accOk a (x i))) 12)

/-! ## Partials (R351, R359, R363) -/

/-- The stored positions of a tile within its extent. -/
def partPositions (x : Tile) : List Nat :=
  if 0x10 ≤ x.hdr.format then x.mask else (extentPos x.rows x.cols).map (fun p => 64 * p.1 + p.2)

/-- The partial at a position: the value of a LONG_SUM tile, else the element decoded to FP32. -/
def State.partialAt (s : State) (x : Tile) (p : Nat) : Nat × Flags :=
  if x.hdr.longSum then (posCode x p, 0)
  else posFp32 x (s.ctxOf x) (s.descOf x.hdr.tensor).valueFormat p

/-- The row of an accumulator's tile, and its index, that hold `hi` (half 0) or `lo` (half 1) of an element: a rank-1
X gives rows 0 and 1 of one tile. -/
def accPlace (x : TensorDesc) (half k p : Nat) : Nat × Nat :=
  if x.rank = 1 then (k, 64 * half + p % 64) else (half * x.tileCount + k, p)

/-- The pair of an element in the accumulator's generation read. -/
def State.accPair (s : State) (acc : Nat) (x : TensorDesc) (k p : Nat) : Pair :=
  match s.tensor acc with
  | none => {}
  | some a =>
    let word (half : Nat) : Nat := let q := accPlace x half k p; posCode (a.current acc q.1) q.2
    ⟨word 0, word 1⟩

/-- The partials of the device's tile: with EVERY_N above 1, R125 of the pair after the fold (R363); with QUARANTINE,
+0 for a non-finite one (R359). It gives values by position, flags and the count of replacements. -/
def State.ownPartials (s : State) (t : Task) (port : Nat) (x : Tile) : List (Nat × Nat) × Flags × Nat :=
  let d := s.descOf (t.inId port)
  let vs := (partPositions x).map (fun p =>
    let v := s.partialAt x p
    let r := if t.st.p 6 1 = 1 then v
      else
        let f := foldLong (s.accPair (t.st.p 12 3) d x.hdr.index p) v.1
        let q := longResult f.1
        (q.1, v.2 ||| f.2 ||| q.2)
    (p, r.1, r.2))
  let quar := decide (t.st.p 4 1 = 1)
  let bad := vs.filter (fun v => quar && !isFin32 v.2.1)
  (vs.map (fun v => (v.1, if quar && !isFin32 v.2.1 then 0 else v.2.1)), vs.foldl (fun a v => a ||| v.2.2) 0, bad.length)

/-! ## Combination (R352, R355, R356) -/

/-- LEG (Table 13.4): within a node, between nodes, distribution, pre-pass. -/
def legNode : Nat := 0
def legBetween : Nat := 1
def legResult : Nat := 2
def legPrepass : Nat := 3

/-- A running value of some elements: a pair for each, the largest scale exponent of the blocks that fed it, and the flags of
what this device has done for it. -/
structure XVal where
  pairs : List Pair
  k : Int
  flags : Flags := 0
  deriving DecidableEq, Repr

/-- Values with nothing in `lo`. -/
def XVal.ofValues (vs : List Nat) (k : Int) (fl : Flags) : XVal := ⟨vs.map (fun v => ⟨v, 0⟩), k, fl⟩

/-- R125 of each pair. -/
def XVal.settle (x : XVal) : XVal :=
  let rs := x.pairs.map longResult
  .ofValues (rs.map (fun r => r.1)) x.k (x.flags ||| orFlags rs)

/-- A node of the tree (R134). -/
def XVal.node (a b : XVal) : XVal :=
  let ns := (a.pairs.zip b.pairs).map (fun q => treeNode q.1 q.2)
  ⟨ns.map (fun n => n.1), max a.k b.k, ns.foldl (fun f n => f ||| n.2) (a.flags ||| b.flags)⟩

/-- The chain's running pairs with the next partial folded in (R133). -/
def XVal.fold (a q : XVal) : XVal :=
  let fs := (a.pairs.zip q.pairs).map (fun p => foldLong p.1 p.2.hi)
  ⟨fs.map (fun f => f.1), max a.k q.k, fs.foldl (fun f n => f ||| n.2) (a.flags ||| q.flags)⟩

/-- Place `r` of `m` in the tree of R134, at the level whose nodes span `d` leaves: the value that it reaches, with the place that
takes it, none at the root; none as a whole while a right child has not come. -/
def XVal.climb (got : Nat → Option XVal) (m r : Nat) : Nat → Nat → XVal → Option (XVal × Option Nat)
  | 0, _, v => some (v, none)
  | n + 1, d, v =>
    if m ≤ d then some (v, none)
    else if r / d % 2 = 1 then some (v, some (r - d))
    else if m ≤ r + d then climb got m r n (2 * d) v
    else match got (r + d) with
      | none => none
      | some q => climb got m r n (2 * d) (v.node q)

/-- What a participant hands on: the leg, the device that takes it (its own for the result that it has formed), the value. -/
structure XTurn where
  leg : Nat
  dst : Nat
  v : XVal
  deriving DecidableEq, Repr

/-- Participants grouped by node. -/
def byNode (ps : List MeshEntry) : List (List MeshEntry) := ps.splitBy (fun a b => a.nodeId = b.nodeId)

/-- The device at a place of a list of participants. -/
def deviceAt (g : List MeshEntry) (i : Nat) : Nat := (g.map (fun e => e.device)).getD i 0

/-- The first participants of the nodes. -/
def firstsOf (ps : List MeshEntry) : List Nat := (byNode ps).map (fun g => deviceAt g 0)

/-- The participant that forms the result (R352). -/
def formerOf (tree : Bool) (ps : List MeshEntry) : Nat :=
  if tree then (firstsOf ps).headD 0 else (firstsOf ps).getLastD 0

/-- What participant `me` makes of a piece (R352): `got leg d` is what device `d` has handed on to it, `own` its partials; none
while it awaits a value. -/
def turnOf (tree : Bool) (ps : List MeshEntry) (me : Nat) (got : Nat → Nat → Option XVal) (own : XVal) : Option XTurn :=
  let nodes := byNode ps
  let n := nodes.findIdx (fun g => g.any (fun e => e.device = me))
  let g := nodes.getD n []
  let firsts := firstsOf ps
  match own.climb (fun i => got legNode (deviceAt g i)) g.length (g.findIdx (fun e => e.device = me)) g.length 1 with
  | none => none
  | some (v, some i) => some ⟨legNode, deviceAt g i, v⟩
  | some (v, none) =>
    let q := if g.length = 1 then v else v.settle
    if tree then
      (q.climb (fun i => got legBetween (firsts.getD i 0)) firsts.length n firsts.length 1).map (fun r =>
        match r.2 with
        | some i => ⟨legBetween, firsts.getD i 0, r.1⟩
        | none => ⟨legResult, me, r.1.settle⟩)
    else
      (if n = 0 then some ⟨q.pairs.map (fun _ => {}), q.k, 0⟩ else got legBetween (firsts.getD (n - 1) 0)).map (fun a =>
        if n + 1 < firsts.length then ⟨legBetween, firsts.getD (n + 1) 0, a.fold q⟩ else ⟨legResult, me, (a.fold q).settle⟩)

/-- The smallest exponent from `k` at which every finite value of a block fits (R356). -/
def fitScale (f : Fmt) (vs : List Val) : Nat → Int → Int
  | 0, k => k
  | n + 1, k =>
    if (amaxOf vs).le ((f.magVal false f.maxMag).shift k).dy then k else fitScale f vs n (k + 1)

/-- A block encoded from a scale exponent on (R356, Table 3.5): its codes, its E8M0 scale, whether the scale was raised, and the
flags. -/
structure XCoded where
  codes : List Nat
  scale : Nat
  raised : Bool
  flags : Flags
  deriving DecidableEq, Repr

/-- Encode the R125 values of a block. -/
def XVal.encode (f : Fmt) (x : XVal) : XCoded :=
  let s := x.settle
  let vals := s.pairs.map (fun p => val32 p.hi)
  match blockNan f vals with
  | some fl => ⟨vals.map (fun _ => 0), 255, false, s.flags ||| fl⟩
  | none =>
    let k := fitScale f vals 300 x.k
    let cs := vals.map (fun v => f.convertClamp .nearest (v.shift (-k)))
    ⟨cs.map (fun c => c.1), (k + 127).toNat, decide (x.k < k), s.flags ||| orFlags cs⟩

/-- The values of a block as its receiver decodes it (R93), with `k` for a block of scale NaN. -/
def decodeBlock (f : Fmt) (k : Int) (scale : Nat) (codes : List Nat) : XVal :=
  if scale = 255 then .ofValues (codes.map (fun _ => fp32Nan)) k 0
  else
    let ds := codes.map (fun c => ofVal32 ((f.decode c).shift ((scale : Int) - 127)))
    .ofValues (ds.map (fun d => d.1)) ((scale : Int) - 127) (orFlags ds)

/-- The pre-pass byte of a block (R355). -/
def prepassByte (vs : List Nat) : Nat :=
  let a := amaxOf (vs.map val32)
  if a.m = 0 then 0
  else (min 255 (max 1 ((Nat.log2 a.m.natAbs : Int) + a.e + 128))).toNat

/-- ⌈log2 n⌉. -/
def ceilLog2 (n : Nat) : Nat := if n ≤ 1 then 0 else Nat.log2 (n - 1) + 1

/-- The agreed scale exponent k0 of a block, from its pre-pass bytes (R355). -/
def agreedScale (f : Fmt) (P : Nat) (bytes : List Nat) : Int :=
  let e := bytes.foldl max 0
  if e = 0 then 0 else min 127 (max (-127) ((e : Int) - 128 - f.emax + ceilLog2 P))

/-- The payload's element format; an exchange of one participant sends nothing. -/
def payloadFmt (code P : Nat) : Option Fmt :=
  if P ≤ 1 then none
  else match code with
    | 1 => fmtOf 3
    | 2 => fmtOf 4
    | _ => none

/-- The 32-element scale block of a position. -/
def wireBlock (col : Bool) (p : Nat) : Nat := elemBlock col 2 (p / 64) (p % 64)

/-- The positions of a chunk in the pieces that are combined together, each with its block: 32-element scale blocks where the
payload has them. -/
def pieces (wire : Option Fmt) (col : Bool) (ps : List Nat) : List (Nat × List Nat) :=
  match wire, ps with
  | some _, _ :: _ => (sortNat (ps.map (wireBlock col))).map (fun j => (j, ps.filter (fun p => wireBlock col p = j)))
  | _, _ => [(0, ps)]

/-- The value that a payload brings for a piece, whose agreed scale exponent is `k`. -/
def loadValue (l : XLoad) (wire : Option Fmt) (k : Int) (q : Nat × List Nat) : XVal :=
  match wire with
  | none => ⟨q.2.map (fun p => ⟨posCode l.x p, FMap.get (fun _ => 0) l.lo p⟩), k, 0⟩
  | some f => decodeBlock f k (l.x.scales.getD q.1 127) (q.2.map (posCode l.x))

/-- A tile with codes at its positions: dense of a format, or a sparse block's records. -/
def Tile.carrying (x : Tile) (format : Nat) (vs : List (Nat × Nat)) (scales : List Nat) : Tile :=
  let h := { x.hdr with longSum := decide (format = 0), scaleBlk := if scales.isEmpty then 0 else 2 }
  if 0x10 ≤ x.hdr.format then
    { x with hdr := h, scales := scales, recs := x.recs.map (fun e =>
        { e with code := ((vs.find? (fun v => v.1 = e.pos)).map (fun v => v.2)).getD 0 }) }
  else { hdr := { h with format := format }, elems := FMap.setMany (fun _ => 0) [] vs, scales := scales }

/-- The payload in which a value of a chunk travels, from its pieces (R356): natively its pairs, on the distribution leg its values;
else its codes with their scales; and whether a scale was raised, and the flags of the encoding. -/
def loadOf (wire : Option Fmt) (code leg : Nat) (x : Tile) (rs : List ((Nat × List Nat) × XVal)) : XLoad × Bool × Flags :=
  match wire with
  | none =>
    let at_ (g : Pair → Nat) : List (Nat × Nat) := rs.flatMap (fun r => r.1.2.zip (r.2.pairs.map g))
    ({ x := x.carrying 0 (at_ (fun p => p.hi)) [], pair := leg != legResult
       lo := FMap.setMany (fun _ => 0) [] (at_ (fun p => p.lo)) }, false, 0)
  | some f =>
    let es := rs.map (fun r => (r.1, r.2.encode f))
    let scales := (List.range 128).map (fun j => ((es.find? (fun e => e.1.1 = j)).map (fun e => e.2.scale)).getD 127)
    ({ x := x.carrying code (es.flatMap (fun e => e.1.2.zip e.2.codes)) scales }, es.any (fun e => e.2.raised),
      es.foldl (fun a e => a ||| e.2.flags) 0)

/-! ## An instance (R354) -/

/-- The task view of an EXCHANGE or FENCE: these run without a journal entry of their own. -/
def State.looseTask (s : State) (course station typ : Nat) : Option Task :=
  match s.course course with
  | none => none
  | some c =>
    match c.station station with
    | none => none
    | some st =>
      if c.active && s.issuing && st.typ == typ then
        some ⟨looseKey, { course := course, station := station, tile := 0, engine := 4 }, c, st⟩
      else none

/-- The instance of an input port. -/
def Task.xkey (t : Task) (port : Nat) : XKey where
  step := t.c.step
  course := t.c.id
  station := t.st.id
  port := port

/-- The course counts a step as an exchange step (R363). -/
def Task.exchangeStep (t : Task) : Bool := decide ((t.c.step + 1) % max 1 (t.st.p 6 1) = 0)

/-- The other participants that need the device's tile `k` of X. -/
def State.xReceivers (s : State) (t : Task) (port k : Nat) (ps : List MeshEntry) : List Nat :=
  let me := selfDevice s.mesh
  let y := s.descOf (t.outId port)
  ((ps.map (fun e => e.device)).filter (fun d => d ≠ me)).filter (fun d =>
    t.st.p 0 1 ≠ 1 || holdsTile s.mesh d y k)

/-- An exchange channel. -/
def State.chan (s : State) (ch : Nat) : XChan := FMap.get (fun _ => {}) s.net.channels ch

/-- The header fields of exchange DATA (Table 13.4). -/
def State.xHeader (s : State) (t : Task) (port k leg : Nat) (veto rescaled : Bool) : DnHdr :=
  let ch := s.chan (t.st.p 5 1)
  { veto := veto, rescaled := rescaled, attempt := t.c.attempt, channel := t.st.p 5 1, leg := leg, epoch := t.c.epoch
    gen := s.genOf (t.inId port), xctx := k % 2 ^ 40 + t.st.id * 2 ^ 40 + ch.count % 16 * 2 ^ 60 }

/-- Write an exchange channel. -/
def State.setChan (s : State) (ch : Nat) (c : XChan) : State :=
  { s with net := { s.net with channels := FMap.set (fun _ => {}) s.net.channels ch c } }

/-- The device's tile of X of an index. -/
def State.xOwn (s : State) (t : Task) (port : Nat) (x : Tile) : List (Nat × Nat) × Flags × Nat :=
  if t.st.p 0 1 = 2 then ([], 0, 0) else s.ownPartials t port x

/-- The device's own contribution of a tile is non-finite (R357). -/
def State.xOwnVeto (s : State) (t : Task) (port : Nat) (x : Tile) : Bool := (s.xOwn t port x).1.any (fun v => !isFin32 v.2)

/-- What a device has handed on to this one for a chunk, on a leg. -/
def State.xGot (s : State) (t : Task) (port k leg dev : Nat) : Option XPart :=
  s.net.inbox.find? (fun p => decide (p.device = dev ∧ p.key = t.xkey port ∧ p.leg = leg ∧ p.load.x.hdr.index = k))

/-- Everything that has come for a chunk. -/
def State.xCame (s : State) (t : Task) (port k : Nat) : List XPart :=
  s.net.inbox.filter (fun p => decide (p.key = t.xkey port ∧ p.load.x.hdr.index = k))

/-- What the device does for a chunk with what has come (R352, R355): the payload of the pre-pass, what it hands on or, on the
distribution leg, sends to every receiver, with RESCALED; the chunk's result by position, once the device has it; its flags. -/
structure XRun where
  pre : Option XLoad := none
  turn : Option (Nat × Nat × XLoad × Bool) := none
  result : Option (FMap Nat) := none
  flags : Flags := 0

/-- The device's work on a chunk of a reduction, from its own tile. -/
def State.xRun (s : State) (t : Task) (port k : Nat) (ps : List MeshEntry) (x : Tile) : XRun :=
  let me := selfDevice s.mesh
  let tree := t.st.p 1 1 == 1
  let code := if t.st.p 3 1 = 1 then 3 else 4
  let wire := payloadFmt (t.st.p 3 1) ps.length
  let own := s.xOwn t port x
  let vals := FMap.setMany (fun _ => 0) [] own.1
  let shape := x.poisoned (s.poisons t.c x || (s.xCame t port k).any (fun p => s.poisons t.c p.load.x))
  let pcs := (pieces wire (s.descOf (t.outId port)).colOrder (partPositions x)).map (fun q =>
    (q, q.2.map (FMap.get (fun _ => 0) vals)))
  let bytes := pcs.map (fun q => prepassByte q.2)
  let pre : Option XLoad := wire.map (fun _ => { x := shape.carrying 0 [] [], bytes := bytes })
  let all := ps.map (fun e => if e.device = me then some bytes else (s.xGot t port k legPrepass e.device).map (fun p => p.load.bytes))
  if wire.isSome && all.any (fun b => b.isNone) then { pre := pre, flags := own.2.1 }
  else
    let k0 (i : Nat) : Int := match wire with
      | none => 0
      | some f => agreedScale f ps.length (all.filterMap (fun b => b.map (fun b => b.getD i 0)))
    let its := (List.range pcs.length).zip pcs
    let read (l : XLoad) : FMap Nat × Flags :=
      let vs := its.map (fun q => (q.2.1.2, loadValue l wire (k0 q.1) q.2.1))
      (FMap.setMany (fun _ => 0) [] (vs.flatMap (fun v => v.1.zip (v.2.pairs.map (fun p => p.hi)))),
        vs.foldl (fun a v => a ||| v.2.flags) 0)
    let turns := its.map (fun q => (q.2.1, turnOf tree ps me (fun leg d =>
      (s.xGot t port k leg d).map (fun p => loadValue p.load wire (k0 q.1) q.2.1)) (.ofValues q.2.2 (k0 q.1) 0)))
    let came := (s.xGot t port k legResult (formerOf tree ps)).map (fun p => read p.load)
    match turns.mapM (fun q => q.2.map (fun r => (q.1, r))) with
    | none => { pre := pre, flags := own.2.1 }
    | some rs =>
      let leg := (rs.map (fun r => r.2.leg)).headD 0
      let l := loadOf wire code leg shape (rs.map (fun r => (r.1, r.2.v)))
      let res := if leg = legResult then some (read l.1) else came
      { pre := pre, turn := some (leg, (rs.map (fun r => r.2.dst)).headD 0, l.1, l.2.1), result := res.map (fun r => r.1)
        flags := rs.foldl (fun a r => a ||| r.2.v.flags) (own.2.1 ||| l.2.2 ||| (res.map (fun r => r.2)).getD 0) }

/-- The runs of the device's tiles of X, by tile. -/
def State.xRuns (s : State) (t : Task) (port : Nat) (ps : List MeshEntry) : List (Tile × XRun) :=
  if t.st.p 0 1 = 2 then [] else (t.tiles port).map (fun x => (x, s.xRun t port x.hdr.index ps x))

/-- A payload holds a value that is not finite, as a value or as a block of scale NaN (R357). -/
def loadWild (l : XLoad) (code : Nat) : Bool :=
  let finite (c : Nat) : Bool := if l.x.hdr.longSum then isFin32 c else
    match fmtOf code with
    | none => true
    | some f => !((f.decode c).isNan || (f.decode c).isInf)
  l.x.scales.contains 255 || (partPositions l.x).any (fun p => !finite (posCode l.x p))

/-- The instance is vetoed as this device knows (R357): by its own partials, by VETO that came, or by a value that it formed. -/
def State.xVeto (s : State) (t : Task) (port : Nat) (ps : List MeshEntry) : Bool :=
  (t.tiles port).any (s.xOwnVeto t port)
    || s.net.inbox.any (fun p => decide (p.key = t.xkey port) && p.veto)
    || (s.xRuns t port ps).any (fun r => match r.2.turn with
      | some q => loadWild q.2.2.1 (if t.st.p 3 1 = 1 then 3 else 4)
      | none => false)

/-- What the device can send for the instance by now: tile, leg, device, payload and RESCALED. ALL_GATHER sends the tile itself. -/
def State.xSends (s : State) (t : Task) (port : Nat) (ps : List MeshEntry) : List (XSend × XLoad × Bool) :=
  let key := t.xkey port
  let others := (ps.map (fun e => e.device)).filter (fun d => d ≠ selfDevice s.mesh)
  if t.st.p 0 1 = 2 then
    (t.tiles port).flatMap (fun x => (s.xReceivers t port x.hdr.index ps).map (fun d =>
      (⟨key, x.hdr.index, legResult, d⟩, { x := x }, false)))
  else
    (s.xRuns t port ps).flatMap (fun r =>
      let k := r.1.hdr.index
      let pre := match r.2.pre with
        | none => []
        | some l => others.map (fun d => (⟨key, k, legPrepass, d⟩, l, false))
      let turn := match r.2.turn with
        | none => []
        | some (leg, dst, l, up) =>
          (if leg = legResult then s.xReceivers t port k ps else [dst]).map (fun d => (⟨key, k, leg, d⟩, l, up))
      pre ++ turn)

/-- Send what can be sent by now and has not been: VETO goes with every packet once the instance is vetoed. -/
def State.xAdvance (s : State) (t : Task) (port : Nat) (ps : List MeshEntry) : State :=
  let veto := s.xVeto t port ps
  let new := (s.xSends t port ps).filter (fun q => !s.net.xsent.contains q.1)
  let s := if veto then s.vetoQueued (t.xkey port) else s
  let s := { s with net := { s.net with xsent := s.net.xsent ++ new.map (fun q => q.1) } }
  new.foldl (fun (s : State) q =>
    s.sendData q.1.dst (s.xHeader t port q.1.tile q.1.leg veto q.2.2) (.part t.c.id t.st.id port veto q.2.1) (s.loadBytes q.2.1)) s

/-- The instance starts: its channel counts it, its peers get credit for it, and its first packets go out (R354). -/
def State.startInstance (s : State) (t : Task) (port : Nat) (ps : List MeshEntry) : State :=
  let ch := t.st.p 5 1
  let s := s.setChan ch { count := (s.chan ch).count + 1, current := some (t.xkey port) }
  let s := ((ps.map (fun e => e.device)).filter (fun d => d ≠ selfDevice s.mesh)).foldl (fun (s : State) d =>
    s.sendLoose d (.credit (some (t.c.id, t.st.id, port))) t.c.attempt) s
  s.xAdvance t port ps

/-- What the instance's channel runs: nothing, this instance, or another that has not left it. -/
def State.channelOf (s : State) (t : Task) : Option XKey :=
  (s.chan (t.st.p 5 1)).current

/-- The tile of X that a chunk of ALL_GATHER takes: the device's own, or what its holder sent. -/
def State.xHeld (s : State) (t : Task) (port k : Nat) (ps : List MeshEntry) : Option Tile :=
  match ps.find? (fun e => holdsTile s.mesh e.device (s.descOf (t.inId port)) k) with
  | none => none
  | some e =>
    if e.device = selfDevice s.mesh then t.tile? port k else (s.xGot t port k legResult e.device).map (fun p => p.load.x)

/-- The chunks that the device receives. -/
def State.xChunks (s : State) (t : Task) (port : Nat) : List Nat := s.heldTiles (s.descOf (t.outId port))

/-- Two sparse tiles carry the same index entry and record part (R350). -/
def sameRecords (a b : Tile) : Bool := a.records == b.records

/-- What has come for a chunk differs from the device's own tile in its records (R350). -/
def State.xDiffers (s : State) (t : Task) (port k : Nat) : Bool :=
  decide (t.st.p 0 1 ≠ 2) && (s.descOf (t.outId port)).sparse && (match t.tile? port k with
    | none => false
    | some x => (s.xCame t port k).any (fun p => !sameRecords x p.load.x))

/-- The device has handed on everything that it owes the instance and has every chunk that it receives. -/
def State.xReady (s : State) (t : Task) (port : Nat) (ps : List MeshEntry) : Bool :=
  (s.heldTiles (s.descOf (t.inId port))).all (fun k => !s.xDiffers t port k && (match t.tile? port k with
    | none => false
    | some x => decide (t.st.p 0 1 = 2) || (s.xRun t port k ps x).turn.isSome))
  && (s.xChunks t port).all (fun k =>
    if t.st.p 0 1 = 2 then (s.xHeld t port k ps).isSome
    else match t.tile? port k with
      | none => false
      | some x => (s.xRun t port k ps x).result.isSome)

/-- One chunk of an instance: its output tile, the weir's view, flags and veto; or the cause of a mismatch. -/
structure XOut where
  tile : Tile
  weir : Option WeirIn
  flags : Flags
  veto : Bool

/-- One chunk; a contribution with a GEN that is not expected is taken as poisoned (Table 4.6). -/
def State.xChunk (s : State) (t : Task) (port k : Nat) (ps : List MeshEntry) : Except Nat XOut :=
  let y := s.descOf (t.outId port)
  if t.st.p 0 1 = 2 then
    match s.xHeld t port k ps with
    | none => .error 0x01
    | some x =>
      let h := y.header (t.outId port) k (s.writeGenOf t.c (t.outId port)) t.c.epoch
      .ok { tile := { x with hdr := { h with format := x.hdr.format, poison := s.poisons t.c x } }, weir := none, flags := 0, veto := false }
  else if s.xDiffers t port k then .error 0x08
  else
    match t.tile? port k with
    | none => .error 0x01
    | some x =>
      let came := s.xCame t port k
      let run := s.xRun t port k ps x
      let vals := run.result.getD []
      let poison := s.poisons t.c x || came.any (fun p => s.poisons t.c p.load.x)
      let veto := s.xOwnVeto t port x || came.any (fun p => p.veto) || vals.any (fun v => !isFin32 v.2)
      let val (p : Nat) : Val := val32 (FMap.get (fun _ => 0) vals p)
      let conv := t.st.p (8 + port) 1
      let o := if y.sparse && decide (0x10 ≤ x.hdr.format) then
          s.convBlock t port conv k ⟨x.form, x.recs.foldl (fun m e => FMap.insert m e.pos (e.keep, e.new)) [], false⟩ val
        else s.convTile t port conv k (fun r c => val (64 * r + c))
      .ok { tile := o.1.poisoned poison, weir := some o.2.2, flags := run.flags ||| o.2.1, veto := veto }

/-- Replacements of the instance under QUARANTINE: counted and logged (R359). -/
def State.noteQuarantine (s : State) (t : Task) (port : Nat) : State :=
  let n := ((t.tiles port).map (fun x => (s.xOwn t port x).2.2)).foldl (· + ·) 0
  if n = 0 then s
  else (s.countReg ⟨.netXstat, 0, 0⟩ 63 32 n).logFor 0x0036 t.c.desc.func t.st.id n

/-- The veto of a step (R358). -/
def State.vetoCourse (s : State) (cid : Nat) : State :=
  match s.course cid with
  | none => s
  | some c => if c.stepMode then s.setCourse { c with veto := true } else s

/-- Flags of an exchange: the engines' register of a die and the course summary (R112, R113). -/
def State.exchangeFlags (s : State) (cid die : Nat) (fl : Flags) : State :=
  let r : Reg := ⟨.xeFlags, die, 0⟩
  let s := s.setReg r (s.reg r ||| BitVec.ofNat 64 (fl % 32))
  match s.course cid with
  | none => s
  | some c => s.setCourse { c with flags := c.flags ||| fl }

/-- A pair of ports is done: its station counts it, and the contributions it used free their buffers. -/
def State.endInstance (s : State) (t : Task) (port : Nat) : State :=
  let used := s.net.inbox.filter (fun p => p.key = t.xkey port)
  let s := { s with net := { s.net with
      inbox := s.net.inbox.filter (fun p => !(p.key = t.xkey port))
      xsent := s.net.xsent.filter (fun q => !(q.key = t.xkey port)) } }
  let s := used.foldl (fun (s : State) p => s.freeCredit p.device (s.loadBytes p.load)) s
  s.updStation t (fun q => { q with done := insertNat port q.done })

/-- A chunk tile that an accumulator takes back: (+0, +0) everywhere (R363). -/
def State.clearAcc (s : State) (t : Task) (port : Nat) : State :=
  if t.st.p 6 1 = 1 then s
  else
    let acc := t.st.p 12 3
    let d := s.descOf acc
    let x := s.descOf (t.inId port)
    ((s.heldTiles x).flatMap (fun k => sortNat [(accPlace x 0 k 0).1, (accPlace x 1 k 0).1])).foldl
      (fun (s : State) k => s.storeTile t.c acc k { hdr := d.header acc k 0 0 }) s

/-- The instance combines: outputs in ascending tile index, the veto, the quarantine's count and its flags. -/
def State.combineInstance (s : State) (t : Task) (port die : Nat) (ps : List MeshEntry) : State :=
  let outs := (s.xChunks t port).map (fun k => s.xChunk t port k ps)
  let veto := s.xVeto t port ps
  let fl := (s.xRuns t port ps).foldl (fun a r => a ||| r.2.flags) 0
  match ((s.xChunks t port).zip outs).findSome? (fun o => match o.2 with
    | .error c => some (c, o.1)
    | .ok _ => none) with
  | some c => s.haltSparse t (.output port) (t.outId port) c.1 c.2
  | none =>
    let good := outs.filterMap (fun o => match o with
      | .error _ => none
      | .ok x => some x)
    let ws := good.filterMap (fun o => o.weir)
    let agg := if t.st.p 0 1 = 2 then none else some ps.length
    s.guarded t agg (fun _ => false) (fun s =>
      if s.probing t ws then
        let s := (ws.filter (fun w => s.needsProbe t.c w.id)).foldl State.feedProbe s
        s.updStation t (fun q => { q with probed := insertNat port q.probed })
      else
        let s := ws.foldl (fun (s : State) w => s.feedWeir t.c w) s
        let s := s.emitTiles t (good.map (fun o => (port, o.tile)))
        let s := if veto || good.any (fun o => o.veto) then s.vetoCourse t.c.id else s
        let s := s.exchangeFlags t.c.id die (good.foldl (fun a o => a ||| o.flags) fl)
        let s := if t.st.p 4 1 = 1 then s.noteQuarantine t port else s
        (s.clearAcc t port).endInstance t port)

/-- A participant is reachable over a version 1 session only (R347). -/
def State.oldPeer (s : State) (ps : List MeshEntry) : Option Nat :=
  ((ps.map (fun e => e.device)).find? (fun d =>
    d ≠ selfDevice s.mesh && (s.session d).isOpen && (s.session d).version == 1))

/-- An instance leaves its channel once its outputs are out and every packet it sent is acknowledged (R354). -/
def State.leaveChannel (s : State) (ch : Nat) : State :=
  let c := s.chan ch
  match c.current with
  | none => s
  | some key =>
    let busy := s.net.sessions.any (fun q =>
      q.2.unacked.any (fun p => !p.hdr.device && decide (p.hdr.channel = ch))
        || q.2.queue.any (fun p => !p.1.device && decide (p.1.channel = ch)))
    let out := match (s.course key.course).bind (fun (x : Course) => x.station key.station) with
      | none => true
      | some st => st.done.contains key.port
    if busy || !out then s
    else s.setChan ch { c with current := none }

/-- The order of the instances of a channel (R354). -/
def XKey.before (a b : XKey) : Bool :=
  decide (a.step < b.step) || (decide (a.step = b.step) && (decide (a.course < b.course) || (decide (a.course = b.course)
    && (decide (a.station < b.station) || (decide (a.station = b.station) && decide (a.port < b.port))))))

/-- The instances of running courses that have still to run on a channel. -/
def State.instancesDue (s : State) (ch : Nat) : List XKey :=
  (s.courses.filter (fun c => c.active)).flatMap (fun c =>
    (c.stations.filter (fun st => decide (st.typ = stExchange ∧ st.p 5 1 = ch))).flatMap (fun st =>
      ((List.range st.inPorts).filter (fun p => !st.done.contains p && decide ((c.step + 1) % max 1 (st.p 6 1) = 0))).map
        (fun p => { step := c.step, course := c.id, station := st.id, port := p })))

/-- No instance of the channel comes before this one (R354). -/
def State.inChannelOrder (s : State) (t : Task) (port : Nat) : Bool :=
  (s.instancesDue (t.st.p 5 1)).all (fun k => !k.before (t.xkey port))

/-- EXCHANGE_INSTANCE on a port pair: start it when its channel is free and it is the channel's next, and combine once everything has come. -/
def State.exchangeInstance (s : State) (t : Task) (port die : Nat) : State :=
  if t.st.done.contains port || decide (t.st.inPorts ≤ port) then s
  else
    match s.readStop t, s.exchangeBad t with
    | some u, _ => u
    | none, some w => s.haltParam t .outputs w
    | none, none =>
      let ps := s.participants (t.st.p 2 1)
      let s := s.leaveChannel (t.st.p 5 1)
      if !t.exchangeStep then s
      else
        match (if t.st.p 3 1 = 0 then none else s.oldPeer ps) with
        | some d => s.haltParam t .outputs (0x10000 + d)
        | none =>
          let held := s.heldTiles (s.descOf (t.inId port))
          let own := held.all (fun k => (t.tile? port k).isSome)
          match s.channelOf t with
          | some key =>
            if key ≠ t.xkey port then s
            else
              match held.find? (s.xDiffers t port) with
              | some k => s.haltSparse t (.output port) (t.outId port) 0x08 k
              | none =>
                let s := s.xAdvance t port ps
                if s.xReady t port ps then s.combineInstance t port die ps else s
          | none =>
            if !own || !s.inChannelOrder t port then s
            else
              let send := s.poldersOf [t.inId port]
              match (if ps.length ≤ 1 then none
                else send.findSome? (fun p => (s.egressCause p false .portSend).map (fun c => (p, c)))) with
              | some d => s.denyTask t d
              | none =>
                let s := s.startInstance t port ps
                if s.xReady t port ps then s.combineInstance t port die ps else s

/-- EXCHANGE_ACCUMULATE on a port pair: the partials fold into the accumulator and nothing is sent (R363). -/
def State.exchangeAccumulate (s : State) (t : Task) (port die : Nat) : State :=
  if t.st.done.contains port || decide (t.st.inPorts ≤ port) then s
  else
    match s.readStop t, s.exchangeBad t with
    | some u, _ => u
    | none, some w => s.haltParam t .outputs w
    | none, none =>
      let x := s.descOf (t.inId port)
      let held := s.heldTiles x
      if t.exchangeStep || !held.all (fun k => (t.tile? port k).isSome) then s
      else match (if t.st.p 3 1 = 0 then none else s.oldPeer (s.participants (t.st.p 2 1))) with
      | some d => s.haltParam t .outputs (0x10000 + d)
      | none =>
        let acc := t.st.p 12 3
        let ids := sortNat (held.flatMap (fun k => [(accPlace x 0 k 0).1, (accPlace x 1 k 0).1]))
        let folds := (t.tiles port).flatMap (fun y => (partPositions y).map (fun p =>
          let v := s.partialAt y p
          let f := foldLong (s.accPair acc x y.hdr.index p) v.1
          (y.hdr.index, p, f.1, v.2 ||| f.2)))
        let tile (k : Nat) : Tile :=
          let old := match s.tensor acc with
            | some a => a.current acc k
            | none => {}
          let puts := folds.flatMap (fun f =>
            ([(accPlace x 0 f.1 f.2.1, f.2.2.1.hi), (accPlace x 1 f.1 f.2.1, f.2.2.1.lo)]).filterMap (fun q =>
              if q.1.1 = k then some (q.1.2, q.2) else none))
          { hdr := { (s.descOf acc).header acc k 0 0 with poison := (t.tiles port).any (fun y => s.poisons t.c y) }
            elems := FMap.setMany (fun _ => 0) old.elems puts }
        s.guarded t none (fun _ => false) (fun s =>
          let s := ids.foldl (fun (s : State) k => s.storeTile t.c acc k (tile k)) s
          (s.exchangeFlags t.c.id die (folds.foldl (fun a f => a ||| f.2.2.2) 0)).updStation t
            (fun q => { q with done := insertNat port q.done }))

end Sys2Proof.Machine
end

