-- ==== Sys2Proof/Machine/Route.lean ====
section
/-! DEFINITION. ROUTE (14.1 to 14.4): gate scores, candidates and selection under capacity, dispatch, combination and
redispatch. A ROUTE runs as one task. -/

namespace Sys2Proof.Machine

/-! ## Parameters (R368, R370, R374) -/

/-- What a ROUTE's parameters say (Table 14.2). -/
structure RoutePar where
  topk : Nat
  residual : Bool
  depth : Nat
  norm : Bool
  weighted : Bool
  stats : Bool
  experts : Nat
  cap : Nat

/-- The parameters of a station. -/
def Station.route (st : Station) : RoutePar where
  topk := st.p 2 1
  residual := st.p 3 1 == 1
  depth := st.p 4 1
  norm := (st.p 5 1).testBit 0
  weighted := (st.p 5 1).testBit 1
  stats := (st.p 5 1).testBit 2
  experts := st.p 8 4
  cap := st.p 12 4

/-- The first byte of the parameter block that breaks R368. The reserved bits of OUT_CONV are ignored outside DISPATCH
(Table 3.7). -/
def Station.routeBytesBad (st : Station) : Option Nat :=
  let mode := st.p 0 1
  let r := st.route
  failAt (decide (st.params.length ≠ 48 ∨ 2 < mode)) 0
    <|> failAt (decide (2 < st.p 1 1 ∨ (mode ≠ 0 ∧ st.p 1 1 ≠ 0))) 1
    <|> failAt (decide (r.topk ≠ 1 ∧ r.topk ≠ 2)) 2 <|> failAt (decide (1 < st.p 3 1)) 3
    <|> failAt (!r.residual && decide (r.depth < r.topk ∨ 16 < r.depth)) 4
    <|> failAt (decide (7 < st.p 5 1) || (r.weighted && decide (mode ≠ 2)) || (r.stats && decide (mode ≠ 0))) 5
    <|> failAt (decide (mode = 0 ∧ st.p 6 1 ≠ 0)) 6
    <|> failAt (!st.zero 7 8) 7 <|> failAt (decide (r.experts = 0 ∨ 4096 < r.experts)) 8
    <|> failAt (decide (r.cap % 64 ≠ 0 ∨ r.cap < 64 ∨ 2 ^ 20 < r.cap)) 12
    <|> ((List.range 4).findSome? (fun i =>
      failAt (!st.zero (19 + 4 * i) (20 + 4 * i) || (decide (mode ≠ 0) && !st.zero (16 + 4 * i) (19 + 4 * i)))
        (16 + 4 * i)))
    <|> failAt (!st.zero 35 36) 35 <|> failAt (!st.zero 36 48) 36

/-- The device's own group. -/
def State.ownGroup (s : State) (x : TensorDesc) : Nat :=
  let e := x.shards.getD (x.dims.length - 2) 0
  if shardKind e = 0 then 0 else coordOf s.mesh (selfDevice s.mesh) (shardAxis e)

/-- A tensor of shape (rows, cols) whose rows are sharded as those of `x`. -/
def rowsLike (d x : TensorDesc) (rows cols : Nat) : Bool :=
  d.dims == [rows, cols] && sameShard d 0 x 0

/-- Rows can be copied bit for bit between two tensors (R374). -/
def copyRowsOk (a b : TensorDesc) : Bool :=
  decide (a.format = b.format ∧ a.valueFormat = b.valueFormat ∧ a.scaleBlk = b.scaleBlk ∧ a.layout = b.layout)
    && !a.sparse && !a.colOrder && decide (a.scaleBlk ≤ 3) && !a.outerScaled

/-- A routing record tensor beside token rows. -/
def recordOk (q x : TensorDesc) (tokens : Nat) : Bool :=
  decide (q.format = 9) && rowsLike q x tokens 6 && decide (shardKind (q.shards.getD 1 0) = 0)

/-- The first byte or port of a ROUTE that breaks its rules. Input 0 of REDISPATCH takes any format that R374 lets it copy; with
WEIGHTED its values are decoded, so one without values is refused (log entry 119). -/
def State.routeBad (s : State) (t : Task) : Option Nat :=
  let st := t.st
  let r := st.route
  let a := s.descOf (t.inId 0)
  let b := s.descOf (t.inId 1)
  let y := s.descOf (t.outId 0)
  let z := s.descOf (t.outId 1)
  let slots (x : TensorDesc) : Nat := s.groups x * r.experts * r.cap
  let block (x : TensorDesc) : Bool := decide (x.dims.length = 2 ∧ shardKind (x.shards.getD 0 0) ≤ 1)
  st.routeBytesBad
    <|> failAt (decide (st.inPorts ≠ 2)) 0x101
    <|> failAt (decide (st.p 0 1 ≠ 0 ∧ st.outPorts ≠ 2)) (if st.outPorts < 2 then 0x201 else 0x202)
    <|> (match st.p 0 1 with
      | 0 =>
        failAt (decide (st.outPorts ≠ if r.stats then 3 else 2)) 5
          <|> failAt (!block b) 0x101
          <|> failAt (!rowsLike a b (b.dims.getD 0 0) r.experts || decide (shardKind (a.shards.getD 1 0) ≠ 0)
              || a.sparse || (fmtOf a.elemCode).isNone) 0x100
          <|> failAt (decide (2 ^ 32 < slots b)) 12
          <|> failAt (!rowsLike y b (slots b) (b.dims.getD 1 0) || !sameShard y 1 b 1 || !copyRowsOk b y) 0x200
          <|> failAt (!recordOk z b (b.dims.getD 0 0)) 0x201
          <|> (if !r.stats then none
            else
              let w := s.descOf (t.outId 2)
              failAt (w.dims != [s.groups b, r.experts, 2] || decide (w.format ≠ 0)
                || (decide (1 < s.groups b) && !sameShard w 0 b 0)) 0x202)
      | 1 =>
        failAt (!block y) 0x200
          <|> failAt (decide (2 ^ 32 < slots y)) 12
          <|> failAt (!recordOk b y (y.dims.getD 0 0)) 0x101
          <|> failAt (!rowsLike a y (slots y) (y.dims.getD 1 0) || !sameShard a 1 y 1 || a.sparse
              || (fmtOf a.elemCode).isNone) 0x100
          <|> failAt (y.sparse || (fmtOf y.elemCode).isNone) 0x200
      | _ =>
        failAt (!block a || (r.weighted && (a.sparse || (fmtOf a.elemCode).isNone))) 0x100
          <|> failAt (!recordOk b a (a.dims.getD 0 0)) 0x101
          <|> failAt (decide (2 ^ 32 < slots a)) 12
          <|> failAt (!rowsLike y a (slots a) (a.dims.getD 1 0) || !sameShard y 1 a 1
              || (if r.weighted then y.sparse || (fmtOf y.elemCode).isNone else !copyRowsOk a y)) 0x200)

/-! ## Gate scores (R369) -/

/-- The scores of a token from its logits, with flags. -/
def gateScores (gate L : Nat) (ls : List Nat) : List (Nat × Flags) :=
  match gate with
  | 0 =>
    let num := ls.filter (fun l => !isNan32 l)
    let m := num.foldl (fun a l => if lt32 a l then l else a) 0xFF800000
    if m = 0xFF800000 then ls.map (fun _ => (fp32Nan, 0))
    else
      let xs := ls.map (fun l =>
        if isNan32 l then ((none : Option Nat), (0 : Flags))
        else if m = fp32Inf then (some (if l = fp32Inf then 0x3F800000 else 0), 0)
        else
          let d := sub32 l m
          let e := VeFn.exp.run d.1
          (some e.1, d.2 ||| e.2))
      let sum := refSum 1 L ((xs.filterMap (fun x => x.1)).map (fun v => mkTerm (val32 v) valOne)) none none
      let rc := VeFn.rcp.run sum.1
      xs.map (fun x => match x.1 with
        | none => (fp32Nan, 0)
        | some v => let p := mul32 v rc.1; (p.1, x.2 ||| sum.2 ||| rc.2 ||| p.2))
  | 1 => ls.map (fun l => if isNan32 l then (fp32Nan, 0) else VeFn.sigmoid.run l)
  | _ => ls.map (fun l => (l, 0))

/-! ## Selection (R371 to R373) -/

/-- Put a candidate into rank order: score descending, then expert ascending. -/
def insertRanked (c : Nat × Nat) : List (Nat × Nat) → List (Nat × Nat)
  | [] => [c]
  | d :: ds =>
    if lt32 d.2 c.2 || (!lt32 c.2 d.2 && decide (c.1 < d.1)) then c :: d :: ds else d :: insertRanked c ds

/-- The candidates of a token by rank: pairs of expert and score. -/
def candidates (scores : List Nat) : List (Nat × Nat) :=
  (((List.range scores.length).zip scores).filter (fun c => !isNan32 c.2)).foldr insertRanked []

/-- An assigned pick: expert, global slot row and score. -/
structure Pick where
  expert : Nat
  row : Nat
  score : Nat

/-- The selection in progress: loads by expert, the picks of each token by round, and the counts. -/
structure Picking where
  loads : FMap Nat := []
  picks : List (Nat × Option Pick) := []
  fallbacks : Nat := 0
  passed : Nat := 0

/-- One pick of a token in round `j`. -/
def Picking.pick (r : RoutePar) (g j : Nat) (a : Picking) (tok : Nat × List (Nat × Nat)) : Picking :=
  let load (e : Nat) : Nat := FMap.get (fun _ => 0) a.loads e
  let mine := a.picks.filterMap (fun p => if p.1 = tok.1 then p.2.map (fun q => q.expert) else none)
  let free := (tok.2.take r.depth).filter (fun c => !mine.contains c.1)
  let choice : Option (Nat × Nat) :=
    if r.residual then (tok.2[j]?).bind (fun c => if load c.1 < r.cap then some c else none)
    else free.find? (fun c => load c.1 < r.cap)
  match choice with
  | none => { a with picks := a.picks ++ [(tok.1, none)], passed := a.passed + 1 }
  | some c =>
    { a with
      loads := FMap.set (fun _ => 0) a.loads c.1 (load c.1 + 1)
      picks := a.picks ++ [(tok.1, some ⟨c.1, g * r.experts * r.cap + c.1 * r.cap + load c.1, c.2⟩)]
      fallbacks := a.fallbacks + (if !r.residual && (free.head?).map (fun f => f.1) != some c.1 then 1 else 0) }

/-- The selection of a group (R372). -/
def selectExperts (r : RoutePar) (g : Nat) (toks : List (Nat × List (Nat × Nat))) : Picking :=
  (List.range r.topk).foldl (fun (a : Picking) j => toks.foldl (Picking.pick r g j) a) {}

/-- The picks of a token in round order. -/
def Picking.of (a : Picking) (tok : Nat) : List (Option Pick) :=
  (a.picks.filter (fun p => p.1 = tok)).map (fun p => p.2)

/-- The weights of a token's picks (R373), with flags: a passed pick has +0. -/
def pickWeights (norm : Bool) (L : Nat) (ps : List (Option Pick)) : List (Nat × Flags) :=
  let scores := ps.filterMap (fun p => p.map (fun q => q.score))
  let plain := ps.map (fun p => ((p.map (fun q => q.score)).getD 0, 0))
  if !norm then plain
  else
    let sum := refSum 1 L (scores.map (fun v => mkTerm (val32 v) valOne)) none none
    if abs32 sum.1 = 0 || !isFin32 sum.1 then plain.map (fun w => (w.1, sum.2))
    else
      let rc := VeFn.rcp.run sum.1
      ps.map (fun p => match p with
        | none => (0, 0)
        | some q => let w := mul32 q.score rc.1; (w.1, sum.2 ||| rc.2 ||| w.2))

/-! ## Rows -/

/-- The value at a row and column of a rank-2 operand on a port, as FP32. -/
def State.rowFp32 (s : State) (t : Task) (port r c : Nat) : Nat × Flags :=
  ofVal32 ((s.operand t port).at 0 r c)

/-- The code at a row and column of a rank-2 dense operand. -/
def State.rowCode (s : State) (t : Task) (port r c : Nat) : Nat :=
  match t.tile? port ((s.descOf (t.inId port)).tileIndex ⟨0, r / 64, c / 64⟩) with
  | none => 0
  | some x => x.at (r % 64) (c % 64)

/-- The scale of a row's block in a tile column. -/
def State.rowScale (s : State) (t : Task) (port r j c : Nat) : Nat :=
  let d := s.descOf (t.inId port)
  match t.tile? port (d.tileIndex ⟨0, r / 64, j⟩) with
  | none => 0x7F
  | some x => x.scales.getD (elemBlock false d.scaleBlk (r % 64) c) 0x7F

/-- A tile of a dispatch-layout tensor whose used rows copy token rows bit for bit (R374, R377): `src` gives the token
of a slot row. -/
def State.copiedTile (s : State) (t : Task) (port k : Nat) (src : Nat → Option Nat) (poison : Bool) : Tile :=
  let id := t.outId 0
  let d := s.descOf id
  let q := d.tilePos k
  let row (r : Nat) : Option Nat := src (64 * q.i + r)
  { hdr := { d.header id k (s.writeGenOf t.c id) t.c.epoch with poison := poison }
    elems := codesAt ((extentPos (d.extRows k) (d.extCols k)).filterMap (fun p =>
      (row p.1).map (fun tok => (p, s.rowCode t port tok (64 * q.j + p.2)))))
    scales := (List.range (scalesPerTile d.scaleBlk)).map (fun b =>
      let e := b * blockLen d.scaleBlk
      match row (e / 64) with
      | none => 0x7F
      | some tok => s.rowScale t port tok q.j (e % 64)) }

/-- A UINT32 or FP32 tile from codes by row and column. -/
def State.codeTile (s : State) (t : Task) (port k : Nat) (poison : Bool) (code : Nat → Nat → Nat → Nat) : Tile :=
  let id := t.outId port
  let d := s.descOf id
  let q := d.tilePos k
  { hdr := { d.header id k (s.writeGenOf t.c id) t.c.epoch with poison := poison }
    elems := codesAt ((extentPos (d.extRows k) (d.extCols k)).map (fun p =>
      (p, code q.lead (64 * q.i + p.1) (64 * q.j + p.2)))) }

/-- The tiles of both inputs that the device holds. -/
def State.routeNeeds (s : State) (t : Task) : List (Nat × Nat) :=
  [0, 1].flatMap (fun p => (s.heldTiles (s.descOf (t.inId p))).map (fun k => (p, k)))

/-! ## DISPATCH -/

/-- What a DISPATCH computes: the tokens with their scores, the selection, and the weights of each token. -/
structure Dispatch where
  scores : List (Nat × List (Nat × Flags))
  sel : Picking
  weights : List (Nat × List (Nat × Flags))

/-- The selection of the device's group. -/
def State.dispatch (s : State) (t : Task) (r : RoutePar) : Dispatch :=
  let x := s.descOf (t.inId 1)
  let L := 2 ^ t.c.reachLog2
  let toks := s.heldIndices x 0
  let scores := toks.map (fun tok =>
    let ls := (List.range r.experts).map (fun e => s.rowFp32 t 0 tok e)
    (tok, ((gateScores (t.st.p 1 1) L (ls.map (fun l => l.1))).zip ls).map (fun q => (q.1.1, q.1.2 ||| q.2.2))))
  let sel := selectExperts r (s.ownGroup x) (scores.map (fun q => (q.1, candidates (q.2.map (fun v => v.1)))))
  { scores := scores, sel := sel
    weights := toks.map (fun tok => (tok, pickWeights r.norm L (sel.of tok))) }

/-- A column of a token's routing record (R375). -/
def Dispatch.column (d : Dispatch) (tok c : Nat) : Nat :=
  match (d.sel.of tok)[c / 3]?, ((d.weights.find? (fun w => w.1 = tok)).map (fun w => w.2)).bind (fun w => w[c / 3]?) with
  | some (some p), some w => if c % 3 = 0 then p.expert else if c % 3 = 1 then p.row else w.1
  | _, _ => if c % 3 = 2 then 0 else 2 ^ 32 - 1

/-- The token that a slot row takes. -/
def Dispatch.source (d : Dispatch) (row : Nat) : Option Nat :=
  (d.sel.picks.find? (fun p => match p.2 with
    | some q => decide (q.row = row)
    | none => false)).map (fun p => p.1)

/-- The sum of an expert's scores over the group's tokens (R389). -/
def Dispatch.scoreSum (d : Dispatch) (L e : Nat) : Nat × Flags :=
  refSum 1 L (d.scores.map (fun q =>
    let v := (q.2.getD e (fp32Nan, 0)).1
    if isNan32 v then none else mkTerm (val32 v) valOne)) none none

/-- ROUTE_DISPATCH (R372): scores, selection, rows, records and statistics. -/
def execRouteDispatch (j : Nat) (s : State) : Host.Outcome State Fault Refusal :=
  s.runTask j stRoute (fun t =>
    if t.st.p 0 1 ≠ 0 ∧ t.st.p 0 1 ≤ 2 then s
    else
      match s.routeBad t with
      | some w => s.haltFormat t w
      | none =>
        let needs := s.routeNeeds t
        if !t.ready needs then s
        else
          let r := t.st.route
          let L := 2 ^ t.c.reachLog2
          let poison := s.poisonedIn t needs
          let d := s.dispatch t r
          let all := d.scores.flatMap (fun q => q.2)
          let xs := (s.heldTiles (s.descOf (t.outId 0))).map (fun k => (0, s.copiedTile t 1 k d.source poison))
          let qs := (s.heldTiles (s.descOf (t.outId 1))).map (fun k =>
            (1, s.codeTile t 1 k poison (fun _ tok c => d.column tok c)))
          let ws := if !r.stats then [] else (s.heldTiles (s.descOf (t.outId 2))).map (fun k =>
            (2, s.codeTile t 2 k poison (fun _ e c =>
              if c = 0 then (rn32Mag false (FMap.get (fun _ => 0) d.sel.loads e) 0).1 else (d.scoreSum L e).1)))
          let sums := if r.stats then (List.range r.experts).foldl (fun a e => a ||| (d.scoreSum L e).2) 0 else 0
          let fl := (d.weights.flatMap (fun w => w.2)).foldl (fun a w => a ||| w.2) (all.foldl (fun a v => a ||| v.2) sums)
          let s := s.updStation t (fun q => { q with diag := { q.diag with
            tokens := d.scores.length
            loads := d.sel.loads
            passed := d.sel.passed
            fallbacks := d.sel.fallbacks
            nans := FMap.set (fun _ => 0) [] 0 (all.filter (fun v => isNan32 v.1)).length
            maxLoad := (d.sel.loads.map (fun l => l.2)).foldl max 0 } })
          s.deliver t poison (xs ++ qs ++ ws) fl [])

/-! ## The routing record read back (R375) -/

/-- Where a column of a token's routing record lies: its tile and byte (R190). -/
def State.recordByte (s : State) (t : Task) (tok c : Nat) : Nat × Nat :=
  let d := s.descOf (t.inId 1)
  (d.tileIndex ⟨0, tok / 64, c / 64⟩, 4 * (if d.colOrder then 64 * (c % 64) + tok % 64 else 64 * (tok % 64) + c % 64))

/-- Pick `j` of a token: none where it passed; the place of a value that violates R375; or expert, row and weight. -/
def State.readPick (s : State) (t : Task) (r : RoutePar) (x : TensorDesc) (tok j : Nat) :
    Except (Nat × Nat) (Option Pick) :=
  let e := s.rowCode t 1 tok (3 * j)
  let row := s.rowCode t 1 tok (3 * j + 1)
  let w := s.rowCode t 1 tok (3 * j + 2)
  let lo := s.ownGroup x * r.experts * r.cap
  if e = 2 ^ 32 - 1 ∧ row = 2 ^ 32 - 1 then .ok none
  else if r.topk ≤ j ∨ r.experts ≤ e then .error (s.recordByte t tok (3 * j))
  else if row < lo ∨ lo + r.experts * r.cap ≤ row then .error (s.recordByte t tok (3 * j + 1))
  else .ok (some ⟨e, row, w⟩)

/-- The picks of the device's tokens, or a violation. -/
def State.readPicks (s : State) (t : Task) (r : RoutePar) (x : TensorDesc) :
    Except (Nat × Nat) (List (Nat × List (Option Pick))) :=
  let rows := (s.heldIndices x 0).map (fun tok => (tok, [0, 1].map (s.readPick t r x tok)))
  match rows.findSome? (fun q => q.2.findSome? (fun p => match p with
    | .error c => some c
    | .ok _ => none)) with
  | some c => .error c
  | none => .ok (rows.map (fun q => (q.1, q.2.map (fun p => match p with
      | .error _ => none
      | .ok y => y))))

/-- The routing record passed on unchanged. -/
def Task.passRecord (t : Task) : List (Nat × Tile) := (t.tiles 1).map (fun x => (1, x))

/-- The combined value of a token and column (R376), with flags. -/
def State.combinedAt (s : State) (t : Task) (L : Nat) (ps : List (Option Pick)) (c : Nat) : Nat × Flags :=
  let os := ps.filterMap (fun p => p.map (fun q => (q.score, s.rowFp32 t 0 q.row c)))
  let r := refSum 1 L (os.map (fun o => mkTerm (val32 o.1) (val32 o.2.1))) none none
  (if os.isEmpty then 0 else r.1, os.foldl (fun a o => a ||| o.2.2) r.2)

/-- ROUTE_COMBINE (R376): each token's weighted sum of its experts' outputs. -/
def execRouteCombine (j : Nat) (s : State) : Host.Outcome State Fault Refusal :=
  s.runTask j stRoute (fun t =>
    if t.st.p 0 1 ≠ 1 then s
    else
      match s.routeBad t with
      | some w => s.haltFormat t w
      | none =>
        let needs := s.routeNeeds t
        if !t.ready needs then s
        else
          let y := s.descOf (t.outId 0)
          match s.readPicks t t.st.route y with
          | .error c => s.haltSparse t (.input 1) (t.inId 1) 0x13 c.1 c.2
          | .ok ps =>
            let L := 2 ^ t.c.reachLog2
            let poison := s.poisonedIn t needs
            let at' (tok c : Nat) : Nat × Flags :=
              s.combinedAt t L (((ps.find? (fun p => p.1 = tok)).map (fun p => p.2)).getD []) c
            let xs := (s.heldTiles y).map (fun k =>
              let q := y.tilePos k
              let v (r c : Nat) : Nat × Flags := at' (64 * q.i + r) (64 * q.j + c)
              let x := s.convTile t 0 (t.st.p 6 1) k (fun r c => val32 (v r c).1)
              (x.1, x.2.1 ||| orFlags ((extentPos (y.extRows k) (y.extCols k)).map (fun p => v p.1 p.2)), x.2.2))
            s.deliver t poison (xs.map (fun x => (0, x.1)) ++ t.passRecord) (xs.foldl (fun a x => a ||| x.2.1) 0)
              (xs.map (fun x => x.2.2)))

/-- The token and weight of a slot row. -/
def rowSource (ps : List (Nat × List (Option Pick))) (row : Nat) : Option (Nat × Nat) :=
  ps.findSome? (fun q => q.2.findSome? (fun p => match p with
    | some k => if k.row = row then some (q.1, k.score) else none
    | none => none))

/-- ROUTE_REDISPATCH (R377): token rows, weighted where the station says so, into the dispatch layout. -/
def execRouteRedispatch (j : Nat) (s : State) : Host.Outcome State Fault Refusal :=
  s.runTask j stRoute (fun t =>
    if t.st.p 0 1 ≠ 2 then s
    else
      match s.routeBad t with
      | some w => s.haltFormat t w
      | none =>
        let needs := s.routeNeeds t
        if !t.ready needs then s
        else
          let r := t.st.route
          match s.readPicks t r (s.descOf (t.inId 0)) with
          | .error c => s.haltSparse t (.input 1) (t.inId 1) 0x13 c.1 c.2
          | .ok ps =>
            let poison := s.poisonedIn t needs
            let y := s.descOf (t.outId 0)
            if !r.weighted then
              let xs := (s.heldTiles y).map (fun k =>
                (0, s.copiedTile t 0 k (fun row => (rowSource ps row).map (fun q => q.1)) poison))
              s.deliver t poison (xs ++ t.passRecord) 0 []
            else
              let xs := (s.heldTiles y).map (fun k =>
                let q := y.tilePos k
                let v (r c : Nat) : Nat × Flags :=
                  match rowSource ps (64 * q.i + r) with
                  | none => (0, 0)
                  | some z =>
                    let f := s.rowFp32 t 0 z.1 (64 * q.j + c)
                    let m := mul32 z.2 f.1
                    (m.1, f.2 ||| m.2)
                let x := s.convTile t 0 (t.st.p 6 1) k (fun r c => val32 (v r c).1)
                (x.1, x.2.1 ||| orFlags ((extentPos (y.extRows k) (y.extCols k)).map (fun p => v p.1 p.2)), x.2.2))
              s.deliver t poison (xs.map (fun x => (0, x.1)) ++ t.passRecord) (xs.foldl (fun a x => a ||| x.2.1) 0)
                (xs.map (fun x => x.2.2)))

end Sys2Proof.Machine
end

