-- ==== Sys2Proof/Machine/Expert.lean ====
section
/-! DEFINITION. Experts of grouped stations that another device owns (14.6, 14.7): the choice between weight fetch and
token shipping, the expert cache, the work of an owner, answers, refusals and stale epochs. -/

namespace Sys2Proof.Machine

/-! ## The expert operand (R378, R379) -/

/-- The tiles of an expert's rows. -/
def expertTiles (d : TensorDesc) (E e : Nat) : List Nat :=
  let o := d.rows / max 1 E
  (List.range d.tileCount).filter (fun k => decide (64 * (d.tilePos k).i / max 1 o = e))

/-- The device that owns an expert: this one where it holds the rows, else the one along the sharding's axis that does. -/
def State.expertOwner (s : State) (d : TensorDesc) (E e : Nat) : Nat :=
  let me := selfDevice s.mesh
  let k := (expertTiles d E e).headD 0
  if s.holds d k then me
  else
    let ps := s.participants (2 ^ shardAxis (d.shards.getD 0 0))
    match ps.find? (fun p => holdsTile s.mesh p.device d k) with
    | some p => p.device
    | none => me

/-- The DISPATCH that gave a grouped station its loads, once its task has retired. -/
def Course.dispatchOf (c : Course) (st : Station) : Option Station :=
  c.stations.find? (fun q => (dispatchExperts q).any (fun x => decide (x.1 = c.groupTensor st)) && q.done.contains 0)

/-- Row bytes of the dense input: elements and scales (R380). -/
def rowBytes (d : TensorDesc) : Nat :=
  ceilDiv (d.cols * codeBits d.format) 8 + (if d.scaleBlk = 0 then 0 else ceilDiv d.cols (blockLen d.scaleBlk))

/-! ## The cache (R382) -/

/-- The die whose cache a station uses. -/
def Station.cacheDie (st : Station) : Nat := st.place.core / coresPerDie

/-- The generation number of a tensor, in full. -/
def State.genNoOf (s : State) (id : Nat) : Nat :=
  match s.tensor id with
  | some t => t.genNo
  | none => 0

/-- Entries of a tensor whose generation is no longer the generation read are discarded at a lookup. -/
def State.cleanCache (s : State) (id : Nat) : State :=
  { s with net := { s.net with cache := s.net.cache.filter (fun (e : CacheEntry) =>
      decide (e.tensor ≠ id ∨ e.gen = s.genNoOf id)) } }

/-- An expert's block in a die's cache. -/
def State.cached (s : State) (die id k : Nat) : Option Tile :=
  (s.cacheKept.find? (fun e => decide (e.die = die ∧ e.tensor = id ∧ e.x.hdr.index = k))).map (fun e => e.x)

/-! ## The choice between the schemes (R380) -/

/-- The bytes of a block of the generation read, less its index entry: as the die's cache holds it, else as its owner has it, which
no rule brings to this device before the block itself comes. -/
def State.blockBytes (s : State) (die id k : Nat) : Nat :=
  match s.cached die id k with
  | some x => ((s.descOf id).blockData x).length
  | none => Config.remoteBlockBytes id (s.genNoOf id) k

/-- B_w of R380. -/
def State.weightBytes (s : State) (die id E e : Nat) : Nat :=
  let d := s.descOf id
  let ks := expertTiles d E e
  if d.sparse then ks.foldl (fun n k => n + s.blockBytes die id k + 8) 0 else ks.length * d.slotBytes

/-- The ports whose tiles token shipping sends: the dense inputs, and where the third is there C or the candidate list. -/
def shipPorts (st : Station) : List Nat :=
  (if st.typ = stSddmm then [0, 1] else [0]) ++ (if st.inPorts = 3 then [2] else [])

/-- The tensors that token shipping sends. -/
def Course.shipTensors (c : Course) (st : Station) : List Nat := sortNat ((shipPorts st).map (c.inTensor st.id))

/-- The placer's first choice between the schemes (R380). A row of an SDDMM is one of each dense operand (log entry 120). -/
def State.wouldShip (s : State) (c : Course) (st : Station) (E e n : Nat) : Bool :=
  let row (p : Nat) : Nat := rowBytes (s.descOf (c.inTensor st.id p))
  let r := row 0 + (if st.typ = stSddmm then row 1 else 0)
  decide (c.ship ≠ 0) && decide (n * r * c.ship ≤ s.weightBytes st.cacheDie (c.groupTensor st) E e)

/-! ## Blocks into the cache -/

/-- A block enters a die's cache where CACHE_MIB leaves room for it. -/
def State.cacheBlock (s : State) (die id : Nat) (x : Tile) : State :=
  let s := s.trimCache
  let e : CacheEntry := { die := die, tensor := id, gen := s.genNoOf id, x := x }
  let n := s.cacheUsed s.net.cache die + s.cacheBytes e
  let above := (s.dmOf die).slots.any (fun q => decide (dmDataBytes < q.base + q.bytes + n))
  if (s.cached die id x.hdr.index).isNone && decide (n ≤ s.cacheRoom) && !above then
    { s with net := { s.net with cache := s.net.cache ++ [e] } }
  else s

/-! ## Requests -/

/-- Write a request. -/
def State.setRequest (s : State) (r : ExpertReq) : State :=
  let rest := s.net.requests.filter (fun (q : ExpertReq) => q.key ≠ r.key)
  { s with net := { s.net with requests := rest ++ [r] } }

/-- The request of a key. -/
def State.request (s : State) (k : ExpertKey) : Option ExpertReq := s.net.requests.find? (fun r => r.key = k)

/-- The header of expert traffic: the requester's EPOCH and the GEN of the expert operand (R384). -/
def State.expertHdr (s : State) (k : ExpertKey) (epoch attempt : Nat) : DnHdr :=
  { attempt := attempt, epoch := epoch, gen := s.genOf k.operand % 2 ^ 16, device := true }

/-- The warden refuses the port send of a tensor's data (R381, R484). -/
def State.sendRefused (s : State) (ids : List Nat) : Option (Nat × Nat) :=
  (s.poldersOf ids).findSome? (fun p => (s.egressCause p false .portSend).map (fun c => (p, c)))

/-- Both schemes are refused: the station's stream halts with POLICY_DENIED. -/
def State.denyExpert (s : State) (c : Course) (station : Nat) : State :=
  let s := s.logFor 0x0034 c.desc.func station 0x05
  s.haltCourse c.id station (.output 0) 0x0014 0

/-- An input tile's rows belong to the expert, along the token dimension of a tensor. -/
def tokenTiles (d : TensorDesc) (byCol : Bool) (E C e : Nat) (held : List Nat) : List Nat :=
  held.filter (fun k =>
    let p := d.tilePos k
    decide (64 * (if byCol then p.j else p.i) % max 1 (E * C) / max 1 C = e))

/-- The tiles that a device holds of those that token shipping sends on a port: the expert's rows of a dense input and of C, and
the whole candidate list. -/
def State.shipTiles (s : State) (c : Course) (st : Station) (E C e dev p : Nat) : List Nat :=
  let d := s.descOf (c.inTensor st.id p)
  let held := (List.range d.tileCount).filter (holdsTile s.mesh dev d)
  if p < 2 then tokenTiles d false E C e held
  else if st.typ = stSddmm then held
  else tokenTiles d (rowProdOf st (some (E, C))).swap E C e held

/-- The tiles that this device ships; a tensor that two ports read goes once. -/
def State.shippedRows (s : State) (c : Course) (st : Station) (E C e : Nat) : List (Nat × Nat) :=
  let ps := (shipPorts st).filter (fun p => !(shipPorts st).any (fun q =>
    decide (q < p ∧ c.inTensor st.id q = c.inTensor st.id p)))
  ps.flatMap (fun p => (s.shipTiles c st E C e (selfDevice s.mesh) p).map (fun k => (p, k)))

/-- A tile that has come on an input port of a station. -/
def Course.portTile (c : Course) (st : Station) (q : Nat × Nat) : Option Tile :=
  (c.inStream st.id q.1).bind (fun x => x.tiles.find? (fun t => t.hdr.index = q.2))

/-- Send a request: FETCH at once; SHIP, and the rows behind it, once they are there. A scheme that the own warden refuses gives
way to the other. -/
def State.sendRequest (s : State) (c : Course) (st : Station) (E C : Nat) (r : ExpertReq) : State :=
  let h := s.expertHdr r.key c.epoch c.attempt
  if !r.shipped then
    (s.setRequest { r with sent := true }).sendCtrl r.owner h (.fetch r.key)
  else
    match s.sendRefused (c.shipTensors st) with
    | some d =>
      let s := s.countDenial d.1 d.2
      if r.denied.contains false then s.denyExpert c st.id
      else (s.setRequest { r with shipped := false, sent := true, denied := true :: r.denied }).sendCtrl r.owner h
        (.fetch r.key)
    | none =>
      let rows := (s.shippedRows c st E C r.key.expert).map (c.portTile st)
      match rows.mapM (fun x => x) with
      | none => s.setRequest r
      | some xs =>
        let s := (s.setRequest { r with sent := true }).sendCtrl r.owner h (.ship r.key)
        xs.foldl (fun (s : State) x => s.sendData r.owner h (.rows r.key x) (s.payloadBytes x)) s

/-- A new request for an expert with tokens (R380): nothing is sent where the cache holds every block. -/
def State.askExpert (s : State) (c : Course) (st : Station) (E C e n : Nat) : State :=
  let id := c.groupTensor st
  let d := s.descOf id
  let owner := s.expertOwner d E e
  if owner = selfDevice s.mesh || n = 0 || (s.requestFor c st e).isSome then s
  else
    let s := s.cleanCache id
    let key : ExpertKey := { operand := id, expert := e, course := c.id, station := st.id }
    let r : ExpertReq := { key := key, owner := owner, shipped := s.wouldShip c st E e n }
    if r.shipped then s.sendRequest c st E C r
    else
      let got := (expertTiles d E e).map (s.cached st.cacheDie id)
      let miss := (got.filter Option.isNone).length
      if miss = 0 then s.setRequest { r with sent := true, done := true, blocks := got.filterMap (fun x => x) }
      else (s.countReg ⟨.expertStat, 0, 0⟩ 31 0 miss).sendRequest c st E C r

/-- The placer's requests for a course's grouped stations, as far as they can be made. -/
def State.pumpStation (s : State) (c : Course) (st : Station) : State :=
  match c.groupOf st, c.dispatchOf st with
  | some (E, C), some q =>
    (List.range E).foldl (fun (s : State) e =>
      match s.requestFor c st e with
      | none => s.askExpert c st E C e (FMap.get (fun _ => 0) q.diag.loads e)
      | some r => if r.sent then s else s.sendRequest c st E C r) s
  | _, _ => s

/-- The placer's requests for a course. -/
def State.pumpExperts (s : State) (cid : Nat) : State :=
  match s.course cid with
  | none => s
  | some c =>
    if c.active then (c.stations.filter (fun st => isProduct st.typ)).foldl (fun (s : State) st => s.pumpStation c st) s
    else s

/-! ## The owner (R384) -/

/-- Stale in 16-bit serial arithmetic (R385). -/
def staleEpoch (c e : Nat) : Bool :=
  let d := (c % 2 ^ 16 + 2 ^ 16 - e % 2 ^ 16) % 2 ^ 16
  decide (1 ≤ d ∧ d ≤ 32767)

/-- Newer in 16-bit serial arithmetic (R385). -/
def newerEpoch (c e : Nat) : Bool := decide (c % 2 ^ 16 ≠ e % 2 ^ 16) && !staleEpoch c e

/-- The epoch of a requester's work is older than its CANCEL. -/
def State.cancelledWork (s : State) (peer course epoch : Nat) : Bool :=
  s.net.cancels.any (fun q => decide (q.peer = peer ∧ q.course = course) && staleEpoch q.epoch epoch)

/-- Why blocks of an expert cannot be read for another device: an incomplete generation (R171), or a block that its bytes do
not give (R189): the cause, the tile and the byte. -/
def Tensor.unreadable (t : Tensor) (ks : List Nat) : Option (Nat × Nat × Nat) :=
  if t.incomplete then some (0x21, 0, 0) else ks.findSome? (fun k => (t.brokenAt k).map (fun v => (v.1, k, v.2)))

/-- An owner that cannot read an expert sends no answer: the course that it serves halts on this device, at the station's
output stream (log entry 95). -/
def State.haltServed (s : State) (k : ExpertKey) (v : Nat × Nat × Nat) : State :=
  match s.course k.course with
  | none => s
  | some c =>
    let a := violationArgs k.operand (s.genOf k.operand) v.2.1 v.2.2 v.1
    (s.logFor 0x0030 c.desc.func a.1 a.2).haltCourse c.id k.station (.output 0) (causeStatus v.1) v.1

/-- A FETCH: the expert's blocks of the generation read, then ANSWER_END; or DENY (R381, R484). -/
def State.serveFetch (s : State) (peer : Nat) (h : DnHdr) (k : ExpertKey) : State :=
  match s.tensor k.operand with
  | none => s
  | some t =>
    let hd := s.expertHdr k h.epoch h.attempt
    if s.cancelledWork peer k.course h.epoch then s
    else
      match s.sendRefused [k.operand] with
      | some d => (s.countDenial d.1 d.2).sendCtrl peer hd (.deny k)
      | none =>
        let grp := ((s.courses ++ s.copies).find? (fun (c : Course) => c.id = k.course)).bind (fun (c : Course) =>
          (c.expertOf k.operand).head?)
        let E := expertCount grp
        let ks := (expertTiles t.desc E k.expert).filter (s.holds t.desc)
        match t.unreadable ks with
        | some v => s.haltServed k v
        | none =>
        let xs := ks.map (fun i =>
          let x := t.current k.operand i
          { x with hdr := { x.hdr with gen := t.genNo % 2 ^ 16 } })
        let s := xs.foldl (fun (s : State) x => s.sendData peer hd (.block k x) (s.payloadBytes x)) s
        s.sendCtrl peer hd (.answerEnd k)

/-- A SHIP: the work waits for its rows (R384). -/
def State.serveShip (s : State) (peer : Nat) (h : DnHdr) (k : ExpertKey) : State :=
  if s.cancelledWork peer k.course h.epoch then s
  else
    let w : Served := { peer := peer, key := k, epoch := h.epoch, attempt := h.attempt }
    { s with net := { s.net with
        served := s.net.served.filter (fun (q : Served) => !(decide (q.peer = peer ∧ q.key = k))) ++ [w] } }

/-- The course as the owner runs a requester's rows through it: the port of the expert operand takes its own blocks. -/
def servedCourse (c : Course) (st : Station) (w : Served) (blocks : List Tile) : Course :=
  { c with streams := c.streams.map (fun (x : Stream) =>
      if x.cons ≠ st.id then x
      else if x.consPort = 1 && st.typ != stSddmm then { x with tiles := blocks }
      else { x with tiles := w.rows.filter (fun r => decide (r.hdr.tensor = x.tensor)) }) }

/-- Output tiles of the rows that came: those of the row tiles of the dense input. -/
def servedTiles (dOut dIn : TensorDesc) (swap : Bool) (rows : List Tile) (id : Nat) : List Nat :=
  let is := (rows.filter (fun x => x.hdr.tensor = id)).map (fun x =>
    let p := dIn.tilePos x.hdr.index
    (p.lead, p.i))
  (List.range dOut.tileCount).filter (fun k =>
    let p := dOut.tilePos k
    is.contains (p.lead, if swap then p.j else p.i))

/-- The rows of a shipped expert are all there: every tile that the requester holds of them. -/
def State.rowsComplete (s : State) (c : Course) (st : Station) (E C : Nat) (w : Served) : Bool :=
  !(s.shipTiles c st E C w.key.expert w.peer 0).isEmpty
    && (shipPorts st).all (fun p => (s.shipTiles c st E C w.key.expert w.peer p).all (fun k =>
      w.rows.any (fun x => decide (x.hdr.tensor = c.inTensor st.id p ∧ x.hdr.index = k))))

/-- The lowest free place of a die's journal (R21). -/
def State.freePlace (s : State) (die : Nat) : Option Nat :=
  let used := s.journal.filterMap (fun kv => if kv.1 / journalRoom = die ∧ kv.2.isSome then some (kv.1 % journalRoom) else none)
  ((List.range (used.length + 1)).find? (fun k => !used.contains k)).bind (fun k =>
    if k < journalRoom then some (die * journalRoom + k) else none)

/-- The ME that serves a requester's tile: the lowest in service of the station's core (log entry 120). -/
def State.serveMe (s : State) (core : Nat) : Nat :=
  ((List.range mePerCore).find? (fun i => !((s.core core).me i).oos)).getD 0

/-- The output tile of a shipped expert: its values in FP32, before any conversion; an SDDMM's with the form and the records of its
mask block. -/
def State.servedTile (s : State) (t : Task) : Tile × Flags :=
  if t.st.typ = stSddmm then
    match s.tensor (t.st.p 4 3) with
    | none => ({}, 0)
    | some m =>
      let x := s.sddmmTileOf t m
      let A := s.operand t 0
      let held := sortNat ((t.tiles 0).flatMap (fun y =>
        let i := (A.desc.tilePos y.hdr.index).i
        (List.range y.rows).map (fun r => 64 * i + r)))
      let v := s.sddmmValues t x held A (s.operand t 1)
      let y := s.partTile t 0 t.e.tile (fun r q => FMap.get (fun _ => 0) v.1 (64 * r + q))
      ({ y with form := x.mask.form, recs := x.mask.recs }, v.2)
  else
    let v := s.rowValues t (s.rowTask t)
    (s.partTile t 0 t.e.tile (fun r q => FMap.get (fun _ => 0) v.1 (64 * r + q)), v.2)

/-- The task of a requester's tile runs: its journal entry is written first; its flags join those of its engine and of its
course when it retires, the tile goes to the requester, and the entry is free again (R21, R112, R384). -/
def State.serveTile (s : State) (j : Nat) (c' : Course) (st : Station) (w : Served) (bad : Bool) (k : Nat) : State :=
  let out := c'.outTensor st.id 0
  let e : JEntry :=
    { course := c'.id, station := st.id, tile := k, attempt := w.attempt, outTensor := out, outGen := s.writeGenOf c' out
      core := st.place.core, index := s.serveMe st.place.core, step := if c'.stepMode then c'.step else 0 }
  let s := s.setEntry j (some e)
  let x := s.servedTile ⟨j, e, c', st⟩
  let y := x.1.poisoned bad
  let s := (s.mergeFlags e x.2).setEntry j none
  let s := match s.course c'.id with
    | none => s
    | some c => s.setCourse { c with flags := c.flags ||| x.2 }
  s.sendData w.peer (s.expertHdr w.key w.epoch w.attempt) (.answer w.key y) (s.payloadBytes y)

/-- The owner forms the output rows of a shipped expert and sends them back, then ANSWER_END; or DENY. Its tile tasks take
journal entries one after the other. -/
def State.answerShip (s : State) (c : Course) (st : Station) (E C j : Nat) (w : Served) : State :=
  let k := w.key
  let hd := s.expertHdr k w.epoch w.attempt
  let s := { s with net := { s.net with
    served := s.net.served.filter (fun (q : Served) => !(decide (q.peer = w.peer ∧ q.key = k))) } }
  match s.tensor k.operand with
  | none => s
  | some t =>
    match s.sendRefused (sortNat (k.operand :: c.sourceTensors st)) with
    | some d => (s.countDenial d.1 d.2).sendCtrl w.peer hd (.deny k)
    | none =>
      let ks := (expertTiles t.desc E k.expert).filter (s.holds t.desc)
      match t.unreadable ks with
      | some v => s.haltServed k v
      | none =>
      let blocks := ks.map (fun i =>
        let x := t.current k.operand i
        { x with hdr := { x.hdr with gen := t.genNo % 2 ^ 16 } })
      let c' := servedCourse c st w blocks
      let o := s.descOf (c.outTensor st.id 0)
      let outs := if st.typ = stSddmm then expertTiles o E k.expert
        else servedTiles o (s.descOf (c.inTensor st.id 0)) (rowProdOf st (some (E, C))).swap w.rows (c.inTensor st.id 0)
      let bad := w.rows.any (fun (x : Tile) => x.hdr.poison) || blocks.any (fun (x : Tile) => x.hdr.poison)
      (outs.foldl (fun (s : State) i => s.serveTile j c' st w bad i) s).sendCtrl w.peer hd (.answerEnd k)

/-- Shipped experts whose rows are all there are answered, while their course is here and the journal of their station's die
has room (R21). -/
def State.pumpServed (s : State) : State :=
  s.net.served.foldl (fun (s : State) w =>
    match s.course w.key.course with
    | none => s
    | some c =>
      match c.station w.key.station, c.expertOf w.key.operand with
      | some st, (E, C) :: _ =>
        match s.freePlace st.cacheDie with
        | some j => if s.rowsComplete c st E C w then s.answerShip c st E C j w else s
        | none => s
      | _, _ => s) s

/-- A shipped row tile arrives at the owner: its buffer frees at once. -/
def State.takeRows (s : State) (peer : Nat) (k : ExpertKey) (x : Tile) : State :=
  let s := s.freeCredit peer (s.payloadBytes x)
  { s with net := { s.net with served := s.net.served.map (fun (w : Served) =>
      if w.peer = peer ∧ w.key = k then { w with rows := w.rows ++ [x] } else w) } }

/-- The request that an owner's message answers. -/
def answerOf : NetMsg → Option ExpertKey
  | .block k _ | .answer k _ | .answerEnd k | .deny k => some k
  | _ => none

/-- A CANCEL: queued work of older epochs goes, with what of its answers has not been sent, and later work of such epochs is
dropped (R387). -/
def State.takeCancel (s : State) (peer : Nat) (h : DnHdr) (course : Nat) : State :=
  let q := s.session peer
  let s := s.setSession peer { q with queue := q.queue.filter (fun x => match answerOf x.2 with
    | some k => !(decide (k.course = course) && staleEpoch h.epoch x.1.epoch)
    | none => true) }
  let s := { s with net := { s.net with
    cancels := s.net.cancels.filter (fun (q : Cancelled) => !(decide (q.peer = peer ∧ q.course = course)))
      ++ [({ peer := peer, course := course, epoch := h.epoch } : Cancelled)] } }
  { s with net := { s.net with served := s.net.served.filter (fun (w : Served) =>
      !(decide (w.peer = peer ∧ w.key.course = course) && s.cancelledWork peer course w.epoch)) } }

/-! ## The requester -/

/-- An answer of a stale epoch: dropped, counted and logged, its buffer freed (R387). -/
def State.dropStale (s : State) (peer course bytes : Nat) : State :=
  let s := s.freeCredit peer bytes
  (s.countReg ⟨.expertStat, 0, 0⟩ 63 32 1).logFor 0x0035 deviceWide peer course

/-- An answer is stale: of an epoch older than its course's, or of a course that has gone. -/
def State.answerStale (s : State) (k : ExpertKey) (h : DnHdr) : Bool :=
  match s.course k.course with
  | none => true
  | some c => staleEpoch c.epoch h.epoch

/-- Change the open request of a key and peer. -/
def State.onRequest (s : State) (peer : Nat) (k : ExpertKey) (f : ExpertReq → ExpertReq) : State :=
  { s with net := { s.net with requests := s.net.requests.map (fun (r : ExpertReq) =>
      if r.key = k ∧ r.owner = peer ∧ !r.done then f r else r) } }

/-- A fetched block arrives: it goes to its request and to the cache of the station's die. -/
def State.takeBlock (s : State) (peer : Nat) (h : DnHdr) (k : ExpertKey) (x : Tile) : State :=
  if s.answerStale k h then s.dropStale peer k.course (s.payloadBytes x)
  else
    let s := (s.freeCredit peer (s.payloadBytes x)).onRequest peer k (fun r =>
      if r.shipped then r else { r with blocks := r.blocks ++ [x] })
    match (s.course k.course).bind (fun (c : Course) => c.station k.station) with
    | none => s
    | some st => if x.hdr.poison then s else s.cacheBlock st.cacheDie k.operand x

/-- An output tile of a shipped expert arrives. -/
def State.takeAnswer (s : State) (peer : Nat) (h : DnHdr) (k : ExpertKey) (x : Tile) : State :=
  if s.answerStale k h then s.dropStale peer k.course (s.payloadBytes x)
  else (s.freeCredit peer (s.payloadBytes x)).onRequest peer k (fun r =>
    if r.shipped then { r with answers := r.answers ++ [x] } else r)

/-- An answer ends: every route record of the course counts the expert (Table 14.5). -/
def State.endAnswer (s : State) (peer : Nat) (h : DnHdr) (k : ExpertKey) : State :=
  if s.answerStale k h then s.dropStale peer k.course 0
  else
    match s.request k, s.course k.course with
    | some r, some c =>
      if r.done || decide (r.owner ≠ peer) then s
      else
        let s := s.onRequest peer k (fun r => { r with done := true })
        s.setCourse { c with stations := c.stations.map (fun (q : Station) =>
          if q.typ = stRoute ∧ q.p 0 1 = 0 then
            { q with diag := { q.diag with
                fetched := q.diag.fetched + (if r.shipped then 0 else 1)
                shipped := q.diag.shipped + (if r.shipped then 1 else 0) } }
          else q) }
    | _, _ => s

/-- A DENY: the other scheme, or POLICY_DENIED where both are refused (R381). One that comes behind a shipped answer is dropped
as a duplicate: the first to arrive decides (Table 14.9). -/
def State.takeDeny (s : State) (peer : Nat) (h : DnHdr) (k : ExpertKey) : State :=
  if s.answerStale k h then s.dropStale peer k.course 0
  else
    match s.request k, s.course k.course with
    | some r, some c =>
      match c.station k.station with
      | none => s
      | some st =>
        if r.done || decide (r.owner ≠ peer) || !r.answers.isEmpty then s
        else if r.denied.contains (!r.shipped) then s.denyExpert c st.id
        else
          let r := { r with shipped := !r.shipped, sent := false, denied := r.shipped :: r.denied, blocks := [], answers := [] }
          match c.groupOf st with
          | some (E, C) => s.sendRequest c st E C r
          | none => s
    | _, _ => s

end Sys2Proof.Machine
end

