-- ==== Sys2Proof/Machine/RegAccess.lean ====
section
/-! DEFINITION. Host writes of set-up registers (R395, R503 to R505, R511), feature negotiation (15.7) and
the registers whose writes have a behaviour of their own. -/

namespace Sys2Proof.Machine

/-! ## The staging word -/

/-- The half of a register's value that waits in the function's staging word. -/
def State.stagedOf (s : State) (func : Nat) : Option Staged :=
  FMap.get (fun _ => none) s.regs.staged func

/-- Set or empty a function's staging word. -/
def State.setStaged (s : State) (func : Nat) (v : Option Staged) : State :=
  { s with regs := { s.regs with staged := FMap.set (fun _ => none) s.regs.staged func v } }

/-- An access to BAR0 by a function that does not complete its staged half: the half is discarded and a
host access fault is logged (R505). -/
def State.dropStaged (s : State) (func : Nat) : State :=
  match s.stagedOf func with
  | none => s
  | some g => (s.setStaged func none).hostAccessFault func (g.key % 0x4000000)

/-! ## Behaviour of single registers -/

/-- The accepted feature set as the eight words of DRV_FEATURES. -/
def State.drvFeatures (s : State) : List Nat :=
  (List.range 8).map (fun i => (s.reg ⟨.drvFeatures, i, 0⟩).toNat)

/-- Writing 1 to FEATURES_OK: DONE clears and the set as it stands is evaluated; after confirmation the
write is ignored and logged (R411). -/
def State.featuresOk (s : State) : State :=
  if s.featuresConfirmed then s.logFor 0x0005 0 (funcRequester 0) 0x140
  else
    let r : Reg := ⟨.featuresCtl, 0, 0⟩
    let s := s.setReg r (setBit (setBit (s.reg r) 0 true) 1 false)
    { s with host := { s.host with features := some s.drvFeatures } }

/-- A bit of a feature set given as eight words. -/
def featureBit (ws : List Nat) (b : Nat) : Bool := (ws.getD (b / 32) 0).testBit (b % 32)

/-- The lowest offending bit of a feature set and its KIND: a bit not offered, or, for bit 7, the conflict
of bits 2 and 7 (R412). -/
def featureFault (p : Part) (ws : List Nat) : Option (Nat × Nat) :=
  (List.range 256).findSome? (fun b =>
    if featureBit ws b then
      if !(offeredFeatures p).testBit b then some (b, 1)
      else if b = 7 && featureBit ws 2 then some (b, 2) else none
    else none)

/-- The resume image that Iluny's search found (R470): in the freeboard SRAM, or in a NOR slot. -/
def State.foundImage (s : State) : Option FreeImage :=
  match s.resume.found with
  | some 0 => s.resume.sram
  | some n => if !s.moduleReach then none else if n = 1 then s.resume.nor0 else s.resume.nor1
  | none => none

/-- The image is offered if its part number and its feature set match (R470). -/
def State.offerImage (s : State) (ws : List Nat) : State :=
  let ok := match s.foundImage with
    | some m => m.part == s.part && m.features == ws
    | none => false
  let r : Reg := ⟨.resumeStat, 0, 0⟩
  s.setReg r (setBit (s.reg r) 31 ok)

/-- The outcome of an evaluation (R411): confirmed with the set fixed, or refused with the lowest offending
bit in FIRST_BAD. -/
def State.evaluateFeatures (s : State) (ws : List Nat) : State :=
  let r : Reg := ⟨.featuresCtl, 0, 0⟩
  let s := { s with host := { s.host with features := none } }
  match featureFault s.part ws with
  | some (b, kind) => s.setReg r (setF (setF (setBit (setBit (s.reg r) 0 false) 1 true) 15 8 b) 17 16 kind)
  | none =>
    let s := (List.range 8).foldl
      (fun t i => t.setReg ⟨.drvFeatures, i, 0⟩ (BitVec.ofNat 64 (ws.getD i 0))) s
    (s.setReg r (setF (setF (setBit (setBit (s.reg r) 0 true) 1 true) 15 8 0) 17 16 0)).offerImage ws

/-- COMMIT: a write to COMMIT by a function; a VF's register write before confirmation is a host access
fault (R516). `against` is a contradicting order of the same control cycle (R416). A staged half waits on for its high half
(Table 20.18). -/
def execCommit (func mask : Nat) (against : Option Order) (s : State) :
    Host.Outcome State Fault Refusal :=
  .next (s.viaHost (fun (s : State) =>
    if func ≠ 0 && !s.featuresConfirmed then s.hostAccessFault func 0x100 else s.commit func mask against))

/-- FEATURES_OK: a write of 1 to FEATURES_OK. -/
def execFeaturesOk (s : State) : Host.Outcome State Fault Refusal :=
  .next (s.viaHost (fun (s : State) => (s.dropStaged 0).featuresOk))

/-- FEATURES_EVALUATE: the device evaluates the set that the last FEATURES_OK write took. -/
def execFeaturesEvaluate (s : State) : Host.Outcome State Fault Refusal :=
  match s.host.features with
  | none => .next s
  | some ws => .next (s.evaluateFeatures ws)

/-- Clear HALTED, DIR, CAUSE and the error address of a DMA channel; HALT_COUNT stands (Table 11.9). -/
def State.clearDma (s : State) (stat addr : Reg) : State :=
  (s.setReg stat (setF (setF (setBit (s.reg stat) 31 false) 30 30 0) 27 24 0)).setReg addr 0

/-- The two registers of a DMA channel: of a core, or of a die's system channels. -/
def dmaRegs (sys : Bool) (unit ch : Nat) : Reg × Reg :=
  if sys then (⟨.sysDmaStat, 32 * unit + ch, 0⟩, ⟨.sysDmaErrAddr, 32 * unit + ch, 0⟩)
  else (⟨.dmaStat, unit, ch⟩, ⟨.dmaErrAddr, unit, ch⟩)

/-- DMA_HALTED_CLEAR: writing 1 to HALTED of a channel returns it to service. `relatched` gives the cause,
direction and address of a bus error latched in the same cycle: HALTED then stays set (Table 11.12). -/
def execDmaHaltedClear (sys : Bool) (unit ch : Nat) (relatched : Option (Nat × Bool × Nat)) (s : State) :
    Host.Outcome State Fault Refusal :=
  .next (s.viaHost (fun (s : State) =>
    let r := dmaRegs sys unit ch
    let s := (s.dropStaged 0).clearDma r.1 r.2
    match relatched with
    | none => s
    | some (cause, write, addr) =>
      let v := setF (setBit (setBit (s.reg r.1) 31 true) 30 write) 27 24 cause
      ((s.setReg r.1 v).countReg r.1 15 0 1).setReg r.2 (BitVec.ofNat 64 addr)))

/-- Return an isolated port to service (R366); it counts violations afresh from the next window (Table 13.16). -/
def State.clearIsolated (s : State) (port : Nat) : State :=
  let r : Reg := ⟨.portStat, port, 0⟩
  if getBit (s.reg r) 31 then
    { s.setReg r (setBit (s.reg r) 31 false) with net := { s.net with fresh := insertNat port s.net.fresh } }
  else s

/-- ISOLATED_CLEAR: writing 1 to ISOLATED of PORT_STAT. -/
def execIsolatedClear (port : Nat) (s : State) : Host.Outcome State Fault Refusal :=
  .next (s.viaHost (fun (s : State) => (s.dropStaged 0).clearIsolated port))

/-- ILUNY_CAP_RELEASE: writing 1 to ILUNY_CAP of LEVEE_STAT; the cap goes at the next window (R434). -/
def execIlunyCapRelease (s : State) : Host.Outcome State Fault Refusal :=
  .next (s.viaHost (fun (s : State) => (s.dropStaged 0).releaseCap))

/-- SQ_HALTED_CLEAR: a write of 1 to HALTED of SQ_STAT by the function that owns the ring. -/
def execSqHaltedClear (ring : Nat) (s : State) : Host.Outcome State Fault Refusal :=
  .next (s.viaHost (fun (s : State) => (s.dropStaged (s.ringFunc ring)).resumeRing ring))

/-! ## Plain writes -/

/-- Merge written bits into a value under a mask. -/
def mergeBits (old new mask : Long) : Long := (old &&& ~~~mask) ||| (new &&& mask)

/-- Fields change as their access codes state (Table 0.5): RWS fields in the shadow, RW fields in place,
RW1C bits written 1 clear. `m` holds the bits that the access writes. -/
def State.writeFields (s : State) (r : Reg) (v m : Long) : State :=
  let rws := r.kind.mask .rws &&& m
  let s := if rws = 0 then s else s.setShadow r (mergeBits (s.shadowReg r) v rws)
  let rw := r.kind.mask .rw &&& m
  let w1c := r.kind.mask .rw1c &&& m &&& v
  if rw = 0 ∧ w1c = 0 then s else s.setReg r (mergeBits (s.reg r) v rw &&& ~~~w1c)

/-- A write of a register with the bits that the access writes: the registers with a behaviour of their
own act as their rows do, the others change their fields. -/
def State.writeReg (s : State) (func : Nat) (r : Reg) (v m : Long) : State :=
  match r.kind with
  | .commit => s.commit r.i (v &&& m).toNat none
  | .featuresCtl =>
    if s.featuresConfirmed then s.logFor 0x0005 func (funcRequester func) r.key
    else if getBit (v &&& m) 0 then s.featuresOk
    else s.writeFields r v m
  | .drvFeatures =>
    if s.featuresConfirmed then s.logFor 0x0005 func (funcRequester func) r.key
    else s.writeFields r v m
  | .sqStat => if getBit (v &&& m) 63 then s.resumeRing r.i else s
  | .portStat => if getBit (v &&& m) 31 then s.clearIsolated r.i else s
  | .leveeStat => if getBit (v &&& m) 63 then s.releaseCap else s
  | .memUeAddr => if getBit (v &&& m) 63 then s.setReg r 0 else s
  | .dmaStat => if getBit (v &&& m) 31 then s.clearDma r ⟨.dmaErrAddr, r.i, r.j⟩ else s
  | .sysDmaStat => if getBit (v &&& m) 31 then s.clearDma r ⟨.sysDmaErrAddr, r.i, 0⟩ else s
  | _ => s.writeFields r v m

/-- The register behind an offset of a function's BAR0, outside the shadow alias: rings that a VF map
covers are not reached through the PF (R508). -/
def State.regAt (s : State) (func off : Nat) : Option (Reg × RegHalf) :=
  if func = 0 then
    match pfRegAt s.part off with
    | some (r, h) =>
      match r.kind with
      | .sqBase | .cqBase | .sqCtl | .cqCtl | .sqStat | .cqStat =>
        if s.ringFunc r.i = 0 then some (r, h) else none
      | _ => some (r, h)
    | none => none
  else
    let m := s.vfMap func
    vfRegAt func m.1 m.2 off

/-- Where a function's BAR0 has its MSI-X table: first offset, bytes, and the key of its first word. -/
def msixRange (func : Nat) : Nat × Nat × Nat :=
  if func = 0 then (0x10000, 0x8000, 0) else (0x8000, 0x400, 0x2000 + 0x100 * func)

/-- The key of the MSI-X table word at an offset, where there is one. -/
def msixKey (func off : Nat) : Option Nat :=
  let m := msixRange func
  if m.1 ≤ off ∧ off < m.1 + m.2.1 ∧ off % 4 = 0 then some (m.2.2 + (off - m.1) / 4) else none

/-- The pending-bit array of a function's BAR0. -/
def msixPending (func off : Nat) : Bool :=
  if func = 0 then decide (0x18000 ≤ off ∧ off < 0x18100) else decide (0x9000 ≤ off ∧ off < 0x9008)

/-- Write one 32-bit word of the MSI-X table (R503). A vector that loses its mask sends the interrupt that waits for it. -/
def State.setMsix (s : State) (k v : Nat) : State :=
  let s := { s with regs := { s.regs with msix := FMap.set msixDefault s.regs.msix k (BitVec.ofNat 32 v) } }
  let e := k / 4 * 4
  if k % 4 = 3 && !s.msixMasked e && s.host.irqs.contains e then
    let f := if e < 0x2000 then 0 else (e - 0x2000) / 0x100
    ({ s with host := { s.host with irqs := s.host.irqs.filter (fun q => q ≠ e) } }).emit
      (.msix f ((if f = 0 then e else e % 0x100) / 4))
  else s

/-- A core's block is that of a retired core: every register but CORE_STAT reads 0 and ignores writes
(R511). -/
def State.inRetiredCore (s : State) (r : Reg) : Bool :=
  match r.kind with
  | .tqCount | .meStat | .meFlags | .veFlags | .ueFlags | .dmaStat | .dmaErrAddr => s.coreRetired r.i
  | _ => false

/-- The low 32 bits. -/
def lowMask : Long := 0xFFFFFFFF

/-- Bits 63:32. -/
def highMask : Long := 0xFFFFFFFF00000000

/-- A write of `size` bytes at an offset, when no staged half stands in the way. -/
def State.writeAt (s : State) (func off size value : Nat) (low : Option Nat) : State :=
  let fault := s.hostAccessFault func off
  if (size ≠ 4 ∧ size ≠ 8) ∨ off % size ≠ 0 then fault
  else
    match msixKey func off with
    | some k =>
      let s := s.setMsix k (value % 2 ^ 32)
      if size = 8 then s.setMsix (k + 1) (value / 2 ^ 32 % 2 ^ 32) else s
    | none =>
      if msixPending func off then s
      else if func ≠ 0 && !s.featuresConfirmed then fault
      else
        match s.regAt func off with
        | none => fault
        | some (r, half) =>
          if s.inRetiredCore r then s
          else if !r.kind.writable then fault
          else
            match half with
            | .whole =>
              if r.kind.wide then
                if size = 8 then s.writeReg func r (BitVec.ofNat 64 value) (lowMask ||| highMask)
                else s.setStaged func (some { key := r.key, low := value % 2 ^ 32 })
              else if size = 4 then s.writeReg func r (BitVec.ofNat 64 (value % 2 ^ 32)) lowMask
              else fault
            | .high =>
              if size = 8 then fault
              else
                match low with
                | some l =>
                  s.writeReg func r (BitVec.ofNat 64 (value % 2 ^ 32 * 2 ^ 32 + l)) (lowMask ||| highMask)
                | none => s.writeReg func r (BitVec.ofNat 64 (value % 2 ^ 32 * 2 ^ 32)) highMask

/-- The access is a 32-bit write of the high half of the register whose low half is staged. -/
def State.completesStaged (s : State) (func off size : Nat) (g : Staged) : Bool :=
  match s.regAt func off with
  | some (r, .high) => decide (r.key = g.key ∧ size = 4)
  | _ => false

/-- The access is a write of COMMIT. -/
def State.isCommit (s : State) (func off size : Nat) : Bool :=
  match s.regAt func off with
  | some (r, _) => r.kind == .commit && size == 4
  | none => false

/-- A register write by a function at an offset of its BAR0 (R395, R505): a staged low half is joined by
the write of its high half, waits on behind a COMMIT (Table 20.18), and is discarded with a host access fault by any other
access. -/
def State.hostWrite (s : State) (func off size value : Nat) : State :=
  match s.stagedOf func with
  | none => s.writeAt func off size value none
  | some g =>
    if s.completesStaged func off size g then
      (s.setStaged func none).writeAt func off size value (some g.low)
    else if s.isCommit func off size then s.writeAt func off size value none
    else (s.dropStaged func).writeAt func off size value none

/-- REG_WRITE: a host register write. -/
def execRegWrite (func off size value : Nat) (s : State) : Host.Outcome State Fault Refusal :=
  .next (s.viaHost (fun (s : State) => s.hostWrite func off size value))

/-- DEBUG_WINDOW_ACCESS: an access to the debug window. Closed, it is logged; open, a read delivers the
mapped tables, as State.debugRead has them, and a write is ignored (R397). Reads change nothing. A VF has no debug window. -/
def execDebugWindowAccess (write : Bool) (off : Nat) (s : State) : Host.Outcome State Fault Refusal :=
  let _ := write
  .next (s.viaHost (fun (s : State) => if s.debugOpen then s else s.hostAccessFault 0 off))

end Sys2Proof.Machine
end

