-- ==== Sys2Proof/Machine/VecTask.lean ====
section
/-! DEFINITION. The stations of the vector engines: VEC (10.2), ATTEND (10.7) and REDUCE (4.7). -/

namespace Sys2Proof.Machine

/-! ## VEC (R267 to R271, R280) -/

/-- A VEC program's instruction words. -/
def Station.vecProgram (st : Station) : List VeWord :=
  (List.range (st.p 4 2)).map (fun i => veDecode (st.p (144 + 8 * i) 8))

/-- PASSES of a VEC. -/
def Station.passes (st : Station) : Nat := st.p 1 1

/-- The VEC runs in 16-bit mode. -/
def Station.vecWide (st : Station) : Bool := decide (st.p 2 1 = 4)

/-- The instruction moves tiles of a tensor format that its mode does not take (R271). -/
def State.vecPortBad (s : State) (t : Task) (w : VeWord) : Bool :=
  let port := w.ins.imm % 4
  if w.opc = 0x0E then
    let d := s.descOf (t.inId port)
    t.st.vecWide && decide (d.format ≠ w.ins.typ ∨ d.scaleBlk ≠ 0)
  else if w.opc = 0x0F then t.st.vecWide && (fmtOf (s.descOf (t.outId port)).format).isNone
  else false

/-- What the log names of an instruction word: its first byte in the parameters, and the lowest bit of its field from bit 16 on
(R270). -/
def insAt (index field : Nat) : Nat := 144 + 8 * index + field * 2 ^ 16

/-- The first byte of a VEC's parameters, the instruction and field, or the port, that breaks R267 to R271. -/
def State.vecBad (s : State) (t : Task) : Option Nat :=
  let st := t.st
  let n := st.p 4 2
  let d := s.descOf (t.inId 0)
  let ws := st.vecProgram
  let same (e : TensorDesc) : Bool := e.dims == d.dims && e.shards == d.shards && !e.sparse
  failAt (decide (st.params.length ≠ 144 + 8 * n ∨ 1 < st.p 0 1)) 0
    <|> failAt (decide (st.p 1 1 = 0 ∨ 3 < st.p 1 1)) 1
    <|> failAt (decide (st.p 2 1 ≠ 2 ∧ st.p 2 1 ≠ 4)) 2
    <|> failAt (decide (st.p 3 1 ≠ 0)) 3 <|> failAt (decide (n = 0 ∨ 494 < n)) 4
    <|> failAt (!st.zero 10 16) 10
    <|> ((ws.zip (List.range n)).findSome? (fun q =>
        ((q.1.badField st.vecWide st.inPorts st.outPorts) <|> failAt (s.vecPortBad t q.1) 56).map (insAt q.2)))
    <|> ((ws.zip (List.range n)).findSome? (fun q => failAt (!slotsAgree (ws.take (q.2 + 1))) (insAt q.2 0)))
    <|> ((List.range st.outPorts).findSome? (fun i => failAt (!outputNamed ws i st.passes) (0x200 + i)))
    <|> ((List.range st.inPorts).findSome? (fun i => failAt (!same (s.descOf (t.inId i))) (0x100 + i)))
    <|> ((List.range st.outPorts).findSome? (fun i => failAt (!same (s.descOf (t.outId i))) (0x200 + i)))
    <|> failAt (decide (st.p 0 1 = 1) &&
        (s.shardedDim d (d.dims.length - 1) || decide (1 < st.p 1 1 ∧ 64 < d.tileCols))) 0

/-- The tiles of a VEC task: one, or a whole row of tiles (SCOPE ROW), named by its first. -/
def State.vecTiles (s : State) (t : Task) : List Nat :=
  let d := s.descOf (t.inId 0)
  if t.st.p 0 1 = 0 then [t.e.tile] else (List.range d.tileCols).map (fun j => t.e.tile + j)

/-- What a VEC task needs: its tiles on every input. -/
def State.vecNeeds (s : State) (t : Task) : List (Nat × Nat) :=
  (List.range t.st.inPorts).flatMap (fun i => (s.vecTiles t).map (fun k => (i, k)))

/-- The queue of a core that carries a stream. -/
def Stream.queueOn (x : Stream) (core : Nat) : Option Nat :=
  match x.buffer with
  | .queue n q => if n = core then some q else none
  | _ => none

/-- The VE at the start of a task: everything cleared (R269). -/
def State.vecStart (s : State) (t : Task) : VeRun where
  wide := t.st.vecWide
  reach := 2 ^ t.c.reachLog2
  seed := t.c.seed
  stepNo := t.c.step
  consts := (List.range 32).map (fun i => t.st.p (16 + 4 * i) 4)
  outSpecs := (List.range t.st.outPorts).map (fun i => s.convSpec t.c (t.outId i) (t.st.p (6 + i) 1))
  inQueues := (List.range t.st.inPorts).map (fun i => (t.c.inStream t.st.id i).bind (fun x => x.queueOn t.e.core))
  outQueues := (List.range t.st.outPorts).map (fun i => ((t.c.outStreams t.st.id i).head?).bind (fun x => x.queueOn t.e.core))
  gens := (List.range t.st.outPorts).map (fun i => s.writeGenOf t.c (t.outId i))
  epoch := t.c.epoch

/-- A VE with a tile's inputs before it. -/
def State.vecLoad (s : State) (t : Task) (k : Nat) (v : VeRun) : VeRun :=
  let ins := (List.range t.st.inPorts).map (fun i => (t.tile? i k).getD {})
  { v with inputs := ins, inCtx := ins.map s.ctxOf, tile := k, outs := [] }

/-- The output of a port as the weir sees it. -/
def VeRun.weirOf (v : VeRun) (port conv : Nat) (fl : Flags) : Option WeirIn :=
  let o := v.outSpecs.getD port { desc := {} }
  if (fmtOf o.desc.format).isNone then none
  else
    some { id := o.tensor, ovf := fl.testBit 0, grad := conv.testBit 0
           amax := amaxCode ((extentPos (o.desc.extRows v.tile) (o.desc.extCols v.tile)).map (fun p =>
             val32 (FMap.get (fun _ => 0) v.outs (4096 * port + 64 * p.1 + p.2)))) }

/-- A VEC task in work: the VE, the steps so far, and its tiles with flags and what the weir sees. -/
structure VecRun where
  v : VeRun
  steps : Nat := 0
  outs : List (Nat × Tile) := []
  flags : Flags := 0
  weir : List WeirIn := []

/-- One tile of a pass; the last pass emits. -/
def State.vecTile (s : State) (t : Task) (ws : List VeWord) (pass : Nat) (r : VecRun) (k : Nat) : VecRun :=
  let v := veTile ws pass t.st.passes r.steps (s.vecLoad t k r.v)
  let steps := r.steps + 64 / v.stepRows
  if pass + 1 = t.st.passes then
    let os := (List.range t.st.outPorts).map (fun i =>
      let x := v.output i (s.writeGenOf t.c (t.outId i)) t.c.epoch
      (i, x.1, x.2, v.weirOf i (t.st.p (6 + i) 1) x.2))
    { v := v, steps := steps, outs := r.outs ++ os.map (fun o => (o.1, o.2.1))
      flags := os.foldl (fun a o => a ||| o.2.2.1) r.flags, weir := r.weir ++ os.filterMap (fun o => o.2.2.2) }
  else { r with v := v, steps := steps }

/-- A whole VEC task (R269). -/
def State.vecRun (s : State) (t : Task) : VecRun :=
  let ws := t.st.vecProgram
  (List.range t.st.passes).foldl (fun r pass => (s.vecTiles t).foldl (s.vecTile t ws pass) r)
    { v := s.vecStart t }

/-- VEC_TASK (R269): the program sweeps its tiles; the VE keeps its registers until its next task. -/
def execVecTask (j : Nat) (s : State) : Host.Outcome State Fault Refusal :=
  s.runTask j stVec (fun t =>
    match s.vecBad t with
    | some w => s.haltFormat t w
    | none =>
      let needs := s.vecNeeds t
      if !t.ready needs then s
      else
        let r := s.vecRun t
        let s := s.setVe t.e.core t.e.index r.v
        s.deliver t (s.poisonedIn t needs) r.outs (r.flags ||| r.v.flags) r.weir)

/-! ## LDQ and STQ outside a task (R271, R280) -/

/-- The segments at the front of a queue, if they are whole: one bank, or both for a two-segment format. -/
def TileQueue.frontWords (q : TileQueue) : Option (List Nat × List Nat) :=
  let a := q.bank q.take
  let b := q.bank (!q.take)
  if a.state != .full then none
  else if !twoSegments a.header then some (a.header, a.words)
  else if b.state == .full then some (a.header, a.words ++ b.words) else none

/-- The tile that segments spell (R35, Table 1.4). -/
def tileOfWords (d : TensorDesc) (header words : List Nat) : Tile :=
  let h := TileHdr.ofNat (header.getD 0 0 + header.getD 1 0 * 2 ^ 64)
  let x := d.readImage h.tensor h.index h.gen h.epoch (words.flatMap (fun w => toLe 8 w))
  { x with hdr := h }

/-- LDQ takes the tile that its VE works on from the port's queue, where it stands at the front: the VE holds it for the later
steps and passes (R269, R280). -/
def State.veTake (s : State) (core ve port : Nat) : State :=
  let v := s.veRun core ve
  match v.inQueues.getD port none with
  | none => s
  | some q =>
    let k := s.queue core q
    match k.frontWords with
    | none => s
    | some w =>
      if k.frontIndex ≠ some v.tile then s
      else
        let x := tileOfWords (s.descOf (TileHdr.ofNat (w.1.getD 0 0)).tensor) w.1 w.2
        ((s.setQueue core q k.pop).setVe core ve
          { v with inputs := v.inputs.set port x, inCtx := v.inCtx.set port (s.ctxOf x) })

/-- A tile that STQ has finished goes into the port's queue, if that has room; else it stands before it (R280). -/
def State.veGive (s : State) (core ve port : Nat) : State :=
  let v := s.veRun core ve
  match v.outQueues.getD port none, v.sent.find? (fun x => decide (x.1 = port)) with
  | some q, some x =>
    let ss := x.2.segments (s.descOf x.2.hdr.tensor).colOrder
    if (s.queue core q).roomFor ss.length then
      (s.setQueue core q ((s.queue core q).push ss)).setVe core ve { v with sent := v.sent.erase x }
    else s
  | _, _ => s

/-- LDQ waits: its port is bound to a queue, whose front is not the tile that the VE works on, and the VE does not hold that tile
from an earlier step (R280). -/
def State.veWaits (s : State) (core ve port : Nat) : Bool :=
  let v := s.veRun core ve
  match v.inQueues.getD port none with
  | none => false
  | some q =>
    ((s.queue core q).frontWords.isNone || (s.queue core q).frontIndex != some v.tile)
      && !(v.inputs[port]?).any (fun x => x.hdr.index == v.tile)

/-- LDQ in a context of a VE. -/
def execVeLdq (core ve ctx : Nat) (i : VeIns) (s : State) : Host.Outcome State Fault Refusal :=
  .next (if !s.veExists core ve || s.veWaits core ve (i.imm % 4) then s
    else (s.veTake core ve (i.imm % 4)).veIssue core ve ctx veOpLdq i)

/-- STQ in a context of a VE. -/
def execVeStq (core ve ctx : Nat) (i : VeIns) (s : State) : Host.Outcome State Fault Refusal :=
  .next (if s.veExists core ve then (s.veIssue core ve ctx veOpStqTile i).veGive core ve (i.imm % 4) else s)

/-! ## ATTEND (R281, R282) -/

/-- What an ATTEND works on: its descriptions, reach length and scale. -/
structure Attend where
  q : TensorDesc
  k : TensorDesc
  v : TensorDesc
  o : TensorDesc
  L : Nat
  scale : Nat
  causal : Bool
  masked : Bool

/-- The ATTEND of a task. -/
def State.attend (s : State) (t : Task) : Attend where
  q := s.descOf (t.inId 0)
  k := s.descOf (t.inId 1)
  v := s.descOf (t.inId 2)
  o := s.descOf (t.outId 0)
  L := 2 ^ t.c.reachLog2
  scale := t.st.p 4 4
  causal := (t.st.p 0 1).testBit 0
  masked := (t.st.p 0 1).testBit 2

/-- The first byte of an ATTEND's parameters, or the port, that breaks R282 or the shapes of R281. -/
def State.attendBad (s : State) (t : Task) : Option Nat :=
  let st := t.st
  let a := s.attend t
  let n := a.q.dims.length
  let lead (d : TensorDesc) : Bool := d.leading == a.q.leading && d.shards.take (n - 2) == a.q.shards.take (n - 2)
  let lse := s.descOf (t.outId 1)
  let m := s.descOf (t.inId 3)
  failAt (decide (st.params.length ≠ 16 ∨ 8 ≤ st.p 0 1)) 0
    <|> failAt (decide ((st.p 0 1).testBit 1 ≠ decide (st.outPorts = 2))
        || decide ((st.p 0 1).testBit 2 ≠ decide (st.inPorts = 4))) 0
    <|> failAt (decide (st.p 2 1 ≠ 0)) 2
    <|> failAt (decide (st.p 3 1 ≠ 0)) 3 <|> failAt (!isFin32 (st.p 4 4)) 4 <|> failAt (!st.zero 8 16) 8
    <|> failAt (decide (a.q.rank < 2 ∨ 2 ^ 20 < a.q.rows ∨ 256 < a.q.cols) || badLayout a.q true || a.q.sparse) 0x100
    <|> failAt (decide (a.k.rank ≠ a.q.rank ∨ 2 ^ 20 < a.k.rows ∨ a.k.cols ≠ a.q.cols) || !lead a.k
        || s.shardedDim a.k (n - 2) || badLayout a.k true || a.k.sparse) 0x101
    <|> failAt (decide (a.v.rank ≠ a.q.rank ∨ a.v.rows ≠ a.k.rows ∨ 256 < a.v.cols) || !lead a.v
        || s.shardedDim a.v (n - 2) || badLayout a.v false || a.v.sparse) 0x102
    <|> failAt (a.masked && (m.dims != a.q.leading ++ [a.q.rows, a.k.rows] || decide (m.format ≠ 8)
        || s.shardedDim m n.pred)) 0x103
    <|> failAt (a.o.dims != a.q.leading ++ [a.q.rows, a.v.cols] || !lead a.o || a.o.sparse) 0x200
    <|> failAt ((st.p 0 1).testBit 1 && (lse.format != 0 ||
        (if n = 2 then lse.dims != [1, a.q.rows] else lse.dims != a.q.leading ++ [a.q.rows]))) 0x201

/-- The tiles that an ATTEND task for a row of query tiles needs. -/
def State.attendNeeds (s : State) (t : Task) : List (Nat × Nat) :=
  let a := s.attend t
  let p := a.o.tilePos t.e.tile
  let keys := List.range a.k.tileRows
  (List.range a.q.tileCols).map (fun c => (0, a.q.tileIndex ⟨p.lead, p.i, c⟩))
    ++ keys.flatMap (fun j => (List.range a.k.tileCols).map (fun c => (1, a.k.tileIndex ⟨p.lead, j, c⟩)))
    ++ keys.flatMap (fun j => (List.range a.v.tileCols).map (fun c => (2, a.v.tileIndex ⟨p.lead, j, c⟩)))
    ++ (if a.masked then
        keys.map (fun j => (3, (s.descOf (t.inId 3)).tileIndex ⟨p.lead, p.i, j⟩)) else [])

/-- The running state of one query row (R281): m, l and O as FP32 patterns, whether a key was included, and the
flags. -/
structure AttRow where
  m : Nat := 0xFF800000
  l : Nat := 0
  o : List Nat
  any : Bool := false
  flags : Flags := 0

/-- The code of an INT8 mask element. -/
def maskCode (M : Operand) (lead r c : Nat) : Nat :=
  match M.tile? (M.desc.tileIndex ⟨lead, r / 64, c / 64⟩) with
  | some x => x.1.at (r % 64) (c % 64)
  | none => 0

/-- The included keys of a key tile for a query row, ascending. -/
def Attend.keys (a : Attend) (M : Operand) (lead q j : Nat) : List Nat :=
  (List.range (min 64 (a.k.rows - 64 * j))).filterMap (fun i =>
    let k := 64 * j + i
    if (a.causal && decide (q < k)) || (a.masked && decide (maskCode M lead q k = 0)) then none else some k)

/-- The scaled score of a query row against a key. -/
def Attend.score (a : Attend) (Q K : Operand) (lead q k : Nat) : Nat × Flags :=
  let W := min a.q.window a.k.window
  let x := refSum W a.L ((List.range a.q.cols).map (fun i => mkTerm (Q.at lead q i) (K.at lead k i))) none none
  let y := mul32 a.scale x.1
  (y.1, x.2 ||| y.2)

/-- MAX of m and the scores (Table 4.8). -/
def attMax (m : Nat) (ss : List Nat) : Nat :=
  match ((m :: ss).foldl (fun b v => pickBest true b 0 v) none) with
  | some x => x.2
  | none => m

/-- The probabilities of a key tile's rows in V's element format, with block scales along the keys: rows of (key
within the tile, FP32 pattern) pairs to the decoded values by 64 × row + key. -/
def Attend.convertP (a : Attend) (rows : List (Nat × List (Nat × Nat))) : FMap Val × Flags :=
  let d : TensorDesc :=
    { rank := 2, format := a.v.format, valueFormat := a.v.valueFormat, scaleBlk := a.v.scaleBlk, shape := [64, 64]
      shard := [0, 0] }
  let vals : FMap Nat := FMap.setMany (fun _ => 0) [] (rows.flatMap (fun r => r.2.map (fun q => (64 * r.1 + q.1, q.2))))
  let x := ConvSpec.tile { desc := d } 0 0 0 (fun r c => val32 (FMap.get (fun _ => 0) vals (64 * r + c)))
  (rows.flatMap (fun r => r.2.map (fun q => (64 * r.1 + q.1, x.1.val {} r.1 q.1))), x.2)

/-- Steps 1 to 4 of R281 for one row and key tile: m′, α, the p_k by key, and l, with the flags; nothing where m′ is
−Inf. -/
def Attend.weights (a : Attend) (Q K M : Operand) (lead q j : Nat) (r : AttRow) :
    Bool × AttRow × Nat × List (Nat × Nat) :=
  let ks := a.keys M lead q j
  let ss := ks.map (fun k => (k, a.score Q K lead q k))
  let fl := ss.foldl (fun f x => f ||| x.2.2) r.flags
  let r := { r with any := r.any || !ks.isEmpty, flags := fl }
  let m' := attMax r.m (ss.map (fun x => x.2.1))
  if m' = 0xFF800000 then (false, r, 0, [])
  else
    let d := sub32 r.m m'
    let al := VeFn.exp.run d.1
    let ps := ss.map (fun x =>
      let e := sub32 x.2.1 m'
      let p := VeFn.exp.run e.1
      (x.1 - 64 * j, p.1, e.2 ||| p.2))
    let sum := refSum 1 a.L (ps.map (fun p => mkTerm (val32 p.2.1) valOne)) none none
    let l := fma32 r.l al.1 sum.1
    (true, { r with m := m', l := l.1, flags := ps.foldl (fun f p => f ||| p.2.2) (r.flags ||| d.2 ||| al.2 ||| sum.2 ||| l.2) },
      al.1, ps.map (fun p => (p.1, p.2.1)))

/-- Step 5 of R281 for one row: O with plain C = rn(α × O). -/
def Attend.product (a : Attend) (V : Operand) (lead j row : Nat) (P : FMap Val) (ks : List Nat) (al : Nat) (r : AttRow) :
    AttRow :=
  let W := a.v.window
  let os := (r.o.zip (List.range a.v.cols)).map (fun x =>
    let c := mul32 al x.1
    let y := refSum W a.L ((List.range 64).map (fun i =>
      if ks.contains i then mkTerm (FMap.get (fun _ => Val.zero) P (64 * row + i)) (V.at lead (64 * j + i) x.2) else none))
      (some c.1) none
    (y.1, c.2 ||| y.2))
  { r with o := os.map (fun o => o.1), flags := os.foldl (fun f o => f ||| o.2) r.flags }

/-- One key tile for every query row of the task. -/
def Attend.keyTile (a : Attend) (Q K V M : Operand) (lead i : Nat) (rs : List AttRow) (j : Nat) : List AttRow :=
  let ws := (rs.zip (List.range rs.length)).map (fun x => (x.2, a.weights Q K M lead (64 * i + x.2) j x.1))
  let P := a.convertP ((ws.filter (fun w => w.2.1)).map (fun w => (w.1, w.2.2.2.2)))
  ws.map (fun w =>
    if w.2.1 then
      let r := a.product V lead j w.1 P.1 (w.2.2.2.2.map (fun p => p.1)) w.2.2.2.1 w.2.2.1
      { r with flags := r.flags ||| P.2 }
    else w.2.2.1)

/-- The end of a row: O and LSE with the flags. -/
def AttRow.close (r : AttRow) : List Nat × Nat × Flags :=
  if !r.any then (r.o.map (fun _ => 0), 0xFF800000, r.flags)
  else
    let q := VeFn.rcp.run r.l
    let os := r.o.map (fun x => mul32 x q.1)
    let g := VeFn.log.run r.l
    let e := add32 r.m g.1
    (os.map (fun o => o.1), e.1, os.foldl (fun f o => f ||| o.2) (r.flags ||| q.2 ||| g.2 ||| e.2))

/-- Every row of an ATTEND task. -/
def State.attendRows (s : State) (t : Task) : List (List Nat × Nat × Flags) :=
  let a := s.attend t
  let p := a.o.tilePos t.e.tile
  let rows := a.o.extRows t.e.tile
  let start : AttRow := { o := List.replicate a.v.cols 0 }
  ((List.range a.k.tileRows).foldl
    (a.keyTile (s.operand t 0) (s.operand t 1) (s.operand t 2) (s.operand t 3) p.lead p.i)
    (List.replicate rows start)).map AttRow.close

/-- The LSE element of a query row: leading index, row and column of the LSE tensor. -/
def Attend.lsePlace (a : Attend) (lead q : Nat) : Nat × Nat × Nat :=
  let h := a.q.leading.getD (a.q.leading.length - 1) 1
  if a.q.leading.isEmpty then (0, 0, q) else (lead / h, lead % h, q)

/-- The task tiles that fill an LSE tile. -/
def State.lseSources (s : State) (a : Attend) (dS : TensorDesc) (u : Nat) : List Nat :=
  (s.heldTiles a.o).filter (fun k =>
    let p := a.o.tilePos k
    let q := a.lsePlace p.lead (64 * p.i)
    decide (p.j = 0) && decide (dS.tileIndex ⟨q.1, q.2.1 / 64, q.2.2 / 64⟩ = u))

/-- The first byte of a mask on a port that is neither 0x00 nor 0x01: its tile and its byte in the tile (R90). -/
def Task.maskBad (t : Task) (port : Nat) (col : Bool) : Option (Nat × Nat) :=
  (t.tiles port).findSome? (fun x => (x.elems.find? (fun q => decide (1 < q.2))).map (fun q =>
    (x.hdr.index, orderOf col (q.1 / 64) (q.1 % 64))))

/-- Output tiles of the products inside an ATTEND task: a score tile for each key tile, and one P·V tile for each tile column of
O beside it (R281). -/
def State.attendTiles (s : State) (t : Task) : Nat :=
  let a := s.attend t
  a.k.tileRows * (1 + a.o.tileCols)

/-- The banks that an ATTEND task's products take on their ME are IDLE (R150). -/
def State.attendBanks (s : State) (t : Task) : Bool :=
  let m := (s.core t.e.core).me t.e.index
  decide (t.e.engine ≠ 0) || ((m.bank m.nextB).state == .idle
    && (decide (s.attendTiles t ≤ 1) || (m.bank (!m.nextB)).state == .idle))

/-- The products of an ATTEND task have taken the banks in turn (R150). -/
def State.attendTurns (s : State) (t : Task) : State :=
  if t.e.engine ≠ 0 then s
  else
    let m := (s.core t.e.core).me t.e.index
    s.setMe t.e.core t.e.index { m with nextB := m.nextB != decide (s.attendTiles t % 2 = 1) }

/-- ATTEND_TASK (R281): one row of query tiles, named by its first output tile. -/
def execAttendTask (j : Nat) (s : State) : Host.Outcome State Fault Refusal :=
  s.runTask j stAttend (fun t =>
    match s.attendBad t with
    | some w => s.haltFormat t w
    | none =>
      let needs := s.attendNeeds t
      if !t.ready needs then s
      else match t.maskBad 3 (s.descOf (t.inId 3)).colOrder with
      | some p => s.haltInput t 3 p.1 p.2
      | none =>
        if !s.attendBanks t then s
        else
          let s := s.attendTurns t
          let a := s.attend t
          let p := a.o.tilePos t.e.tile
          let rows := s.attendRows t
          let poison := s.poisonedIn t needs
          let xs := (List.range a.o.tileCols).map (fun c =>
            s.convTile t 0 (t.st.p 1 1) (t.e.tile + c) (fun r k =>
              val32 (((rows.getD r ([], 0, 0)).1).getD (64 * c + k) 0)))
          let fl := rows.foldl (fun f r => f ||| r.2.2) (xs.foldl (fun f x => f ||| x.2.1) 0)
          let outs := xs.map (fun x => (0, x.1))
          let ws := xs.map (fun x => x.2.2)
          if !(t.st.p 0 1).testBit 1 then s.deliver t poison outs fl ws
          else
            let dS := s.descOf (t.outId 1)
            let o := t.st.side.take dS t.e.tile poison ((rows.zip (List.range rows.length)).map (fun r =>
              (a.lsePlace p.lead (64 * p.i + r.2), r.1.2.1)))
            let side := s.sideTiles t 1 o (s.lseSources a dS)
            s.guarded t none (fun _ => false) (fun s =>
              if s.probing t ws then s.probeTask t ws
              else ((s.updStation t (fun q => { q with side := o })).deliver t poison outs fl ws).emitTiles t side))

/-! ## REDUCE (R137 to R139) -/

/-- The first byte of a REDUCE's parameters, or the port, that breaks R137 or R138. Which byte stands for a wrong PARAMS_LEN (0) and
for too long an extent (3, DIM) no rule says (log entry 118). -/
def State.reduceBad (s : State) (t : Task) : Option Nat :=
  let st := t.st
  let kind := st.p 0 1
  let x := s.descOf (t.inId 0)
  let y := s.descOf (t.outId 0)
  let across := decide (st.p 1 1 = 0)
  let dim := st.p 3 1 + (if x.rank = 1 then 1 else 0)
  let m := (st.p 5 1).testBit 0
  let arg := decide (kind = 7 ∨ kind = 8)
  failAt (decide (st.params.length ≠ 16 ∨ 8 < kind)) 0 <|> failAt (decide (1 < st.p 1 1)) 1
    <|> failAt (across && !([0, 3, 4, 5, 6].contains kind)) 0
    <|> failAt (across && decide (1 < st.p 2 1)) 2
    <|> failAt (!across && decide (x.rank ≤ st.p 3 1)) 3
    <|> failAt (decide (1 < st.p 5 1) || (across && m) || (!across && decide (st.inPorts ≠ if m then 2 else 1))) 5
    <|> failAt (!st.zero 6 16) 6
    <|> failAt (across && y.dims != x.dims) 0x200
    <|> (if across then (List.range st.inPorts).findSome? (fun i =>
        failAt ((s.descOf (t.inId i)).dims != x.dims || decide (0 < i) && indexFormat (s.descOf (t.inId i)).format) (0x100 + i))
      else none)
    <|> failAt (!across && y.dims != x.dims.set dim (if arg then 2 else 1)) 0x200
    <|> failAt (arg && decide (2 ^ 32 - 1 ≤ x.dims.getD dim 0)) 3
    <|> failAt (arg && y.format != 9) 0x200
    <|> failAt (m && ((s.descOf (t.inId 1)).dims != x.dims || (s.descOf (t.inId 1)).format != 8)) 0x101

/-- The index of `dims` that a REDUCE ALONG reduces. -/
def State.reduceDim (s : State) (t : Task) : Nat :=
  t.st.p 3 1 + (if (s.descOf (t.inId 0)).rank = 1 then 1 else 0)

/-- The input index list of an output index list at position `k` of the reduced dimension. -/
def alongIndex (d : TensorDesc) (dim : Nat) (idx : List Nat) (k : Nat) : Nat × Nat × Nat :=
  let x := idx.set dim k
  let n := x.length
  (((x.take (n - 2)).zip d.leading).foldl (fun a q => a * q.2 + q.1) 0, x.getD (n - 2) 0, x.getD (n - 1) 0)

/-- The global indices of an output position. -/
def TensorDesc.indexOf (d : TensorDesc) (k r c : Nat) : List Nat :=
  let p := d.tilePos k
  leadIndices d.leading p.lead ++ [64 * p.i + r, 64 * p.j + c]

/-- The held indices along the reduced dimension. -/
def State.reduceKeys (s : State) (t : Task) : List Nat := s.heldIndices (s.descOf (t.inId 0)) (s.reduceDim t)

/-- What a REDUCE task needs. -/
def State.reduceNeeds (s : State) (t : Task) : List (Nat × Nat) :=
  let x := s.descOf (t.inId 0)
  if t.st.p 1 1 = 0 then (List.range t.st.inPorts).map (fun i => (i, t.e.tile))
  else
    let y := s.descOf (t.outId 0)
    let dim := s.reduceDim t
    let n := x.dims.length
    let base := y.tilePos t.e.tile
    let lead := leadIndices y.leading base.lead
    let ks := s.reduceKeys t
    let tiles :=
      if dim + 2 < n then ks.map (fun k =>
        x.tileIndex ⟨((lead.set dim k).zip x.leading).foldl (fun a q => a * q.2 + q.1) 0, base.i, base.j⟩)
      else
        let ts := sortNat (ks.map (fun k => k / 64))
        if dim + 2 = n then ts.map (fun q => x.tileIndex ⟨base.lead, q, base.j⟩)
        else ts.map (fun q => x.tileIndex ⟨base.lead, base.i, q⟩)
    (List.range t.st.inPorts).flatMap (fun i => tiles.map (fun k => (i, k)))

/-- The combination of partials across ports (R138): the value and the flags. -/
def acrossOf (kind order : Nat) (ps : List Nat) : Nat × Flags :=
  let sum := if order = 0 then chainSum ps else treeSum ps
  match kind with
  | 0 => sum
  | 3 =>
    let m := meanOf sum.1 ps.length
    (m.1, sum.2 ||| m.2)
  | _ =>
    match redKindOf kind with
    | some k => let r := reduceList k 4096 0 (ps.map some); (r.1, r.2.2)
    | none => (0, 0)

/-- ACROSS: an element of the output tile; a position that a sparse input does not store is a +0 partial (log entry
87). -/
def State.acrossElem (s : State) (t : Task) (r c : Nat) : Nat × Flags :=
  let xs := (List.range t.st.inPorts).map (fun i =>
    let o := s.operand t i
    match o.tile? t.e.tile with
    | some x => ofVal32 ((valueAt x.1 x.2 o.desc.valueFormat r c).getD Val.zero)
    | none => (0, 0))
  let y := acrossOf (t.st.p 0 1) (t.st.p 2 1) (xs.map (fun x => x.1))
  (y.1, y.2 ||| orFlags xs)

/-- ALONG: the terms of an output index, ascending, with their global index; a masked one is absent, and so is one outside a
sparse block's mask (log entry 87). -/
def State.alongTerms (s : State) (t : Task) (X M : Operand) (idx : List Nat) : List (Nat × Option Val) :=
  let masked := (t.st.p 5 1).testBit 0
  let dim := s.reduceDim t
  (s.reduceKeys t).map (fun k =>
    let p := alongIndex X.desc dim idx k
    let on := !masked || (match M.tile? (M.desc.tileIndex ⟨p.1, p.2.1 / 64, p.2.2 / 64⟩) with
      | some x => decide (x.1.at (p.2.1 % 64) (p.2.2 % 64) ≠ 0)
      | none => false)
    (k, if on then X.at? p.1 p.2.1 p.2.2 else none))

/-- The sum kinds along a dimension, windows by global index (R132, R138). -/
def State.alongSum (s : State) (t : Task) (X : Operand) (kind : Nat) (part : Bool) (ts : List (Nat × Option Val)) :
    Nat × Flags :=
  let _ := s
  let sq := decide (kind = 1 ∨ kind = 2)
  let ws := (ts.splitBy (fun a b => a.1 / X.desc.window == b.1 / X.desc.window)).map (fun w =>
    windowSum (w.map (fun q => match q.2 with
      | some v => mkTerm v (if sq then v else valOne)
      | none => none)))
  let x := sumOver (2 ^ t.c.reachLog2) ws none none part
  match kind with
  | 2 => let n := normOf x.1; (n.1, x.2 ||| n.2)
  | 3 =>
    let n := meanOf x.1 (ts.filter (fun q => q.2.isSome)).length
    (n.1, x.2 ||| n.2)
  | _ => x

/-- The other kinds along a dimension: the value and the global index. -/
def alongPick (kind : Nat) (ts : List (Nat × Option Val)) : Nat × Nat × Flags :=
  match redKindOf kind with
  | none => (0, 0, 0)
  | some k =>
    let r := ts.foldl (fun (a : RedState × Flags) q =>
      match q.2 with
      | none => a
      | some v => let x := ofVal32 v; (a.1.add k 4096 q.1 (some x.1), a.2 ||| x.2)) ({}, 0)
    let y := r.1.result k
    (y.1, y.2.1, y.2.2 ||| r.2)

/-- ALONG: an element of the output with the number of its terms. -/
def State.alongElem (s : State) (t : Task) (X M : Operand) (part : Bool) (r c : Nat) : Nat × Flags × Nat :=
  let y := s.descOf (t.outId 0)
  let kind := t.st.p 0 1
  let idx := y.indexOf t.e.tile r c
  let ts := s.alongTerms t X M idx
  let n := (ts.filter (fun q => q.2.isSome)).length
  if kind ≤ 3 then
    let x := s.alongSum t X kind part ts
    (x.1, x.2, n)
  else
    let x := alongPick kind ts
    (if (kind = 7 ∨ kind = 8) ∧ idx.getD (s.reduceDim t) 0 = 1 then x.2.1 else x.1, x.2.2, n)

/-- A REDUCE's elements by position, with flags and the least number of terms. -/
def State.reduceElems (s : State) (t : Task) (part : Bool) : List ((Nat × Nat) × (Nat × Flags × Nat)) :=
  let y := s.descOf (t.outId 0)
  let X := s.operand t 0
  let M := s.operand t 1
  (extentPos (y.extRows t.e.tile) (y.extCols t.e.tile)).map (fun p =>
    (p, if t.st.p 1 1 = 0 then let x := s.acrossElem t p.1 p.2; (x.1, x.2, t.st.inPorts)
        else s.alongElem t X M part p.1 p.2))

/-- The contributors that the warden counts (R482). -/
def reduceAgg (kind : Nat) (xs : List ((Nat × Nat) × (Nat × Flags × Nat))) : Option Nat :=
  if kind ≤ 3 then xs.foldl (fun m x => some (match m with
    | none => x.2.2.2
    | some n => min n x.2.2.2)) none
  else none

/-- REDUCE_TASK (R138): one output tile. -/
def execReduceTask (j : Nat) (s : State) : Host.Outcome State Fault Refusal :=
  s.runTask j stReduce (fun t =>
    match s.reduceBad t with
    | some w => s.haltFormat t w
    | none =>
      let needs := s.reduceNeeds t
      let kind := t.st.p 0 1
      if !t.ready needs then s
      else match (if (t.st.p 5 1).testBit 0 then t.maskBad 1 (s.descOf (t.inId 1)).colOrder else none) with
      | some p => s.haltInput t 1 p.1 p.2
      | none =>
        let part := decide (t.st.p 1 1 = 1 ∧ kind ≤ 1) && s.shardedDim (s.descOf (t.inId 0)) (s.reduceDim t)
        let xs := s.reduceElems t part
        let vals := codesAt (xs.map (fun x => (x.1, x.2.1)))
        let fl := xs.foldl (fun f x => f ||| x.2.2.1) 0
        let poison := s.poisonedIn t needs
        let agg := reduceAgg kind xs
        let k := t.e.tile
        let v (r c : Nat) : Nat := FMap.get (fun _ => 0) vals (64 * r + c)
        if part then s.deliver t poison [(0, s.partTile t 0 k v)] fl [] agg
        else if kind = 7 ∨ kind = 8 then
          let d := s.descOf (t.outId 0)
          s.deliver t poison [(0, { hdr := d.header (t.outId 0) k (s.writeGenOf t.c (t.outId 0)) t.c.epoch
                                    elems := vals })] fl []
        else
          let x := s.convTile t 0 (t.st.p 4 1) k (fun r c => val32 (v r c))
          s.deliver t poison [(0, x.1)] (fl ||| x.2.1) [x.2.2] agg)

end Sys2Proof.Machine
end

