-- ==== Sys2Proof/Machine/Tasks.lean ====
section
/-! DEFINITION. The life of a tile task: which tasks a station has on this device, what each needs, issue with its
gating (R21, R430), retirement (R112), the journal (R452 to R455), core retirement (R456), hangs (R44), the closing of
stations and streams (Table 2.6), probe steps (R262), bus errors (R312), and the placer's moves (R82, R432). -/

namespace Sys2Proof.Machine

/-! ## The tasks of a station -/

/-- A task of a station that has not been issued. -/
def taskOf (c : Course) (st : Station) (tile : Nat) : Task :=
  ⟨looseKey, { course := c.id, station := st.id, tile := tile }, c, st⟩

/-- The first condition on its parameters and tensors that a station breaks. -/
def State.stationBad (s : State) (t : Task) : Option Nat :=
  match t.st.typ with
  | 0x01 => s.loadBad t
  | 0x02 => s.storeBad t
  | 0x03 => s.gatherBad t
  | 0x04 => s.scatterBad t
  | 0x05 | 0x06 | 0x07 | 0x08 | 0x09 => s.productBad t
  | 0x0A => s.vecBad t
  | 0x0B => s.attendBad t
  | 0x0C => s.reduceBad t
  | 0x0E => s.routeBad t
  | 0x0F => if t.st.p 0 1 = 5 then s.clipBad t else s.updateBad t
  | 0x10 | 0x11 => s.maskBad t
  | 0x12 => s.histBad t
  | 0x13 => s.rngBad t
  | 0x14 => t.gaugeBad
  | _ => none

/-- The station's first task halts its stream, whatever tiles come. -/
def State.paramsBroken (s : State) (t : Task) : Bool := (s.stationBad t).isSome

/-- The first tile of each row of tiles. -/
def firstOfRows (d : TensorDesc) (ks : List Nat) : List Nat := ks.filter (fun k => k % max 1 d.tileCols = 0)

/-- The destination tiles of a SCATTER_ACC: until its list is there, all it holds; then those that the list names, and
tile 0 where an entry is a violation. -/
def State.scatterTiles (s : State) (t : Task) : List Nat :=
  let d := s.descOf (t.st.p 2 3)
  let n := (s.descOf (t.inId 1)).dims.getD 0 0
  if !t.ready (listNeeds 1 n) then s.heldTiles d
  else
    let es := t.coordList 1 n
    if es.any (entryBad d.tileCount (fun _ => true)) then [0]
    else (s.heldTiles d).filter (fun k => es.any (fun e => decide (coordOfEntry e = k)))

/-- The tiles that a station computes on this device; ports of an EXCHANGE. -/
def State.ownTiles (s : State) (t : Task) : List Nat :=
  let c := t.c
  let st := t.st
  let out := s.descOf (t.outId 0)
  let inp := s.descOf (t.inId 0)
  match st.typ with
  | 0x01 => s.loadTiles c st
  | 0x02 => s.storeTiles c st
  | 0x03 => List.range (inp.dims.getD 0 0)
  | 0x04 => s.scatterTiles t
  | 0x05 | 0x06 | 0x07 | 0x08 | 0x09 | 0x0C | 0x13 => s.heldTiles out
  | 0x0A => if st.p 0 1 = 1 then firstOfRows inp (s.heldTiles inp) else s.heldTiles inp
  | 0x0B => firstOfRows out (s.heldTiles out)
  | 0x0D => List.range st.inPorts
  | 0x0E => [0]
  | 0x0F => if st.p 0 1 = 5 then s.heldTiles out else s.sliceTiles (s.descOf (st.p 4 3))
  | 0x10 | 0x11 => s.maskUnits (s.descOf st.maskJob.target) st.maskJob.scope
  | 0x12 => s.maskUnits (s.descOf st.histJob.target) st.histJob.scope
  | 0x14 => s.heldTiles inp
  | _ => []

/-- The EXCHANGEs of a course whose step accumulates (R363). -/
def Course.accumulating (c : Course) : List Nat :=
  (c.stations.filter (fun st => decide (st.typ = stExchange ∧ (c.step + 1) % max 1 (st.p 6 1) ≠ 0))).map (fun st => st.id)

/-- The stations that some stations feed with tiles. -/
def Course.fedBy (c : Course) (ids : List Nat) : List Nat :=
  sortNat ((c.streams.filter (fun x => ids.contains x.prod)).map (fun x => x.cons))

/-- The stations that receive no tile in an accumulation step and have no task in it: those that an accumulating EXCHANGE feeds, and
those that they feed (R363). -/
def Course.unfed (c : Course) : List Nat :=
  match c.accumulating with
  | [] => []
  | ids => (List.range c.stations.length).foldl (fun seen _ => sortNat (seen ++ c.fedBy seen)) (c.fedBy ids)

/-- The tasks of a station on this device; one task finds a broken parameter where there is no tile. -/
def State.taskTiles (s : State) (c : Course) (st : Station) : List Nat :=
  let t := taskOf c st 0
  if c.unfed.contains st.id then []
  else match s.ownTiles t with
  | [] => if s.paramsBroken t then [0] else []
  | ks => ks

/-- The tiles that a task needs: pairs of port and tile index. -/
def State.taskNeeds (s : State) (t : Task) : List (Nat × Nat) :=
  match t.st.typ with
  | 0x02 | 0x14 => [(0, t.e.tile)]
  | 0x03 => listNeeds 0 ((s.descOf (t.inId 0)).dims.getD 0 0)
  | 0x04 => t.scatterNeeds ((s.descOf (t.inId 1)).dims.getD 0 0)
  | 0x05 | 0x06 | 0x07 | 0x09 => s.rowNeeds t
  | 0x08 => s.sddmmNeeds t
  | 0x0A => s.vecNeeds t
  | 0x0B => s.attendNeeds t
  | 0x0C => s.reduceNeeds t
  | 0x0D => (s.heldTiles (s.descOf (t.inId t.e.tile))).map (fun k => (t.e.tile, k))
  | 0x0E => s.routeNeeds t
  | 0x0F => if t.st.p 0 1 = 5 then [(0, t.e.tile)] else s.updateNeeds t
  | 0x10 | 0x11 => s.maskNeeds t
  | 0x12 => s.histNeeds t
  | _ => []

/-- The tasks of a station that have not retired. -/
def State.openTasks (s : State) (c : Course) (st : Station) : List Nat :=
  (s.taskTiles c st).filter (fun k => !st.done.contains k)

/-! ## Stations and streams close (Table 2.6, R58, R59) -/

/-- Every input stream of a station is drained. -/
def Course.inputsDrained (c : Course) (st : Station) : Bool :=
  (c.streams.filter (fun x => x.cons = st.id)).all (fun x => x.state == .drained)

/-- The station closes: its last task has retired; a FENCE closes by its own event. -/
def State.stationCloses (s : State) (c : Course) (st : Station) : Bool :=
  st.closed || (st.typ != stFence && (s.openTasks c st).isEmpty)

/-- The tiles emitted on a stream that open tasks of its consumer still need, or all those that they have consumed. -/
def State.tilesOn (s : State) (c : Course) (x : Stream) (consumed : Bool) : List Nat :=
  let ks := x.tiles.map (fun t => t.hdr.index)
  match c.station x.cons with
  | none => if consumed then [] else ks
  | some q =>
    let needs := (s.openTasks c q).flatMap (fun k => s.taskNeeds (taskOf c q k))
    ks.filter (fun k => needs.contains (x.consPort, k) != consumed)

/-- The producer of a stream has closed. -/
def Course.shut (c : Course) (x : Stream) : Bool :=
  match c.station x.prod with
  | some p => p.closed
  | none => false

/-- A stream from its ends: a closed producer leaves no tile waiting but in front of a tile queue, and the stream drains once
every tile emitted is consumed. -/
def State.streamNow (s : State) (c : Course) (x : Stream) : Stream :=
  let shut := c.shut x
  let x := if shut && !x.queued then x.flush else x
  let n := (s.tilesOn c x true).length
  let st := match x.state with
    | .opened | .closed =>
      if shut then (if n = x.produced ∧ x.waiting = [] then .drained else .closed) else x.state
    | w => w
  { x with consumed := n, state := st }

/-- The tiles that a consumer has taken leave the queue that carries them. -/
def TileQueue.popTaken (q : TileQueue) (taken : List Nat) : Nat → TileQueue
  | 0 => q
  | n + 1 => match q.frontIndex with
    | some k => if taken.contains k then q.pop.popTaken taken n else q
    | none => q

/-- The tiles of homes that a task reads tile by tile beside its streams: tensor and tile (R33, R316). -/
def State.homeReads (s : State) (t : Task) : List (Nat × Nat) :=
  let like (id : Nat) (ks : List Nat) : List (Nat × Nat) :=
    let d := s.descOf id
    let n := max 1 (d.tileRows * d.tileCols)
    ((s.heldTiles d).filter (fun k => ks.contains k || ks.contains (k % n))).map (fun k => (id, k))
  match t.st.typ with
  | 0x08 => [(t.st.p 4 3, t.e.tile)]
  | 0x0F => if t.st.p 0 1 = 5 then [] else like (t.st.p 4 3) [t.e.tile]
  | 0x10 | 0x11 =>
    let m := t.st.maskJob
    let ks := s.unitTiles (s.descOf m.target) m.scope t.e.tile
    ks.map (fun k => (m.target, k)) ++ (if m.companion = 0 then [] else like m.companion ks)
  | _ => []

/-- The copies of home tiles in CM and DM that no issued task of the course reads any more go: nothing has written them (R315). -/
def State.dropHomeCopies (s : State) (c : Course) : State :=
  let live := (s.journal.filterMap (fun kv => kv.2)).filter (fun e => e.state == .issued && decide (e.course = c.id))
  let read := live.flatMap (fun e => match c.station e.station with
    | some q => (s.homeReads (taskOf c q e.tile)).map (fun h => (homeStream h.1, h.2))
    | none => [])
  s.dropSlots (fun g => decide (g.course = c.id ∧ homeStream 0 ≤ g.stream) && !read.contains (g.stream, g.tile))

/-- What a consumer has taken leaves its buffers in CM and DM, or its queue, which then takes what waits (R33, R38). -/
def State.dropTaken (s : State) (c : Course) : State :=
  (c.streams.filter (fun x => !x.completion)).foldl (fun (s : State) x =>
    let taken := s.tilesOn c x true
    match x.buffer with
    | .queue core q => s.setQueue core q ((s.queue core q).popTaken taken 2)
    | _ => s.dropSlots (fun g => decide (g.course = c.id ∧ g.stream = x.id) && taken.contains g.tile)) s

/-- The closings of a course's stations and streams are brought up to date. -/
def State.closeUp (s : State) (cid : Nat) : State :=
  match s.course cid with
  | none => s
  | some c =>
    if !c.running then s
    else
      let c := { c with stations := c.stations.map (fun (q : Station) => { q with closed := s.stationCloses c q }) }
      let c := { c with streams := c.streams.map (s.streamNow c) }
      (((s.setCourse c).dropTaken c).dropHomeCopies c).pumpQueues cid

/-! ## Issue (R21, R430, R431, R478, R479) -/

/-- Coefficients of Table 16.1 in pJ, in the table's order, without the two static ones. -/
def energyCoefficients : List Nat := [70, 90, 60, 120, 2000, 4000, 8, 12, 150, 6, 50, 120]

/-- The rail of a die. -/
def State.rail (s : State) (die : Nat) : Rail := FMap.get (fun _ => {}) s.power.levee.rails die

/-- Energy in pJ at 0.850 V scaled to a voltage in mV (Table 16.1). -/
def scaleEnergy (pj mv : Nat) : Nat := pj * mv ^ 2 / 850 ^ 2

/-- A window's estimates are multiplied by k, or raised by one quarter where rail telemetry is missing (R422, R45). -/
def State.calibrated (s : State) (pj : Nat) : Nat :=
  if s.power.levee.missing then pj * 5 / 4 else pj * s.power.levee.calib / 128

/-- The estimate of a task from its counts (R421). -/
def State.estimate (s : State) (core : Nat) (counts : List Nat) : Nat :=
  s.calibrated (scaleEnergy (((energyCoefficients.zip counts).map (fun q => q.1 * q.2)).foldl (· + ·) 0)
    (s.rail (core / coresPerDie)).mv)

/-- What a core has charged in the window. -/
def Core.charged (k : Core) : Nat := (k.energy.map (fun e => e.2)).foldl (· + ·) k.base

/-- The issued tasks that run on a core. -/
def State.runningOn (s : State) (core : Nat) : List JEntry :=
  (s.journal.filterMap (fun kv => kv.2)).filter (fun e => e.state == .issued && !e.finished && decide (e.core = core))

/-- The energy account of a station on a core. -/
def chargeKey (course station : Nat) : Nat := course * 2 ^ 20 + station

/-- The issued tasks that a core holds: a task whose engine has finished it is held until it retires. -/
def State.heldOn (s : State) (core : Nat) : List JEntry :=
  (s.journal.filterMap (fun kv => kv.2)).filter (fun e => e.state == .issued && decide (e.core = core))

/-- The streams that a queue carries (R57). -/
def State.queueStreams (s : State) (core q : Nat) : List (Nat × Nat) :=
  s.courses.flatMap (fun c => (c.streams.filter (fun x => decide (x.buffer = .queue core q))).map (fun x => (c.id, x.id)))

/-- The queue holds nothing. -/
def TileQueue.idle (q : TileQueue) : Bool := q.bank0.state == .empty && q.bank1.state == .empty

/-- The core stands at a tile boundary at which its allotment may change: it holds no task, and no stream's tile stands in its
queues (R479). -/
def State.allotFree (s : State) (core : Nat) : Bool :=
  (s.heldOn core).isEmpty && (s.core core).queues.all (fun q => q.2.idle || (s.queueStreams core q.1).isEmpty)

/-- Issue gating (R430): the estimate fits the allowance, or no task runs on the core. -/
def State.gateOpen (s : State) (core : Nat) (counts : List Nat) : Bool :=
  let k := s.core core
  (s.runningOn core).isEmpty || decide (k.charged + s.estimate core counts ≤ k.allow)

/-- The pin of a station that has not lapsed (R83, R85). -/
def Course.livePin (c : Course) (st : Station) : Option Nat :=
  if c.warnings.any (fun w => decide (w.1 = 3 ∧ w.2.1 = st.id)) then none else st.pin

/-- The engine serves the station, exists, and is in service. -/
def State.engineOk (s : State) (st : Station) (engine core index : Nat) : Bool :=
  (enginesOf st.typ).any (fun e => decide (e.code = engine ∧ index < engineCount s.part e)
    && (engine != 0 || !((s.core core).me index).oos) && (engine != 4 || !s.dmaHalted core index))

/-- The core takes a task of the station: it works, is not held or in IDLE-G, meets the pin, and is allotted to the
task's polder or may be (R425, R436, R478). -/
def State.coreTakes (s : State) (c : Course) (st : Station) (core : Nat) : Bool :=
  let k := s.core core
  decide (core < s.part.cores) && !k.retired && k.thermal != .hold && !k.idle
    && (match c.livePin st with
      | some n => n == core
      | none => true)
    && (k.allot == s.taskPolder c st || s.allotFree core)

/-- A tensor that the station's conversions write still needs its probe (R262). -/
def State.stationProbes (s : State) (c : Course) (st : Station) : Bool :=
  (c.outputTensors st).any (fun id => s.needsProbe c id)

/-- The task is one of the station's that waits: not retired, in no journal entry for the same reaches, and, once run in
probe form, not before the probe is agreed. -/
def State.taskDue (s : State) (t : Task) : Bool :=
  let mine := (s.journal.filterMap (fun kv => kv.2)).filter (fun e =>
    decide (e.course = t.c.id ∧ e.station = t.st.id ∧ e.tile = t.e.tile))
  (s.openTasks t.c t.st).contains t.e.tile
    && mine.all (fun e => decide (0 < e.reachCount ∧ 0 < t.e.reachCount ∧ e.reachFirst ≠ t.e.reachFirst))
    && !(t.st.probed.contains t.e.tile && s.stationProbes t.c t.st)

/-- The journal entry of an order (Table 17.3). -/
def State.entryOf (s : State) (c : Course) (st : Station) (o : TaskOrder) : JEntry :=
  let out := (c.outputTensors st).headD 0
  { course := c.id, station := st.id, tile := o.tile, reachFirst := o.reachFirst, reachCount := o.reachCount
    outTensor := out, outGen := s.writeGenOf c out, engine := o.engine, core := o.core, index := o.index
    step := if c.stepMode then c.step else 0, line := o.line, sys := o.sys, counts := o.counts, poisoned := decide (0 < o.ue)
    inputs := (List.range (min 3 st.inPorts)).map (fun p => let id := c.inTensor st.id p; (id, s.genOf id)) }

/-- Journal place of a slot of the core's die. -/
def journalKey (core slot : Nat) : Nat := core / coresPerDie * journalRoom + slot

/-- What a grouped task asked of an expert's owner has come (14.6). -/
def State.expertsReady (s : State) (t : Task) : Bool :=
  !isProduct t.st.typ || (if t.st.typ = stSddmm then s.maskReady t else s.answered t (s.rowTask t))

/-- Both ends of a stream on a tile queue run on the queue's core (R57). -/
def Course.queuesFit (c : Course) (st : Station) (core : Nat) : Bool :=
  c.streams.all (fun x => match x.buffer with
    | .queue n _ => !(decide (x.prod = st.id ∨ x.cons = st.id)) || n == core
    | _ => true)

/-- The task moves data between host memory and the device, on a system channel (R289). -/
def Station.usesHost (st : Station) : Bool := (st.typ == stLoad && st.p 0 1 == 1) || (st.typ == stStore && st.p 0 1 != 0)

/-- The channels of an order: a task on a DMA channel names the event line of its transfer (R310), and one that moves data to or
from host memory a system channel in service besides (R289, R312). -/
def State.channelsOk (s : State) (t : Task) (o : TaskOrder) : Bool :=
  (o.engine != 4 || o.line.isSome) && (match o.sys with
    | none => !t.st.usesHost
    | some n => t.st.usesHost && decide (n.1 < s.part.dies ∧ n.2 < 32)
        && !getBit (s.reg (dmaRegs true n.1 n.2).1) 31)

/-- The writers above a station of a tensor that it writes too have landed what they write: of its own tile where both write that
tensor tile by tile, else everything (R81). -/
def State.writesLanded (s : State) (t : Task) : Bool :=
  let mine := t.c.stationWrites t.st
  let byTile (typ : Nat) : Bool := typ == stStore || typ == stScatter || typ == stUpdate
  (t.c.stations.filter (fun a => t.c.below a.id t.st.id && meets (s.bases (t.c.stationWrites a)) (s.bases mine))).all (fun a =>
    a.closed || (byTile a.typ && byTile t.st.typ && decide ((t.c.stationWrites a).headD 0 = mine.headD 0)
      && !(s.openTasks t.c a).contains t.e.tile))

/-- What the task waits for has come: its tiles, an expert's owner's answer, and the writes that land before its own; and its
band and reaches are as R206 and R209 have them. A task of a station with a broken parameter, or with an input that halts it, waits for nothing. -/
def State.inputsHere (s : State) (t : Task) (o : TaskOrder) : Bool :=
  s.paramsBroken t || s.haltsEarly t || (t.ready (s.taskNeeds t) && s.expertsReady t && s.writesLanded t
    && s.splitOk t o.core o.index o.band)

/-- The operands that a task's engine needs can be filled: a channel of its core is in service, or it needs none (R289, R312). -/
def State.fillsUp (s : State) (t : Task) (core : Nat) : Bool :=
  (s.taskNeeds t).isEmpty || s.coreDmaUp core

/-- The station's task may run on a core: it is the station's own, or the station stands at a tile boundary and its place follows;
a part of a split tile may run on any (R22, R82, R209). -/
def State.coreFollows (s : State) (c : Course) (st : Station) (e : JEntry) (core : Nat) : Bool :=
  decide (st.place.core = core ∨ 0 < e.reachCount) || s.atBoundary c st

/-! ### The order of issue (R431) -/

/-- A task is memory-bound: its engine cycles do not exceed its channel cycles, at 1,024 bytes a cycle (R290, R431). -/
def memoryBound (cycles : Nat) (counts : List Nat) : Bool :=
  decide (1024 * cycles ≤ 64 * (counts.getD 10 0 + counts.getD 11 0))

/-- An ungrouped product station whose weight operand a DISPATCH of the course names in SHARED (R383). -/
def Course.sharedExpert (c : Course) (st : Station) : Bool :=
  isProduct st.typ && (c.groupOf st).isNone && c.stations.any (fun a => a.typ == stRoute && a.p 0 1 == 0 && a.p 32 3 != 0
    && (List.range st.inPorts).any (fun i => c.inTensor st.id i == a.p 32 3))

/-- A grouped task of the core waits on a fetch or on a shipped expert's answer (R383). -/
def State.groupedWaits (s : State) (core : Nat) : Bool :=
  s.net.requests.any (fun r => !r.done && (s.course r.key.course).any (fun c =>
    (c.station r.key.station).any (fun st => decide (st.place.core = core))))

/-- An engine of the core that serves the station has no task. -/
def State.engineFree (s : State) (st : Station) (core : Nat) : Bool :=
  (enginesOf st.typ).any (fun e => (List.range (engineCount s.part e)).any (fun i => s.engineOk st e.code core i
    && !(s.runningOn core).any (fun j => decide (j.engine = e.code ∧ j.index = i))))

/-- The tiles of a station whose tasks are ready on its core. -/
def State.readyTiles (s : State) (c : Course) (st : Station) : List Nat :=
  if st.typ == stExchange || st.typ == stFence || !s.engineFree st st.place.core then []
  else (s.openTasks c st).filter (fun k =>
    let t := taskOf c st k
    s.taskDue t && (s.paramsBroken t || s.haltsEarly t
      || (t.ready (s.taskNeeds t) && s.expertsReady t && s.writesLanded t)))

/-- The ready tasks of a core. -/
def State.readyTasks (s : State) (core : Nat) : List (Nat × Nat × Nat) :=
  (s.courses.filter (fun c => c.active)).flatMap (fun c =>
    (c.stations.filter (fun st => st.place.core == core)).flatMap (fun st =>
      (s.readyTiles c st).map (fun k => (c.id, st.id, k))))

/-- The place of a ready task in a core's order: a shared expert while grouped tasks wait, the class that the core's
temperature prefers, and then fetch order, station and tile. -/
def State.issueRank (s : State) (core : Nat) (r : ReadyTask) : List Nat :=
  let shared := (s.course r.course).any (fun c => (c.station r.station).any c.sharedExpert)
  [if shared && s.groupedWaits core then 0 else 1,
    if memoryBound r.cycles r.counts == ((s.core core).thermal == .cool) then 1 else 0,
    ((s.course r.course).map (fun c => c.desc.seq)).getD 0, r.station, r.tile]

/-- Lexicographic order. -/
def listBefore : List Nat → List Nat → Bool
  | x :: xs, y :: ys => decide (x < y) || (decide (x = y) && listBefore xs ys)
  | _, _ => false

/-- The scheduler knows every ready task of the core, and none that goes before this one fits the allowance (R430, R431). -/
def State.issuesNext (s : State) (o : TaskOrder) : Bool :=
  let mine : ReadyTask := { course := o.course, station := o.station, tile := o.tile, cycles := o.cycles, counts := o.counts }
  (s.readyTasks o.core).all (fun q => q == (o.course, o.station, o.tile) ||
    (o.ready.find? (fun r => (r.course, r.station, r.tile) == q)).any (fun r =>
      !(listBefore (s.issueRank o.core r) (s.issueRank o.core mine) && s.gateOpen o.core r.counts)))

/-- Every condition of issue holds. -/
def State.mayIssue (s : State) (t : Task) (o : TaskOrder) : Bool :=
  s.issuing && t.c.active && t.st.typ != stExchange && t.st.typ != stFence
    && s.engineOk t.st o.engine o.core o.index && s.coreTakes t.c t.st o.core
    && t.c.queuesFit t.st o.core && s.coreFollows t.c t.st t.e o.core && s.channelsOk t o && s.fillsUp t o.core
    && s.gateOpen o.core o.counts && decide (o.slot < journalRoom) && (s.entry (journalKey o.core o.slot)).isNone
    && s.taskDue t && s.inputsHere t o && s.issuesNext o

/-- The tile of a slot, as its stream has it. -/
def State.slotTile (s : State) (q : Slot) : Option Tile :=
  ((s.course q.course).bind (fun (c : Course) => c.stream q.stream)).bind (fun (x : Stream) =>
    (x.tiles ++ x.waiting).find? (fun t => decide (t.hdr.index = q.tile)))

/-- Every written copy in a core's CM goes through the spillway (R315, R439). -/
def State.drainCm (s : State) (core : Nat) : State :=
  ((s.cm core).slots.filter (fun q => q.written)).foldl (fun (s : State) q =>
    match s.slotTile q with
    | some t => s.spillTile q.course q.stream t
    | none => s) s

/-- Every written copy in a core's CM goes through the spillway, and the CM is set to zero (R315, R479). -/
def State.emptyCm (s : State) (core : Nat) : State := (s.drainCm core).setCm core {}

/-- An ME with its banks, operand buffer and registers at zero. -/
def Me.zeroed (m : Me) : Me := { faults := m.faults, faultTimes := m.faultTimes, oos := m.oos }

/-- A core changes its allotment: its CM, queues, MEs and VEs are zeroed (R479). -/
def State.allotCore (s : State) (core p : Nat) : State :=
  if (s.core core).allot = p then s
  else
    let s := s.emptyCm core
    let k := s.core core
    let s := s.setCore core { k with allot := p, queues := [], mes := k.mes.map (fun m => (m.1, m.2.zeroed)) }
    { s with ve := s.ve.filter (fun v => v.1 / 4 ≠ core) }

/-! ## Core retirement and hangs (R44, R456) -/

/-- Abandon the issued tasks that satisfy a condition. -/
def State.abandonWhere (s : State) (p : JEntry → Bool) : State :=
  (s.journal.filter (fun kv => match kv.2 with
    | some e => e.state == .issued && p e
    | none => false)).foldl (fun (s : State) kv => s.abandon kv.1) s

/-- The stations of a course on a core have their place on another. -/
def Course.moveOff (c : Course) (core n : Nat) : Course :=
  { c with stations := c.stations.map (fun (st : Station) =>
      if st.place.core = core then { st with place := { core := n, ports := st.place.ports } } else st) }

/-- The pins of a course to a core lapse, with a warning for each (R85). -/
def Course.lapse (c : Course) (core : Nat) : Course :=
  { c with warnings := c.warnings ++
      (c.stations.filter (fun st => decide (c.livePin st = some core))).map (fun st => (3, st.id, 0, 0)) }

/-- Every station of a core that retires moves to the first core that takes stations, those of courses that a repeat may rerun
too: no report names the core again (R19, R82). -/
def State.moveOff (s : State) (core : Nat) : State :=
  { s with
    courses := s.courses.map (fun (c : Course) => c.moveOff core s.firstCore)
    copies := s.copies.map (fun (c : Course) => c.moveOff core s.firstCore) }

/-- The pins to a core lapse, with a warning for each (R85), which stands in every later report of the course (log entry 100). -/
def State.lapsePins (s : State) (core : Nat) : State :=
  { s with courses := s.courses.map (fun (c : Course) => c.lapse core), copies := s.copies.map (fun (c : Course) => c.lapse core) }

/-- The tiles that stand in the queue of a stream are lost: their producers' tasks, and the consumer's tasks that need them, are
replayed (Table 1.7). -/
def State.loseQueue (s : State) (c : Course) (x : Stream) : State :=
  let lost := s.tilesOn c x false
  let s := s.setStream c.id { x with tiles := x.tiles.filter (fun t => !lost.contains t.hdr.index) }
  let hit (e : JEntry) : Bool := decide (e.course = c.id) && (
    (decide (e.station = x.prod) && e.finished && (decide (x.prodPort ≠ 0) || lost.contains e.tile))
    || (decide (e.station = x.cons) && e.state == .issued && (match c.station x.cons with
      | some q => (s.taskNeeds (taskOf c q e.tile)).any (fun n => decide (n.1 = x.consPort) && lost.contains n.2)
      | none => false)))
  if lost.isEmpty then s
  else
    (s.journal.filter (fun kv => match kv.2 with
      | some e => hit e
      | none => false)).foldl (fun (s : State) kv => s.abandon kv.1) s

/-- The tile queues of a core are reset to empty, both banks, and the tasks involved are replayed (Table 1.7). Where one engine
faults the table says only 'the queue' that holds data: that all 48 of the core are reset is the model's choice (log entry
110). -/
def State.resetQueues (s : State) (core : Nat) : State :=
  let s := s.courses.foldl (fun (s : State) c =>
    (c.streams.filter (fun x => match x.buffer with
      | .queue n _ => n == core
      | _ => false)).foldl (fun (s : State) x => s.loseQueue c x) s) s
  s.setCore core { s.core core with queues := [] }

/-- The streams that are buffered in a core that retires are held where each tile is made. -/
def State.unmapCore (s : State) (core : Nat) : State :=
  { s with courses := s.courses.map (fun (c : Course) => { c with streams := c.streams.map (fun x => match x.buffer with
      | .queue n _ => if n = core then { x with buffer := .maker }.emitDue (s.portTiles c x.prod x.prodPort) else x
      | .cm n => if n = core then { x with buffer := .maker } else x
      | _ => x) }) }

/-- A core retires (R456): logged, its tasks abandoned, its queues reset, the pins to it lapsed, and every station on it moved
(R19, R86); Iluny records it in the retirement map where the package reaches the SPI NOR (R30); without a core left the device
faults. -/
def State.retireCore (s : State) (core : Nat) : State :=
  if s.coreRetired core || decide (s.part.cores ≤ core) then s
  else
    let s := s.logEntry 0x0018 (core / coresPerDie) core deviceWide core 0
    let s := (s.abandonWhere (fun e => decide (e.core = core))).resetQueues core
    let s := (s.emptyCm core).unmapCore core
    let s := s.setCore core { s.core core with retired := true }
    let s := (s.lapsePins core).moveOff core
    let s := if !s.moduleReach then s
      else { s with power := { s.power with iluny := { s.power.iluny with retired := insertNat core s.power.iluny.retired } } }
    if (List.range s.part.cores).all s.coreRetired then s.raiseFault 7 else s

/-- A stream leaves its tile queue at a tile boundary (R82): what waits in front of the queue goes out, what stands in it is
held in CM, and the queue is empty. -/
def State.unqueue (s : State) (c : Course) (x : Stream) : State :=
  match x.buffer with
  | .queue core q =>
    let stood := s.tilesOn c x false
    let y := { x with buffer := .maker, locator := 0 }.emitDue (s.portTiles c x.prod x.prodPort)
    let held := y.tiles.filter (fun t => stood.contains t.hdr.index || !(x.tiles.any (fun z => decide (z.hdr.index = t.hdr.index))))
    held.foldl (fun (s : State) t => s.bufferTile c core y t) ((s.setQueue core q {}).setStream c.id y)
  | _ => s

/-- The streams of a station leave the tile queues of a core. -/
def State.unqueueStation (s : State) (c : Course) (st core : Nat) : State :=
  (c.streams.filter (fun x => decide (x.prod = st ∨ x.cons = st) && (match x.buffer with
    | .queue n _ => n == core
    | _ => false))).foldl (fun (s : State) x => s.unqueue c x) s

/-- Write a station's place. -/
def State.movePlace (s : State) (c : Course) (st : Station) (p : Place) : State :=
  s.setCourse { c with stations := c.stations.map (fun (q : Station) => if q.id = st.id then { q with place := p } else q) }

/-- A station that stands at a tile boundary on a core in thermal hold goes to the first core that takes stations, and its streams
leave the queues of the held core (R425). -/
def State.leaveHeld (s : State) (cid station : Nat) : State :=
  match s.course cid with
  | none => s
  | some c =>
    match c.station station with
    | none => s
    | some st =>
      let core := st.place.core
      if (s.core core).thermal != .hold || s.firstCore == core || !s.atBoundary c st || st.typ == stExchange || st.typ == stFence
      then s
      else
        let s := s.unqueueStation c station core
        match s.course cid with
        | none => s
        | some c => s.movePlace c st { core := s.firstCore, ports := st.place.ports }

/-- Every station that stands at a tile boundary on a held core leaves it (R425). -/
def State.clearHeld (s : State) : State :=
  (s.courses.flatMap (fun c => c.stations.map (fun st => (c.id, st.id)))).foldl (fun (s : State) p => s.leaveHeld p.1 p.2) s

/-- Times of a list that lie within a span before now. -/
def recent (now span : Nat) (ts : List Nat) : List Nat := ts.filter (fun t => decide (now < t + span))

/-- Uncorrectable words that a core meets: SRAM_UE counts, and eight within 2^32 cycles retire the core. -/
def State.noteUes (s : State) (core n now : Nat) : State :=
  if n = 0 then s
  else
    let die := core / coresPerDie
    let s := (s.countReg ⟨.sramErr, die, 0⟩ 31 16 n).logEntry 0x0021 die core deviceWide core n
    let k := s.core core
    let ts := recent now (2 ^ 32) k.ues ++ List.replicate n now
    let s := s.setCore core { k with ues := ts }
    if 8 ≤ ts.length then s.retireCore core else s

/-- Corrected words: SRAM_CE counts. -/
def State.noteCes (s : State) (core n : Nat) : State :=
  if n = 0 then s
  else
    let die := core / coresPerDie
    (s.countReg ⟨.sramErr, die, 0⟩ 15 0 n).logEntry 0x0020 die core deviceWide core n

/-- An engine hangs: logged, its tasks abandoned and its core's queues reset (Table 1.7); three hangs within 2^30 cycles retire its
core (R44, R456). -/
def State.hang (s : State) (engine core index now : Nat) : State :=
  let s := s.logEntry 0x0016 (core / coresPerDie) core deviceWide engine index
  let s := (s.abandonWhere (fun e => decide (e.core = core ∧ e.engine = engine ∧ e.index = index))).resetQueues core
  let k := s.core core
  let ts := recent now (2 ^ 30) k.hangs ++ [now]
  let s := s.setCore core { k with hangs := ts }
  if 3 ≤ ts.length then s.retireCore core else s

/-- ENGINE_HANG (R44): an engine that holds an issued task is declared hung. -/
def execEngineHang (engine core index now : Nat) (s : State) : Host.Outcome State Fault Refusal :=
  if s.issuing && !(s.core core).idle
    && (s.heldOn core).any (fun e => decide (e.engine = engine ∧ e.index = index)) then
    .next (s.hang engine core index now)
  else .next s

/-! ## TASK_ISSUE -/

/-- A task reads a corrupt stream context: logged, the stream halts with POISON, and the task is abandoned for its replay, which
lifts the halt (Table 2.6, R454; log entry 106). -/
def State.corruptStream (s : State) (t : Task) (id : Nat) : State :=
  let s := s.logEntry 0x0027 (t.e.core / coresPerDie) t.e.core t.c.desc.func t.c.id id
  match s.course t.c.id with
  | none => s
  | some c =>
    (s.setCourse { c with
      halt := some (Halt.join c.halt id 0x0012 0)
      streams := c.streams.map (fun x => if x.id = id then { x with state := .corrupt } else x) }).abandon t.j

/-- A stream of the course has a corrupt context, and its halt is the course's. -/
def Course.corrupted (c : Course) : Bool :=
  match c.halt with
  | some h => h.stream && c.streams.any (fun x => decide (x.id = h.id) && x.state == .corrupt)
  | none => false

/-- A replay writes corrupt contexts anew: their streams are open again. -/
def Course.revived (c : Course) : Course :=
  if c.corrupted then
    { c with halt := none, streams := c.streams.map (fun x => if x.state = .corrupt then { x with state := .opened } else x) }
  else c

/-- A journal word is delivered poisoned: logged, its course stops with POISON (R453). -/
def State.journalFault (s : State) (t : Task) : State :=
  s.haltTask t (.output 0) 0x0012 0 0x0028 t.c.id t.st.id

/-- A tile that a task needs is fetched into its core's CM, or into its die's DM where CM is full, unless it stands there, travels
on a queue, or finds no room; then it is read where it is held (R33, R34, R316). -/
def State.fetchTile (s : State) (t : Task) (core port k : Nat) : State :=
  match t.c.inStream t.st.id port with
  | none => s
  | some x =>
    if x.queued || ((s.cm core).slot? t.c.id x.id k).isSome then s
    else ((t.tile? port k).bind (fun y => s.holdCopy core t.c.id x.id (s.descOf x.tensor) y false)).getD s

/-- A tile of a home that a task reads is copied in the same way. -/
def State.fetchHome (s : State) (t : Task) (core id k : Nat) : State :=
  if ((s.cm core).slot? t.c.id (homeStream id) k).isSome then s
  else (s.holdCopy core t.c.id (homeStream id) (s.descOf id) (s.readTile id k t.c.epoch) false).getD s

/-- The tiles that a task needs are fetched for its core, on a channel of the core (R289). -/
def State.fetchTiles (s : State) (t : Task) (core : Nat) : State :=
  if !s.coreDmaUp core then s
  else
    let s := (s.taskNeeds t).foldl (fun (s : State) n => s.fetchTile t core n.1 n.2) s
    (s.homeReads t).foldl (fun (s : State) h => s.fetchHome t core h.1 h.2) s

/-- The place of a station whose task is issued: its core and, while tasks of it run there, every engine that they are on. -/
def Place.withEngine (p : Place) (core engine index : Nat) (split : Bool) : Place :=
  let p := { p with core := core, split := p.split || split }
  match engine with
  | 0 => { p with me := p.me ||| 2 ^ index }
  | 1 => { p with ve := p.ve ||| 2 ^ index }
  | 2 => { p with ue := true }
  | 3 => { p with mu := p.mu ||| 2 ^ index }
  | _ => p

/-- The station's tasks on an ME work with the merge unit that serves the ME (Table 2.4, R200, R205). -/
def Station.usesMu (st : Station) : Bool := (enginesOf st.typ).contains .mu

/-- The issue of a task is noted in its station's place, with the merge unit that serves its ME; a part of a split tile on another
core leaves the place (R86, R200; log entry 105). -/
def State.notePlace (s : State) (e : JEntry) : State :=
  let more := (s.heldOn e.core).any (fun a => decide (a.course = e.course ∧ a.station = e.station))
  match s.course e.course with
  | none => s
  | some c => s.setCourse { c with stations := c.stations.map (fun (q : Station) =>
      if q.id = e.station then
        if e.core ≠ q.place.core ∧ 0 < e.reachCount ∧ s.atBoundary c q = false then { q with place := { q.place with split := true } }
        else
          let p : Place := if more && decide (q.place.core = e.core) then q.place else { ports := q.place.ports }
          let p := p.withEngine e.core e.engine e.index (decide (0 < e.reachCount))
          { q with place := if e.engine = 0 ∧ q.usesMu then { p with mu := p.mu ||| 2 ^ (e.index / 4) } else p }
      else q) }

/-- A sparse product's band is looked at for a straggler (R210). -/
def State.bandStraggler (s : State) (t : Task) (band : List Nat) : State :=
  if t.st.typ = stSpmm ∨ t.st.typ = stSpmmT ∨ t.st.typ = stSpsp then s.noteStraggler t (s.rowTask t) band else s

/-- A core is charged a task's estimate, on its station's account (R420, R430). -/
def State.chargeTask (s : State) (core a : Nat) (counts : List Nat) : State :=
  let k := s.core core
  s.setCore core { k with
    energy := FMap.set (fun _ => 0) k.energy a (FMap.get (fun _ => 0) k.energy a + s.estimate core counts) }

/-- A word of the stream table or the journal of a core's die that could not be corrected is counted (R314). -/
def State.countUe (s : State) (core : Nat) : State := s.countReg ⟨.sramErr, core / coresPerDie, 0⟩ 31 16 1

/-- The issue itself: allotment, the charge, the journal entry and the place, the tiles into CM, and what the reads of CM and DM
meet. -/
def State.issueTask (s : State) (t : Task) (o : TaskOrder) : State :=
  let key := journalKey o.core o.slot
  let s := s.allotCore o.core (s.taskPolder t.c t.st)
  let s := s.chargeTask o.core (chargeKey t.c.id t.st.id) o.counts
  let s := (s.notePlace t.e).setEntry key (some t.e)
  let t := { t with j := key }
  let s := (s.fetchTiles t o.core).bandStraggler t o.band
  let s := match o.context with
    | some x => if t.c.streams.any (fun y => decide (y.id = x)) then (s.corruptStream t x).countUe o.core else s
    | none => s
  let s := if o.journal then (s.journalFault t).countUe o.core else s
  (s.noteCes o.core o.ce).noteUes o.core o.ue o.now

/-- TASK_ISSUE (R21): the journal entry is written and the task issued. -/
def execTaskIssue (o : TaskOrder) (s : State) : Host.Outcome State Fault Refusal :=
  match s.course o.course with
  | none => .next s
  | some c =>
    match c.station o.station with
    | none => .next s
    | some st =>
      let t : Task := ⟨looseKey, s.entryOf c st o, c, st⟩
      if s.mayIssue t o then .next (s.issueTask t o) else .next s

/-! ## DMA events (R23, R310 to R312) -/

/-- DMA_TRANSFER_DONE (R310): the transfer of a task that has written its last byte pulses the task's event line; a count beyond
65,535 is an event overflow, handled as a hang of the waiting station's engine. -/
def execDmaTransferDone (j now : Nat) (s : State) : Host.Outcome State Fault Refusal :=
  match s.entry j with
  | none => .next s
  | some e =>
    match e.line with
    | none => .next s
    | some l =>
      if e.landed || !e.finished then .next s
      else
        let k := s.core e.core
        let n := FMap.get (fun _ => 0) k.lines (l % 64)
        if n = 65535 then
          .next ((s.logEntry 0x0017 (e.core / coresPerDie) e.core deviceWide (l % 64) 0).hang e.engine e.core e.index now)
        else
          .next ((s.setCore e.core { k with lines := FMap.set (fun _ => 0) k.lines (l % 64) (n + 1) }).setEntry j
            (some { e with landed := true }))

/-- The waiting station takes its pulse. -/
def State.takePulse (s : State) (e : JEntry) : State :=
  match e.line with
  | none => s
  | some l =>
    let k := s.core e.core
    let n := FMap.get (fun _ => 0) k.lines (l % 64)
    s.setCore e.core { k with lines := FMap.set (fun _ => 0) k.lines (l % 64) (n - 1) }

/-- A channel latches a bus error (R312, Table 11.9). -/
def State.latchBusError (s : State) (sys : Bool) (unit ch addr : Nat) (write : Bool) (cause : Nat) : State :=
  let r := dmaRegs sys unit ch
  let s := s.countReg r.1 15 0 1
  let v := setF (setBit (setBit (s.reg r.1) 31 true) 30 write) 27 24 cause
  (s.setReg r.1 v).setReg r.2 (BitVec.ofNat 64 addr)

/-- A channel carries a transfer of the task: the system channel that it was given, its own channel, or, of a task on another engine,
a channel of its core that fills its operands (R289, R312). -/
def JEntry.usesChannel (e : JEntry) (sys : Bool) (unit ch : Nat) : Bool :=
  if sys then decide (e.sys = some (unit, ch))
  else decide (e.core = unit ∧ ch < 16 ∧ (e.engine = 4 → e.index = ch))

/-- What a channel can meet (R311, Table 11.8): the causes of a PCIe completion on a system channel's read of host memory, and a
fabric decode error on any; a posted host write has no completion. -/
def busCauseOk (sys write : Bool) (cause : Nat) : Bool :=
  cause == 5 || (sys && !write && decide (1 ≤ cause ∧ cause ≤ 4))

/-- DMA_BUS_ERROR (R311, R312): a channel halts, its task is abandoned without replay, and the station's stream halts. -/
def execDmaBusError (j : Nat) (sys : Bool) (unit ch addr : Nat) (write : Bool) (cause : Nat) (s : State) :
    Host.Outcome State Fault Refusal :=
  match s.entry j with
  | none => .next s
  | some e =>
    match s.course e.course with
    | none => .next s
    | some c =>
      match c.station e.station with
      | none => .next s
      | some st =>
        if e.state != .issued || !e.usesChannel sys unit ch || !busCauseOk sys write cause then .next s
        else
          let s := s.latchBusError sys unit ch addr write cause
          let die := if sys then unit else unit / coresPerDie
          let s := s.logEntry 0x0033 die (if sys then ch else unit) c.desc.func addr
            (cause + (if write then 2 ^ 8 else 0) + ch * 2 ^ 16 + (if sys then 2 ^ 24 else 0))
          .next ((s.haltCourse c.id st.id st.haltSide 0x0013 cause).dropEntry j)

/-! ## Retirement (R112, R453) -/

/-- The tile of a task is on its streams: a split part counts only when the owner has emitted the whole tile. -/
def State.tileOut (s : State) (e : JEntry) : Bool :=
  decide (e.reachCount = 0) || (match s.course e.course with
    | none => false
    | some c => (c.outStreams e.station 0).any (fun x => (x.tiles ++ x.waiting).any (fun t => decide (t.hdr.index = e.tile))))

/-- The transfer of a task, if it has one, has given its pulse, and the event line has a count (R23, R310). -/
def State.pulseCome (s : State) (e : JEntry) : Bool :=
  match e.line with
  | none => true
  | some l => e.landed && decide (0 < FMap.get (fun _ => 0) (s.core e.core).lines (l % 64))

/-- A task retires: its flags go to its engine and its course, its entry is DONE, and a generation written in place whose last
write this was is judged (R171); one with a poisoned output is abandoned for its replay (R70, R454). -/
def State.retireTask (s : State) (j : Nat) (e : JEntry) (c : Course) : State :=
  let s := s.takePulse e
  if e.poisoned then s.abandon j
  else
    let s := s.mergeFlags e e.flags
    let s := s.setEntry j (some { e with state := .done })
    let s := s.setCourse { c with
      flags := c.flags ||| e.flags
      stations := if s.tileOut e then c.stations.map (fun (q : Station) =>
          if q.id = e.station then { q with done := insertNat e.tile q.done } else q)
        else c.stations }
    (s.closeUp c.id).judgeLanded c.id

/-- A tile of the task still waits before a tile queue, which holds its engine back (R38), unless its course has stopped. -/
def Course.unsent (c : Course) (e : JEntry) : Bool :=
  c.active && c.streams.any (fun x => decide (x.prod = e.station) && x.queued && x.waiting.any (fun t => decide (t.hdr.index = e.tile)))

/-- TASK_RETIRE (R112): a task whose engine has finished it retires once its event line has a count, which it takes (R23); the
requests for experts that it makes possible go out (R380). -/
def execTaskRetire (j : Nat) (s : State) : Host.Outcome State Fault Refusal :=
  match s.entry j with
  | none => .next s
  | some e =>
    match s.course e.course with
    | none => .next s
    | some c =>
      if e.state == .issued && e.finished && s.pulseCome e && !c.unsent e && c.running && s.issuing then
        .next ((((s.retireTask j e c).pumpExperts c.id).pumpServed).leaveHeld c.id e.station)
      else .next s

/-- A tile is spilled, or every open or still journalled task of the consumer of its stream needs it no longer. -/
def State.reached (s : State) (c : Course) (x : Stream) (k : Nat) : Bool :=
  x.spilled.contains k || (match c.station x.cons with
    | none => true
    | some q =>
      if q.typ = stFence then true
      else
        let held := (s.journal.filterMap (fun kv => kv.2)).filter (fun e =>
          decide (e.course = c.id ∧ e.station = q.id))
        let ks := s.openTasks c q ++ held.map (fun e => e.tile)
        !(ks.any (fun i => (s.taskNeeds (taskOf c q i)).contains (x.consPort, k))))

/-- JOURNAL_ENTRY_RETIRE (R453): a DONE entry is freed once every tile it produced has reached a home or a retired
consumer. Of a side output every tile that stands on its stream is counted. -/
def execJournalEntryRetire (j : Nat) (s : State) : Host.Outcome State Fault Refusal :=
  match s.entry j with
  | none => .next s
  | some e =>
    match s.course e.course with
    | none => .next s
    | some c =>
      let xs := c.streams.filter (fun x => decide (x.prod = e.station) && !x.completion)
      let wide := match c.station e.station with
        | some st => st.typ == stRoute || st.typ == stVec || st.typ == stAttend
        | none => false
      let tiles (x : Stream) : List Nat :=
        if x.prodPort = 0 ∧ wide = false then [e.tile] else (x.tiles ++ x.waiting).map (fun t => t.hdr.index)
      if e.state == .done && xs.all (fun x => (tiles x).all (s.reached c x)) then .next (s.setEntry j none)
      else .next s

/-! ## Replay (R454, R455) -/

/-- An abandoned task needs a tile that a DONE task made. -/
def State.neededAgain (s : State) (e : JEntry) (c : Course) : Bool :=
  ((s.journal.filterMap (fun kv => kv.2)).filter (fun a => a.state == .abandoned && decide (a.course = c.id))).any
    (fun a => match c.station a.station with
      | none => false
      | some q =>
        (s.taskNeeds (taskOf c q a.tile)).any (fun n => match c.inStream q.id n.1 with
          | some x => decide (x.prod = e.station ∧ n.2 = e.tile)
          | none => false))

/-- The elements of its base that a STORE's tile writes, its berm included (R301, R302). -/
def Tensor.tileRegion (t : Tensor) (k : Nat) : Box :=
  let b := t.toBase (t.desc.tileBox k)
  if t.desc.bermOwned then b.toTiles else b

/-- The source elements that a LOAD reads for a tile, in its base's coordinates. -/
def State.sourceBox (s : State) (c : Course) (st : Station) (k : Nat) : Box :=
  match s.tensor (st.p 4 3) with
  | some src => src.toBase (st.srcBox ((s.descOf (c.outTensor st.id 0)).tileBox k))
  | none => []

/-- The tile is of a plain overlapping copy whose STORE has overwritten source bytes of it (Table 11.12). -/
def State.copyBroken (s : State) (c : Course) (st : Station) (k : Nat) : Bool :=
  match (c.outStreams st.id 0).head?.bind (fun (x : Stream) => (c.station x.cons).map (fun q => (x.tensor, q))) with
  | none => false
  | some (id, q) =>
    c.copyPair st q && s.readWriteMeet c st q && (match s.tensor id with
      | none => false
      | some t => q.landed.any (fun w => !(Box.meet (s.sourceBox c st k) (t.tileRegion w.1)).empty))

/-- The output stream halts with POISON. -/
def State.replayFails (s : State) (t : Task) : State :=
  s.haltTask t t.st.haltSide 0x0012 0 0x0060 t.st.id t.e.tile

/-- The system channel of a replay: that of the task, or else the first in service; none where all are halted (R289, R312). -/
def State.sysAgain (s : State) (o : Option (Nat × Nat)) : Option (Option (Nat × Nat)) :=
  match o with
  | none => some none
  | some n =>
    let all := (List.range s.part.dies).flatMap (fun d => (List.range 32).map (fun c => (d, c)))
    ((n :: all).find? (fun n => !getBit (s.reg (dmaRegs true n.1 n.2).1) 31)).map some

/-- The conditions of a replay on a core: those of issue that do not rest on the task's inputs (R22, R425, R430). -/
def State.mayRerun (s : State) (c : Course) (st : Station) (e : JEntry) (engine core index : Nat) : Bool :=
  s.engineOk st engine core index && s.coreTakes c st core && c.queuesFit st core && s.coreFollows c st e core
    && s.gateOpen core e.counts && s.coreDmaUp core && (s.sysAgain e.sys).isSome

/-- TASK_REPLAY (R454, R455): an abandoned task, or a DONE producer whose output is needed again, is rerun on the engine
that the placer chooses, and charged anew; after the third replay its stream halts with POISON. -/
def execTaskReplay (j engine core index : Nat) (s : State) : Host.Outcome State Fault Refusal :=
  match s.entry j with
  | none => .next s
  | some e =>
    match s.course e.course with
    | none => .next s
    | some c =>
      match c.station e.station with
      | none => .next s
      | some st =>
        let due := e.state == .abandoned || (e.state == .done && s.neededAgain e c)
        if !due || !c.revived.active || !s.issuing || !s.mayRerun c st e engine core index then .next s
        else
          let s := s.setCourse c.revived
          let t : Task := ⟨j, e, c.revived, st⟩
          if 3 ≤ e.attempt || s.copyBroken c st e.tile then .next (s.replayFails t)
          else
            let s := s.allotCore core (s.taskPolder c st)
            let e := { e with
              state := .issued, attempt := e.attempt + 1, engine := engine, core := core, index := index
              finished := false, flags := 0, poisoned := false, copies := [], landed := false, sums := []
              sys := (s.sysAgain e.sys).getD none }
            let s := s.chargeTask core (chargeKey c.id st.id) e.counts
            .next (((s.notePlace e).setEntry j (some e)).fetchTiles t core)

/-! ## EXCHANGE and FENCE (R354, R363, R59) -/

/-- An EXCHANGE at work has its place on a die, with the ports of the die's group that send (R86; log entry 105). -/
def State.noteExchange (s : State) (t : Task) (die : Nat) : State :=
  let n := s.part.ports / max 1 s.part.dies
  let mask := ((List.range n).filter (fun i => s.portSends (die * n + i))).foldl (fun a i => a + 2 ^ i) 0
  s.updStation t (fun q => { q with place := { core := die * coresPerDie, ports := mask } })

/-- The writes of the EXCHANGE's accumulators come after those of the stations above it (R81); one with a broken parameter waits for
nothing. -/
def State.exchangeDue (s : State) (t : Task) : Bool := s.writesLanded t || (s.exchangeBad t).isSome

/-- EXCHANGE_INSTANCE (R352): the instance of an input port on the port group of a die. -/
def execExchangeInstance (course station port die : Nat) (s : State) : Host.Outcome State Fault Refusal :=
  match s.looseTask course station stExchange with
  | none => .next s
  | some t =>
    if s.exchangeDue t then .next (((s.exchangeInstance t port die).noteExchange t die).closeUp course) else .next s

/-- EXCHANGE_ACCUMULATE (R363): the accumulation of an input port. -/
def execExchangeAccumulate (course station port die : Nat) (s : State) : Host.Outcome State Fault Refusal :=
  match s.looseTask course station stExchange with
  | none => .next s
  | some t =>
    if s.exchangeDue t then .next (((s.exchangeAccumulate t port die).noteExchange t die).closeUp course) else .next s

/-- FENCE_STATION (R59): the FENCE closes once every input stream is drained. -/
def execFenceStation (course station : Nat) (s : State) : Host.Outcome State Fault Refusal :=
  match s.looseTask course station stFence with
  | none => .next s
  | some _ =>
    let s := s.closeUp course
    match s.course course with
    | none => .next s
    | some c =>
      match c.station station with
      | none => .next s
      | some st =>
        if c.inputsDrained st then
          .next ((s.setCourse { c with stations := c.stations.map (fun (q : Station) =>
            if q.id = station then { q with closed := true } else q) }).closeUp course)
        else .next s

/-! ## Probe steps (R262) -/

/-- The station converts values into its tensors. -/
def Station.converts (st : Station) : Bool :=
  match st.typ with
  | 0x01 => decide (st.p 0 1 = 2)
  | 0x04 => decide (st.p 0 1 ≠ 2)
  | 0x05 | 0x06 | 0x07 | 0x08 | 0x09 | 0x0A | 0x0B | 0x0C | 0x0E | 0x0F | 0x10 | 0x11 => true
  | 0x0D => decide (st.p 0 1 ≠ 2)
  | 0x13 => decide (st.p 0 1 ≠ 0)
  | _ => false

/-- The stations of a course that run in probe form for a tensor: those that convert into it, but for the ones downstream of
another, which wait for its second run (R262, R263). -/
def Course.probers (c : Course) (id : Nat) : List Station :=
  let ps := c.stations.filter (fun st => st.converts && (c.outputTensors st).contains id)
  ps.filter (fun st => !ps.any (fun a => a.id != st.id && c.below a.id st.id))

/-- Every converting task into a tensor has run in probe form; a tensor that none converts into is not probed. -/
def State.probeRan (s : State) (c : Course) (id : Nat) : Bool :=
  !(c.probers id).isEmpty && (c.probers id).all (fun st => (s.openTasks c st).all st.probed.contains)

/-- The tensor is sharded over more than one device (R260). -/
def State.shardedAway (s : State) (id : Nat) : Bool :=
  let d := s.descOf id
  (List.range d.dims.length).any (s.shardedDim d)

/-- The peers' amax of a tensor, once every peer's has come. -/
def State.peerProbes (s : State) (c : Course) (id : Nat) : Option (List Nat) :=
  let got (p : Nat) : Option Nat :=
    (s.net.rounds.find? (fun r => decide (r.1 = p ∧ r.2.course = c.id ∧ r.2.func = c.desc.func ∧ r.2.step = c.step
      ∧ r.2.attempt = c.attempt) && !r.2.final && r.2.probe.any (fun q => decide (q.1 = id)))).bind
        (fun r => (r.2.probe.find? (fun q => decide (q.1 = id))).map (fun q => q.2))
  s.peers.foldl (fun (a : Option (List Nat)) p => match a, got p with
    | some l, some v => some (v :: l)
    | _, _ => none) (some [])

/-- The probe's amax is agreed: S_p is set (R262). -/
def State.setProbe (s : State) (course id a : Nat) : State :=
  match s.tensor id with
  | none => s
  | some t => s.setTensor id (some { t with weir := { t.weir with
      seen := true, probeAmax := a, probe := some (powTwo (weirExp t.desc.elemCode a)), probeBy := course } })

/-- PROBE_RUN (R262): once every converting task of a tensor has run in probe form, the amax is sent to the peers of a
sharded tensor, and when theirs have come S_p is set and the tasks may run again. -/
def execProbeRun (course tensor : Nat) (s : State) : Host.Outcome State Fault Refusal :=
  match s.course course, s.tensor tensor with
  | some c, some t =>
    if !c.active || !s.issuing || !s.needsProbe c tensor || !s.probeRan c tensor then .next s
    else if s.shardedAway tensor && !s.peers.isEmpty then
      let m : StepRound := { func := c.desc.func, course := c.id, step := c.step, attempt := c.attempt, final := false
                             probe := [(tensor, t.weir.probeAmax)] }
      let s := if c.probeSent.contains tensor then s
        else (s.setCourse { c with probeSent := insertNat tensor c.probeSent }).broadcast
          { attempt := c.attempt, epoch := c.epoch } (.stepDone m)
      match s.peerProbes c tensor with
      | none => .next s
      | some l => .next (s.setProbe course tensor (l.foldl max t.weir.probeAmax))
    else .next (s.setProbe course tensor t.weir.probeAmax)
  | _, _ => .next s

/-! ## The placer's moves (R82, R432) and the spillway (R57) -/

/-- The code of a buffer: 0 where each tile is made, 1 the CM of a core, 2 the DM of a die, 3 a tile queue of a core. -/
def bufferOf (kind unit q : Nat) : Buffer :=
  match kind with
  | 0 => .maker
  | 1 => .cm unit
  | 2 => .dm unit
  | _ => .queue unit q

/-- LOCATOR of a stream context, the placer's own (R61; log entry 107). -/
def Buffer.locator : Buffer → Nat
  | .maker => 0
  | .cm n => 2 ^ 24 + n
  | .dm n => 2 * 2 ^ 24 + n
  | .queue n q => 3 * 2 ^ 24 + n * 64 + q

/-- A stream may be mapped on a tile queue: both ends on its core, the only stream of its port, of a dense format, on a free and
empty queue (R35, R57); an overlapping copy is held in CM until its last source byte is read (R305), so it takes none. -/
def State.queueFits (s : State) (c : Course) (x : Stream) (core q : Nat) : Bool :=
  let on (id : Nat) : Bool := match c.station id with
    | some st => decide (st.place.core = core ∧ st.typ ≠ stExchange ∧ st.typ ≠ stFence)
    | none => false
  s.queueOk core q && on x.prod && on x.cons && decide ((c.outStreams x.prod x.prodPort).length = 1)
    && !(s.descOf x.tensor).sparse && (s.queueStreams core q).isEmpty && (s.queue core q).idle
    && !(match c.station x.prod, c.station x.cons with
      | some a, some b => c.copyPair a b && s.readWriteMeet c a b
      | _, _ => false)

/-- The placer may give a stream another buffer: the stream carries tiles, and where a queue is taken none stands on it (R82). -/
def State.bufferFits (s : State) (c : Course) (x : Stream) (b : Buffer) : Bool :=
  let quiet := (s.tilesOn c x false).isEmpty && x.waiting.isEmpty
  !x.completion && (match b with
    | .maker => true
    | .cm n => decide (n < s.part.cores) && !s.coreRetired n
    | .dm d => decide (d < s.part.dies)
    | .queue core q => quiet && s.queueFits c x core q)

/-- A stream takes another buffer; it leaves a queue with what stands there. -/
def State.rebuffer (s : State) (c : Course) (x : Stream) (f : Buffer) : State :=
  let s := s.unqueue c x
  match (s.course c.id).bind (fun (c : Course) => c.stream x.id) with
  | none => s
  | some y => s.setStream c.id { y with buffer := f, locator := f.locator }

/-- The placer gives streams of a course new buffers: each a stream, a kind, a core or die, and a queue. What does not fit stays
as it is. -/
def State.moveBuffers (s : State) (cid : Nat) (bufs : List (Nat × Nat × Nat × Nat)) : State :=
  bufs.foldl (fun (s : State) b =>
    match (s.course cid).bind (fun (c : Course) => (c.stream b.1).map (fun x => (c, x))) with
    | none => s
    | some (c, x) =>
      let f := bufferOf b.2.1 b.2.2.1 b.2.2.2
      if s.bufferFits c x f then s.rebuffer c x f else s) s

/-- A core that the placer may move a station to: it works and is not held. -/
def State.coreOpen (s : State) (core : Nat) : Bool :=
  decide (core < s.part.cores) && !s.coreRetired core && (s.core core).thermal != .hold

/-- STATION_MOVE (R82): the placer gives a station a new place at a tile boundary, and streams their buffers; a live pin fixes the
core. `ve` holds the VE mask and UE as byte 10 of a station entry has them (Table 2.14). -/
def execStationMove (course station core me ve mu ports : Nat) (split : Bool) (bufs : List (Nat × Nat × Nat × Nat))
    (s : State) : Host.Outcome State Fault Refusal :=
  match s.course course with
  | none => .next s
  | some c =>
    match c.station station with
    | none => .next s
    | some st =>
      let ok := match c.livePin st with
        | some n => n == core
        | none => true
      if c.active && s.issuing && ok && s.coreOpen core && s.atBoundary c st then
        let u := (s.movePlace c st {
          core := core, me := me, ve := ve % 16, ue := ve.testBit 4, mu := mu, ports := ports, split := split }).moveBuffers
            course bufs
        .next (if (u.course course).any (fun c => c.queuesFit st core) then u else s)
      else .next s

/-- The sensor of a core (R423), numbered 8 × die + sensor. -/
def coreSensor (core : Nat) : Nat :=
  let i := core % coresPerDie
  8 * (core / coresPerDie) + (if i < 5 then 0 else if i < 9 then 1 else if i < 14 then 2 else if i < 18 then 3
    else if i < 23 then 4 else if i < 27 then 5 else if i < 32 then 6 else 7)

/-- THROTTLE_C of LEVEE_CTL. -/
def State.throttleC (s : State) : Nat := s.regF .leveeCtl 0 15 8

/-- The temperature that the levee takes for a sensor; one that reports nothing stands at its throttle limit (R45). -/
def State.sensorTemp (s : State) (n : Nat) : Nat :=
  if s.power.levee.limited.contains n then s.throttleC else FMap.get (fun _ => 0) s.power.levee.temps n

/-- A core has a free engine of every kind that a station needs. -/
def State.roomFor (s : State) (st : Station) (core : Nat) : Bool :=
  (enginesOf st.typ).all (fun e =>
    decide (((s.runningOn core).filter (fun r => decide (r.engine = e.code))).length < s.enginesIn core e))

/-- A core that a station may be moved to. -/
def State.moveTarget (s : State) (st : Station) (from_ core : Nat) : Bool :=
  decide (core < s.part.cores ∧ core ≠ from_) && !s.coreRetired core && (s.core core).thermal != .hold && s.roomFor st core

/-- STATION_THERMAL_MOVE (R432): a core that stays HOT or hotter for 100 windows loses the station that charged most on
it to the coolest core with room; one station per core per 100 windows. -/
def execStationThermalMove (core target : Nat) (s : State) : Host.Outcome State Fault Refusal :=
  let k := s.core core
  if !s.issuing || k.hotWindows < 100 || k.moveWindows < 100 then .next s
  else
    match k.energy.foldl (fun (a : Option (Nat × Nat)) e => match a with
        | none => some e
        | some b => if b.2 < e.2 then some e else some b) none with
    | none => .next s
    | some top =>
      match s.course (top.1 / 2 ^ 20) with
      | none => .next s
      | some c =>
        match c.station (top.1 % 2 ^ 20) with
        | none => .next s
        | some st =>
          let coolest := s.moveTarget st core target && (List.range s.part.cores).all (fun n =>
            !s.moveTarget st core n || decide (s.sensorTemp (coreSensor target) ≤ s.sensorTemp (coreSensor n)))
          if coolest && (c.livePin st).isNone && s.atBoundary c st && c.active then
            let u := s.unqueueStation c st.id st.place.core
            match u.course c.id with
            | none => .next s
            | some c => .next ((u.movePlace c st { st.place with core := target }).setCore core
                { u.core core with moveWindows := 0 })
          else .next s

/-- The memory that holds the tile of a stream's buffer, or a copy where only copies stand: the CM of a core, or the data part of
DM of a die. -/
def State.slotAt (s : State) (course stream tile : Nat) : Option (Bool × Nat) :=
  let at' (m : Sram) (w : Bool) : Bool := m.slots.any (fun q =>
    decide (q.course = course ∧ q.stream = stream ∧ q.tile = tile ∧ q.written = w))
  let find (w : Bool) : Option (Bool × Nat) :=
    match s.cores.find? (fun kv => at' kv.2.cm w) with
    | some kv => some (true, kv.1)
    | none => (s.dm.find? (fun kv => at' kv.2 w)).map (fun kv => (false, kv.1))
  find true <|> find false

/-- The words that a read of CM or DM corrected, and those that it delivered poisoned, are counted and logged (R314). -/
def State.noteSramErr (s : State) (place : Option (Bool × Nat)) (e : SramErr) : State :=
  match place with
  | none => s
  | some (true, core) => (s.noteCes core e.ce).noteUes core e.ue e.now
  | some (false, die) =>
    let s := if e.ce = 0 then s else (s.countReg ⟨.sramErr, die, 0⟩ 15 0 e.ce).logEntry 0x0020 die noUnit deviceWide noUnit e.ce
    if e.ue = 0 then s else (s.countReg ⟨.sramErr, die, 0⟩ 31 16 e.ue).logEntry 0x0021 die noUnit deviceWide noUnit e.ue

/-- A tile of a stream is poisoned where a word of its copy could not be corrected (R70, R314). -/
def Stream.poison (x : Stream) (tile : Nat) : Stream :=
  let f (t : Tile) : Tile := if t.hdr.index = tile then t.poisoned true else t
  { x with tiles := x.tiles.map f, waiting := x.waiting.map f }

/-- A channel that carries a copy to the stacks is in service: one of the core's, for DM one of any core (R289, R312). -/
def State.spillReady (s : State) : Option (Bool × Nat) → Bool
  | some (true, core) => !(List.range 16).all (s.dmaHalted core)
  | _ => !s.coreChannelsHalted

/-- The tasks that read a tile of a stream as they fetched it go on with that copy: what the spillway makes of the tile is not seen
before the next read (R34). -/
def State.keepCopies (s : State) (c : Course) (x : Stream) (t : Tile) : State :=
  let k := t.hdr.index
  { s with journal := s.journal.map (fun kv => (kv.1, kv.2.map (fun e =>
      if e.state == .issued && !e.finished && decide (e.course = c.id ∧ e.station = x.cons)
          && !(e.copies.any (fun q => decide (q.1 = x.consPort ∧ q.2.hdr.index = k)))
          && (match c.station x.cons with
            | some q => (s.taskNeeds (taskOf c q e.tile)).contains (x.consPort, k)
            | none => false)
      then { e with copies := (x.consPort, t) :: e.copies } else e))) }

/-- SPILL (R33, R34, R57, R315): the spillway displaces a buffered tile from CM and DM, or, where only copies of it stand there,
the copies. A tile that its home has as well is discarded; every other is read, with the errors `err` of its words, and
written. -/
def execSpill (course stream tile : Nat) (err : SramErr) (s : State) : Host.Outcome State Fault Refusal :=
  let mine (w : Bool) (q : Slot) : Bool :=
    decide (q.course = course ∧ q.stream = stream ∧ q.tile = tile) && (w || !q.written)
  match s.course course with
  | none => .next s
  | some c =>
    match c.stream stream with
    | none => .next (s.dropSlots (mine false))
    | some x =>
      match (x.tiles ++ x.waiting).find? (fun t => decide (t.hdr.index = tile)) with
      | none => .next s
      | some t =>
        if !c.active || x.queued || x.state == .halted then .next s
        else if x.spilled.contains tile then .next (s.dropSlots (mine false))
        else
          let written (q : Slot) : Bool := mine true q && q.written
          if s.sameAsHome t then .next ((s.spillTile course stream t).dropSlots written)
          else if !s.canSpill c x t || !s.spillReady (s.slotAt course stream tile) then .next s
          else
            let bad := decide (0 < err.ue)
            let u := if bad then (s.keepCopies c x t).setStream course (x.poison tile) else s
            .next (((u.spillTile course stream (if bad then t.poisoned true else t)).dropSlots written).noteSramErr
              (s.slotAt course stream tile) err)

end Sys2Proof.Machine
end

