-- ==== Sys2Proof/Machine/Memory.lean ====
section
/-! DEFINITION. What the stacks do (12.2 to 12.5): training and zeroing, temperatures, reads, writes, heal writes and the
patrol scrub, and the tiles of a home as its bytes. -/

namespace Sys2Proof.Machine

/-! ## Tiles of a home as bytes (R336) -/

/-- Some byte of a tile's image lies in a byte range of the home. -/
def State.imageMeets (s : State) (d : TensorDesc) (h : Bool) (k b n : Nat) : Bool :=
  let meets (lo len : Nat) : Bool := decide (lo < b + n ∧ b < lo + len)
  if d.splitScales then
    meets (s.imageByte d h k 0) (tileBytes d.format)
      || meets (s.imageByte d h k (tileBytes d.format)) (scalesPerTile d.scaleBlk)
  else meets (s.imageByte d h k 0) d.slotBytes

/-- The halves and tiles of a dense home that a byte range meets. -/
def State.tilesAt (s : State) (t : Tensor) (b n : Nat) : List (Bool × Nat) :=
  (if t.desc.double then [false, true] else [false]).flatMap (fun h =>
    ((s.heldTiles t.desc).filter (fun k => s.imageMeets t.desc h k b n)).map (fun k => (h, k)))

/-- A tile with bytes of its home changed; bytes as they stand leave it as it is. -/
def State.patchTile (s : State) (t : Tensor) (id : Nat) (h : Bool) (k b : Nat) (poisoned : Bool) (bytes : List Byte) :
    Tile :=
  let x := t.inHalf id h k
  let old := t.desc.imageBytes x
  let new := (List.range (max old.length t.desc.homeImage)).map (fun i =>
    let a := s.imageByte t.desc h k i
    if b ≤ a ∧ a < b + bytes.length ∧ i < t.desc.homeImage then bytes.getD (a - b) 0 else old.getD i 0)
  let y := if new.take old.length = old then x else t.desc.readImage id k x.hdr.gen x.hdr.epoch new
  { y with hdr := { y.hdr with poison := x.hdr.poison || poisoned } }

/-- The index entry of a block as the bytes of its home stand. -/
def State.entryAt (s : State) (t : Tensor) (h : Bool) (k : Nat) : Nat :=
  leNat (s.homeRange t (s.blockPlace t.desc h k).1 8)

/-- Bytes of the data that an entry names, at most. -/
def TensorDesc.entrySpan (d : TensorDesc) (entry : Nat) : Nat :=
  blockSize (entry % 8) (entry / 8 % 2 ^ 13) (scalesPerTile d.scaleBlk) (codeBits d.valueFormat)

/-- A block of a sparse home as its bytes stand (R189): the block, or the cause with the byte of the home that fails. -/
def State.readHomeBlock (s : State) (id : Nat) (t : Tensor) (h : Bool) (k : Nat) : Except Violation Tile :=
  let d := t.desc
  let p := s.blockPlace d h k
  let entry := s.entryAt t h k
  let data := p.2 + 64 * (entry / 2 ^ 24)
  let room := d.pool * 65536 - 64 * (entry / 2 ^ 24)
  match d.readBlock id k (some (d.pool * 65536)) entry (s.homeRange t data (min (d.entrySpan entry) room)) with
  | .error v => .error (v.1, if v.1 ≤ 0x02 ∨ v.1 = 0x12 then p.1 else data + v.2)
  | .ok x => .ok x

/-- The halves and blocks of a sparse home whose entry or data a byte range meets; not those of a generation that a step builds,
which reaches the home with its compaction copy. -/
def State.blocksAt (s : State) (t : Tensor) (b n : Nat) : List (Bool × Nat) :=
  let meets (lo len : Nat) : Bool := decide (lo < b + n ∧ b < lo + len)
  (if t.desc.double then [false, true] else [false]).flatMap (fun h =>
    ((s.heldTiles t.desc).filter (fun k =>
      !(t.building && h != t.curHalf k) &&
      let p := s.blockPlace t.desc h k
      let e := s.entryAt t h k
      meets p.1 8 || meets (p.2 + 64 * (e / 2 ^ 24)) (t.desc.entrySpan e))).map (fun k => (h, k)))

/-- A sparse tensor with a block read again from its home. -/
def State.rereadBlock (s : State) (id : Nat) (t : Tensor) (h : Bool) (k : Nat) : Tensor :=
  match s.readHomeBlock id t h k with
  | .ok x => t.putHalf id h k (x.poisoned (t.inHalf id h k).hdr.poison)
  | .error v => { t with broken := FMap.set (fun _ => 0) t.broken (brokenKey h k) (v.1 + 256 * v.2) }

/-- Bytes written into a home by a client other than a station, or delivered by a read of it (R324), change its tiles; the blocks
of a sparse home are read again as their bytes stand (R170). -/
def State.patchHome (s : State) (id b : Nat) (poisoned : Bool) (bytes : List Byte) : State :=
  match s.tensor id with
  | none => s
  | some t =>
    if t.view.isSome then s
    else if t.desc.sparse then
      s.setTensor id (some ((s.blocksAt t b bytes.length).foldl (fun x q => s.rereadBlock id x q.1 q.2) t))
    else
      s.setTensor id (some ((s.tilesAt t b bytes.length).foldl
        (fun (x : Tensor) q => x.putHalf id q.1 q.2 (s.patchTile t id q.1 q.2 b poisoned bytes)) t))

/-- The lines that hold a tile's bytes, or a block's entry and data, as home bytes. -/
def State.linesOf (s : State) (t : Tensor) (h : Bool) (k : Nat) : List Nat :=
  if t.desc.sparse then
    let p := s.blockPlace t.desc h k
    let e := s.entryAt t h k
    let a := p.2 + 64 * (e / 2 ^ 24)
    p.1 :: (List.range (t.desc.dataSize (t.inHalf 0 h k) / 64)).map (fun i => a + 64 * i)
  else s.slotLines t.desc h k

/-- The poison of the tiles that a line belongs to, as the lines of their slots stand (R70). -/
def State.syncPoison (s : State) (stack line : Nat) : State :=
  match s.homeAt stack line with
  | none => s
  | some (id, t) =>
    let b := t.byteOfLine stack line
    s.setTensor id (some ((if t.desc.sparse then s.blocksAt t b 64 else s.tilesAt t b 64).foldl (fun (x : Tensor) q =>
      let bad := (s.linesOf t q.1 q.2).any (fun a => let p := t.homeByte a; s.lineBad p.1 (p.2 / 64))
      { x.putHalf id q.1 q.2 ((x.inHalf id q.1 q.2).poisoned bad) with broken := x.broken }) t))

/-- What a line now delivers reaches the tiles of its home: its bytes, or the poison (R324). -/
def State.takeLine (s : State) (stack line : Nat) : State :=
  match s.homeAt stack line with
  | none => s
  | some (id, t) =>
    let b := t.byteOfLine stack line
    (if s.lineBad stack line then s else s.patchHome id b false (s.homeLine t b)).syncPoison stack line

/-! ## Start-up (R318, R320) -/

/-- A stack of the package that is not retired. -/
def State.stackOn (s : State) (stack : Nat) : Bool := decide (stack < s.part.stackCount) && !s.stackRetired stack

/-- STACK_TRAINING_DONE (R318): the bin reached (0 A, 1 B, 2 C), or 3 where training failed at bin C and the stack
retires. -/
def execStackTrainingDone (stack bin : Nat) (s : State) : Host.Outcome State Fault Refusal :=
  let k := s.stack stack
  if s.part.stackCount ≤ stack ∨ k.trained ∨ 3 < bin then .next s
  else
    let r : Reg := ⟨.stackStat, stack, 0⟩
    let s := (s.setStack stack { k with trained := true }).setReg r (setF (s.reg r) 30 29 bin)
    if bin < 3 then .next s
    else .next ((s.latch r 31).logEntry 0x0026 (stack / 8) stack deviceWide stack 0)

/-- STACK_ZEROING_DONE (R320): every line holds zero data with valid check bytes. -/
def execStackZeroingDone (stack : Nat) (s : State) : Host.Outcome State Fault Refusal :=
  let k := s.stack stack
  if !s.stackOn stack || !k.trained || k.zeroed then .next s
  else .next (s.setStack stack { k with zeroed := true, lines := [], dir := [], heals := [], scrub := 0 })

/-! ## Temperatures (R321, R426) -/

/-- STACK_LIMIT_C of LEVEE_CTL. -/
def State.stackLimit (s : State) : Nat := s.regF .leveeCtl 0 7 0

/-- The divisor of a controller's request rate at a temperature (R426). -/
def State.rateAt (s : State) (temp : Nat) : Nat :=
  if s.stackLimit + 10 ≤ temp then 4 else if s.stackLimit ≤ temp then 2 else 1

/-- STACK_TEMP_READ (R321): the temperature and the refresh multiple (0 1×, 1 2×, 2 4×). -/
def execStackTempRead (stack temp mult : Nat) (s : State) : Host.Outcome State Fault Refusal :=
  if !s.stackOn stack || decide (2 < mult) then .next s
  else
    let r : Reg := ⟨.stackStat, stack, 0⟩
    let s := s.setReg r (setF (setF (s.reg r) 23 16 (min 255 temp)) 15 14 mult)
    .next (s.setStack stack { s.stack stack with missing := 0, rate := s.rateAt temp })

/-- STACK_TEMP_MISSING (R321): a reading does not come; after the fourth in a row the stack counts as at its limit, and
that is logged. -/
def execStackTempMissing (stack : Nat) (s : State) : Host.Outcome State Fault Refusal :=
  if !s.stackOn stack then .next s
  else
    let k := s.stack stack
    if 4 ≤ k.missing then .next s
    else if k.missing = 3 then
      .next ((s.setStack stack { k with missing := 4, rate := s.rateAt s.stackLimit }).logEntry 0x0050 (stack / 8) stack
        deviceWide stack 1)
    else .next (s.setStack stack { k with missing := k.missing + 1 })

/-! ## Reads and writes (R319, R324 to R326) -/

/-- A line that a stack holds. -/
def State.lineOk (s : State) (stack line : Nat) : Bool :=
  s.stackOn stack && (s.stack stack).zeroed && decide (line < stackLines)

/-- The changes that a line has met in the stack's cells. -/
def State.damage (s : State) (stack line : Nat) (ds : List (Nat × Byte)) : State :=
  let k := s.stack stack
  if ds.isEmpty then s else s.setStack stack (k.setLine line (damageLine (k.line line) ds))

/-- A corrected line of three or four bytes queues its heal write. -/
def State.queueHeal (s : State) (stack line : Nat) (r : ReadStep) : State :=
  match r with
  | .decoded (.corrected l n) =>
    if 3 ≤ n then
      let k := s.stack stack
      s.setStack stack { k with heals := k.heals.filter (fun h => h.1 ≠ line) ++ [(line, l)] }
    else s
  | _ => s

/-- The line as delivered: decrypted for a polder, poisoned without its key (R330). -/
def State.deliverLine (s : State) (stack line : Nat) (b : List Byte × Bool) : State :=
  let put (s : State) (x : List Byte × Bool) : State :=
    s.setStack stack { s.stack stack with delivered := some x }
  match s.lineKey stack line with
  | some none => put (s.logEntry 0x0025 (stack / 8) stack deviceWide (64 * line) 0) (b.1, true)
  | key => put s (cipher false (key.getD none) stack line b.1, b.2)

/-- STACK_READ_RETURN (R324): a line read, decoded, decrypted and delivered; `damage` is what the cells did to it since
its last access, and `j` the journal entry of the task that reads it. -/
def execStackReadReturn (stack line : Nat) (damage : List (Nat × Byte)) (j : Option Nat) (s : State) :
    Host.Outcome State Fault Refusal :=
  if !s.lineOk stack line then .next s
  else
    let s := s.damage stack line damage
    let r := s.readStep stack line
    let b := s.readBytes stack line r
    let s := ((s.countRead stack line 0x0023 r).queueHeal stack line r).deliverLine stack line b
    let bad := match (s.stack stack).delivered with
      | some x => x.2
      | none => false
    let s := s.takeLine stack line
    match j with
    | some j => .next (if bad then
        (match s.entry j with
          | some e => s.setEntry j (some { e with poisoned := true })
          | none => s) else s)
    | none => .next s

/-- STACK_WRITE (R319): a line written by a client, in clear, with the poison mark where its tile is poisoned. -/
def execStackWrite (stack line : Nat) (data : List Byte) (poisoned : Bool) (s : State) :
    Host.Outcome State Fault Refusal :=
  if !s.lineOk stack line then .next s
  else
    let data := fitBytes 64 data
    let s' := s.writeLine stack line poisoned data
    match s.homeAt stack line, s.lineKey stack line with
    | some _, some none => .next s'
    | some (id, t), _ => .next ((s'.patchHome id (t.byteOfLine stack line) false data).syncPoison stack line)
    | none, _ => .next s'

/-! ## Heal writes and scrub (R327, R328) -/

/-- HEAL_WRITE (R328): the oldest queued heal write issues; a newer write of its line has dropped it. -/
def execHealWrite (stack : Nat) (s : State) : Host.Outcome State Fault Refusal :=
  let k := s.stack stack
  match k.heals with
  | [] => .next s
  | (n, l) :: rest =>
    if !s.stackOn stack || k.dir.contains n then .next (s.setStack stack { k with heals := rest })
    else .next (s.setStack stack { k.setLine n l with heals := rest })

/-- What the scrub does with a line that it has read. -/
def State.scrubbed (s : State) (stack line : Nat) (r : ReadStep) : State :=
  let k := s.stack stack
  match r with
  | .decoded (.corrected l _) => s.setStack stack { k.setLine line l with heals := k.heals.filter (fun h => h.1 ≠ line) }
  | .decoded .bad =>
    if (s.homeAt stack line).isSome || (s.spaceAt stack line).isSome then
      (s.writeMark stack line (k.line line).data).syncPoison stack line
    else s.setStack stack (k.writeFresh line (List.replicate 64 0))
  | _ => s

/-- A system channel of a stack's die is in service for the scrub (R289, R327). -/
def State.scrubChannel (s : State) (stack : Nat) : Bool :=
  !(List.range 32).all (fun ch => getBit (s.reg ⟨.sysDmaStat, 32 * (stack / 8) + ch, 0⟩) 31)

/-- SCRUB_READ (R327): the next line of the patrol scrub; at the end of a pass `odecc`, the stack's own error counter, is
taken. -/
def execScrubRead (stack : Nat) (damage : List (Nat × Byte)) (odecc : Nat) (s : State) : Host.Outcome State Fault Refusal :=
  let n := (s.stack stack).scrub
  if !s.lineOk stack n || s.regF .stackCtl stack 7 0 == 0 || !s.scrubChannel stack then .next s
  else
    let s := s.damage stack n damage
    let r := s.readStep stack n
    let s := (s.countRead stack n 0x0024 r).scrubbed stack n r
    let s := if damage.isEmpty then s else s.takeLine stack n
    let s := s.setStack stack { s.stack stack with scrub := (n + 1) % stackLines }
    let e : Reg := ⟨.memErr, stack, 0⟩
    if n + 1 = stackLines then .next (s.setReg e (setF (s.reg e) 15 0 (min 65535 odecc))) else .next s

end Sys2Proof.Machine
end

