-- ==== Sys2Proof/Machine/Steps.lean ====
section
/-! DEFINITION. The step lifecycle (17.1): the completion of a course with its step round (R360, R406), repeats and
their end (R361, R362, R449), STEP_COMMIT with the comparison of a redundant pair (R447, R461 to R464), and STEP_ABORT. -/

namespace Sys2Proof.Machine

/-! ## The end of a course -/

/-- A course ends with a status that is neither OK nor VETO: a step course tells the mesh (R360). -/
def State.endEarly (s : State) (c : Course) (status detail id : Nat) (logged : Bool) : State :=
  let s := s.tellFailure c
  ((s.noteGauge c c.veto).writeRecords c c.veto).endCourse (c.withGauge c.veto) status detail id logged

/-- Every station has closed and every stream is drained. -/
def Course.allClosed (c : Course) : Bool :=
  c.stations.all (fun st => st.closed) && c.streams.all (fun x => x.state == .drained)

/-- The tensors that the course has converted into and that are sharded over other devices, with what the weir saw (R260). -/
def State.weirShares (s : State) (c : Course) : List (Nat × Nat × Bool) :=
  c.names.filterMap (fun id => match s.tensor id with
    | some t => if t.weir.seen && s.shardedAway id then some (id, t.weir.amax, t.weir.ovf) else none
    | none => none)

/-- This device's STEP_DONE of a course (R360). -/
def State.stepDoneOf (s : State) (c : Course) : StepRound where
  func := c.desc.func
  course := c.id
  step := c.step
  attempt := c.attempt
  final := true
  veto := c.veto
  weir := s.weirShares c
  probe := c.probeSent.filterMap (fun id => (s.tensor id).map (fun (t : Tensor) => (id, t.weir.probeAmax)))

/-- A peer's STEP_DONE for a course's attempt. -/
def State.peerDone (s : State) (c : Course) (p : Nat) : Option StepRound :=
  (s.net.rounds.find? (fun r => decide (r.1 = p ∧ r.2.func = c.desc.func ∧ r.2.course = c.id ∧ r.2.step = c.step
    ∧ r.2.attempt = c.attempt) && r.2.final)).map (fun r => r.2)

/-- The amax and overflow of a peer enter the weir of a sharded tensor. -/
def State.mergeWeir (s : State) (w : Nat × Nat × Bool) : State :=
  match s.tensor w.1 with
  | none => s
  | some t =>
    s.setTensor w.1 (some { t with weir := { t.weir with
      seen := true, amax := max t.weir.amax w.2.1, ovf := t.weir.ovf || w.2.2 } })

/-- Every device's round is here: the veto is agreed, the weir decides, the records and the completion are written. -/
def State.closeStep (s : State) (c : Course) (rounds : List StepRound) : State :=
  let veto := c.veto || rounds.any (fun r => r.veto)
  let s := (rounds.flatMap (fun r => r.weir)).foldl State.mergeWeir s
  let s := s.runWeir c veto
  let s := s.keepDry c veto
  let s := (s.noteGauge c veto).writeRecords c veto
  s.endCourse (c.withGauge veto) (if veto then 0x0015 else 0x0000) 0 0 false

/-- The tasks of a halted or cancelled course have come to their tile boundaries (R63, R386), and none waits for a replay that
lifts the halt of a corrupt context (R62). -/
def State.tasksEnd (s : State) (c : Course) : Bool :=
  ((s.journal.filterMap (fun kv => kv.2)).filter (fun e => decide (e.course = c.id))).all (fun e =>
    e.state != .issued && !(c.corrupted && c.cancelled.isNone && e.state == .abandoned))

/-- The course ends as its halt or its cancellation says. -/
def State.endStopped (s : State) (c : Course) : Option State :=
  match c.cancelled with
  | some ep => if s.tasksEnd c then some (s.endEarly c 0x0016 ep 0 false) else none
  | none =>
    match c.halt with
    | some h => if s.tasksEnd c then some (s.endEarly c h.status h.detail h.id h.logged) else none
    | none => none

/-- The completion of a course whose stations have all closed: sparse generations are judged, a step course joins its
round, and with every peer's message the course completes (R360, R406). -/
def State.tryComplete (s : State) (c : Course) : State :=
  if !c.joined then
    let s := s.judge c
    match s.course c.id with
    | none => s
    | some c =>
      match s.endStopped c with
      | some s => s
      | none =>
        if !c.stepMode then
          ((s.noteGauge c false).writeRecords c false).endCourse (c.withGauge false) 0x0000 0 0 false
        else
          let s := s.broadcast c.ctrlHdr (.stepDone (s.stepDoneOf c))
          let c := { c with joined := true }
          let s := s.setCourse c
          match s.peers.mapM (s.peerDone c) with
          | some rs => s.closeStep c rs
          | none => s
  else
    match s.peers.mapM (s.peerDone c) with
    | some rs => s.closeStep c rs
    | none => s

/-- COURSE_COMPLETE (R406): a course that was stopped, or whose stations have all closed, writes its records and
completes. -/
def execCourseComplete (course : Nat) (s : State) : Host.Outcome State Fault Refusal :=
  let s := s.closeUp course
  match s.course course with
  | none => .next s
  | some c =>
    if !c.started || !s.issuing then .next s
    else
      match s.endStopped c with
      | some s' => .next s'
      | none => if c.allClosed && c.halt.isNone && c.cancelled.isNone then .next (s.tryComplete c) else .next s

/-! ## Repeats (R361, R362, R449, R450) -/

/-- A station at the start of its course. -/
def Station.fresh (st : Station) : Station :=
  { st with
    done := [], probed := [], closed := false, diag := {}, side := {}, kept := [], differing := [], landed := [], bases := [], pass1 := none }

/-- A stream at the start of its course. -/
def Stream.fresh (x : Stream) : Stream :=
  { x with state := .opened, produced := 0, consumed := 0, tiles := [], waiting := [], spilled := [] }

/-- The course at the start of an attempt. -/
def Course.fresh (c : Course) (attempt : Nat) : Course :=
  { c with
    attempt := attempt, halt := none, veto := false, flags := 0, joined := false, probeSent := [], undo := []
    started := true, ctx := true
    stations := c.stations.map Station.fresh
    streams := c.streams.map Stream.fresh }

/-- A channel without the instance of a course. -/
def XChan.without (x : XChan) (course : Nat) : XChan :=
  match x.current with
  | some k => if k.course = course then { x with current := none } else x
  | none => x

/-- What the network holds for an earlier attempt of a course goes. -/
def State.clearAttempt (s : State) (c : Course) (attempt : Nat) : State :=
  { s with net := { s.net with
      inbox := s.net.inbox.filter (fun p => p.key.course ≠ c.id)
      xsent := s.net.xsent.filter (fun q => q.key.course ≠ c.id)
      rounds := s.net.rounds.filter (fun r => !(decide (r.2.course = c.id ∧ r.2.func = c.desc.func ∧ r.2.attempt < attempt)))
      requests := s.net.requests.filter (fun r => r.key.course ≠ c.id)
      channels := (s.net.channels.map (fun q => (q.1, q.2.without c.id))).filter (fun q => q.2 ≠ {}) } }

/-- The blocks that a course's mask stations have rewritten stand again as before them, and in the lines of the homes that
they were written into in place (R217). -/
def State.undoMasks (s : State) (c : Course) : State :=
  (sortNat (c.undo.map (fun u => u.1))).foldl (fun (s : State) id =>
    match s.tensor id with
    | none => s
    | some t =>
      let t := (c.undo.filter (fun u => decide (u.1 = id))).reverse.foldl (fun (t : Tensor) u =>
        t.putHalf id u.2.1 u.2.2.1 u.2.2.2) t
      let s := s.setTensor id (some t)
      if t.toNext c.stepMode then s else s.writeBlocks id t (t.curHalf 0)) s

/-- The probes that a course has made are undone: a repeated probe step probes again (R262). -/
def State.undoProbes (s : State) (c : Course) : State :=
  { s with tensors := s.tensors.map (fun kv => (kv.1, kv.2.map (fun (t : Tensor) =>
      if t.weir.probe.isSome && t.weir.probeBy = c.id then { t with weir := { t.weir with probe := none } } else t))) }

/-- The step course is rerun from its start at an attempt (R449), which REPEATS counts; a completed one comes back from its
copy. -/
def State.rerun (s : State) (c : Course) (attempt : Nat) : State :=
  let f := c.desc.func
  let s := (((s.dropEntries c.id).clearQueues c).clearAttempt c attempt).undoMasks c
  let s := s.undoProbes c
  let c := c.fresh attempt
  let s := match s.course c.id with
    | some _ => s.setCourse c
    | none =>
      let c := { c with streams := (s.grantSpaces c (c.streams.map (fun (x : Stream) => { x with space := none }))).getD c.streams }
      { s with courses := insertCourse c s.courses, copies := s.copies.filter (fun (e : Course) => e.id ≠ c.id) }
  let s := s.setStepM f { s.stepM f with state := .repeating, attempt := attempt, rerun := some c.id }
  s.countReg ⟨.netXstat, 0, 0⟩ 31 16 1

/-- The step course that a name names, running or completed in the open step. -/
def State.stepCourse (s : State) (n : StepName) : Option Course :=
  let mine (c : Course) : Bool := c.stepMode && decide (c.desc.func = n.func ∧ c.id = n.course ∧ c.step = n.step)
  match s.courses.find? mine with
  | some c => some c
  | none => s.copies.find? mine

/-- The open step of a function is this one. -/
def State.stepIs (s : State) (f step : Nat) : Bool :=
  let m := s.stepM f
  m.state != .idle && decide (m.step = step)

/-- An attempt fails for good: the mesh is told, the course completes with TIMEOUT, and the fault is logged (R362). -/
def State.giveUp (s : State) (c : Course) : State :=
  let s := s.logFor 0x0045 c.desc.func c.id c.step
  let s := s.tellFailure c
  if (s.course c.id).isSome then
    ((s.noteGauge c c.veto).writeRecords c c.veto).endCourse (c.withGauge c.veto) 0x0017 c.attempt 0 true
  else
    -- a course that has completed comes back to end with TIMEOUT
    let s := { s with courses := insertCourse c s.courses, copies := s.copies.filter (fun (e : Course) => e.id ≠ c.id) }
    s.endCourse c 0x0017 c.attempt 0 true

/-- The device awaits a contribution of another one for a course (R361): a STEP_DONE, an answer of an expert's owner, what another
participant hands on to an instance that the course runs, or a probe's amax. -/
def State.awaits (s : State) (c : Course) : Bool :=
  (c.joined && s.peers.any (fun p => (s.peerDone c p).isNone))
    || s.net.requests.any (fun r => decide (r.key.course = c.id) && r.sent && !r.done)
    || s.net.channels.any (fun q => match q.2.current with
      | some k => decide (k.course = c.id) && (match c.station k.station with
          | some st => !st.done.contains k.port
          | none => false)
      | none => false)
    || c.probeSent.any (fun id => match s.tensor id with
      | some t => t.weir.probe.isNone
      | none => false)

/-- STEP_TIMEOUT (R361, R362): a contribution that the device awaits from another one has not come in time. A step course is
repeated on the whole mesh, up to attempt 3; a plain course ends with TIMEOUT. -/
def execStepTimeout (course : Nat) (s : State) : Host.Outcome State Fault Refusal :=
  match s.course course with
  | none => .next s
  | some c =>
    if !c.active || !s.issuing || !s.awaits c then .next s
    else if !c.stepMode then
      let s := s.logFor 0x0045 c.desc.func c.id 0
      .next (s.setCourse { c with halt := some { status := 0x0017 } })
    else if c.attempt < 3 then
      let s := s.logFor 0x0044 c.desc.func c.id c.step
      let s := s.broadcast c.ctrlHdr (.repeatStep (c.stepName (c.attempt + 1)))
      .next (s.rerun c (c.attempt + 1))
    else
      .next (s.giveUp c)

/-- A REPEAT arrives (R361, R450): an open step reruns the course at the attempt named, with a REPEAT of its own to the mesh; a
step that this device has closed answers GIVE_UP; an attempt that is not newer is passed over. -/
def State.onRepeat (s : State) (peer : Nat) (n : StepName) : State :=
  let m := s.stepM n.func
  if s.stepIs n.func n.step then
    if m.state = .failed then s
    else
      match s.stepCourse n with
      | none => s
      | some c =>
        if n.attempt ≤ c.attempt then s
        else if 3 < n.attempt then s.giveUp c
        else
          ((s.logFor 0x0044 n.func n.course n.step).broadcast c.ctrlHdr (.repeatStep (c.stepName n.attempt))).rerun c n.attempt
  else if m.past.contains n.step then
    (s.logFor 0x0044 n.func n.course n.step).sendCtrl peer { attempt := n.attempt } (.giveUp n)
  else s

/-- A GIVE_UP arrives: the step course ends with TIMEOUT, one that has completed in the open step too (R362). -/
def State.onGiveUp (s : State) (n : StepName) : State :=
  if !s.stepIs n.func n.step || (s.stepM n.func).state == .failed then s
  else
    match s.stepCourse n with
    | none => s
    | some c => s.giveUp c

/-! ## The digests of a redundant pair (R461, R462) -/

/-- CRC-64 of each 65,536-byte unit of an image: unit number and digest. -/
def unitDigests (image : List Byte) : List (Nat × Nat) :=
  (List.range (ceilDiv image.length 65536)).map (fun u => (u, (crc64 ((image.drop (65536 * u)).take 65536)).toNat))

/-- The tile of a slot in the generation that a step writes. -/
def Tensor.nextTile (t : Tensor) (id k : Nat) : Tile := t.dest true id k

/-- Held tiles by ascending slot. -/
def State.bySlot (s : State) (d : TensorDesc) : List Nat :=
  let ks := s.heldTiles d
  (List.range ks.length).filterMap (fun n => ks.find? (fun k => decide (s.slot d k = n)))

/-- The digest image of a dense tensor: its slots in order, then the split scales. -/
def State.denseImage (s : State) (id : Nat) (t : Tensor) : List Byte :=
  let ks := s.bySlot t.desc
  let tiles := ks.map (t.nextTile id)
  if t.desc.splitScales then
    padTo 64 (tiles.flatMap t.desc.elemBytes) ++ padTo 64 (tiles.flatMap (fun x => x.scaleBytes t.desc.scaleBlk))
  else tiles.flatMap t.desc.imageBytes

/-- The digest image of a sparse tensor: the half being built, in canonical form. -/
def State.sparseImage (s : State) (id : Nat) (t : Tensor) : List Byte :=
  t.desc.generationBytes ((s.heldTiles t.desc).map (t.inHalf id (!t.flag)))

/-- A dense unit holds a tile that the step wrote. -/
def State.unitWritten (s : State) (t : Tensor) (u : Nat) : Bool :=
  (s.heldTiles t.desc).any (fun k => t.isWritten k && s.imageMeets t.desc false k (65536 * u) 65536)

/-- The 64-byte state record of the generation written. -/
def ScaleRec.bytes (r : ScaleRec) : List Byte := fitBytes 64 (Config.stateRecord r.s r.h r.valid r.clean)

/-- The digests of a tensor that the step wrote: units by number, and one unit more for its state record. -/
def State.tensorDigests (s : State) (id : Nat) (t : Tensor) : List (Nat × Nat × Nat) :=
  let image := if t.desc.sparse then s.sparseImage id t else s.denseImage id t
  let us := (unitDigests image).filter (fun u => t.desc.sparse || s.unitWritten t u.1)
  us.map (fun u => (id, u.1, u.2))
    ++ (match t.scaleNext with
      | some r => [(id, ceilDiv image.length 65536, (crc64 r.bytes).toNat)]
      | none => [])

/-- The step of a function has written the tensor (R333, R334). -/
def Tensor.stepWrote (t : Tensor) : Bool := !t.written.isEmpty || t.building

/-- The digests of a function's step, in ascending tensor id and unit. -/
def State.stepDigests (s : State) (f : Nat) : List (Nat × Nat × Nat) :=
  s.tensors.flatMap (fun kv => match kv.2 with
    | some t => if t.func = f && (t.stepWrote || t.scaleNext.isSome) then s.tensorDigests kv.1 t else []
    | none => [])

/-- Classes of hardware evidence (column E of Table 17.5). -/
def evidenceClass (cls : Nat) : Bool :=
  [0x10, 0x13, 0x14, 0x15, 0x16, 0x17, 0x18, 0x21, 0x23, 0x24, 0x26, 0x27, 0x28, 0x29, 0x52, 0x54, 0x60].contains cls

/-- This package has hardware evidence since the step opened. -/
def State.hasEvidence (s : State) (m : StepM) : Bool :=
  (s.log.drop (s.log.length - (s.logTotal - m.mark))).any (fun e => evidenceClass e.cls)

/-- Units whose digest is not the peer's. -/
def mismatches (own peer : List (Nat × Nat × Nat)) : List (Nat × Nat × Nat) := own.filter (fun u => !peer.contains u)

/-- Units that differ are logged and counted (R463). -/
def State.logMismatches (s : State) (f : Nat) (us : List (Nat × Nat × Nat)) : State :=
  (us.foldl (fun (s : State) u => s.logFor 0x0061 f u.1 u.2.1) s).countReg ⟨.pairStat, 0, 0⟩ 15 0 us.length

/-- Set or clear a bit of PAIR_STAT. -/
def State.pairBit (s : State) (bit : Nat) (v : Bool) : State :=
  let r : Reg := ⟨.pairStat, 0, 0⟩
  s.setReg r (setBit (s.reg r) bit v)

/-- This package is fenced: its compute stops, and its descriptors complete with PAIR_FENCED (R464). -/
def State.fenceSelf (s : State) : State :=
  (((s.logFor 0x0062 deviceWide 0 0).pairBit 29 true).pairBit 31 false).raiseFault 6

/-- The other package is fenced: mirror mode ends, and this one goes on alone (R464). -/
def State.fencePeer (s : State) : State :=
  ((s.logFor 0x0062 deviceWide 1 0).pairBit 30 true).pairBit 31 false

/-- How the comparison of a pair's digests ends (R463, R464). -/
inductive PairVerdict where
  | agreed
  | peerFenced
  | selfFenced
  | diverged
  deriving DecidableEq, Repr

/-- The comparison of R463 and R464. -/
def State.pairVerdict (s : State) (f : Nat) (peer : PairDigests) : PairVerdict :=
  let own := s.stepDigests f
  if (mismatches own peer.first).isEmpty then .agreed
  else if (mismatches own peer.again).isEmpty then .agreed
  else
    match s.hasEvidence (s.stepM f), peer.evidence with
    | true, false => .selfFenced
    | false, true => .peerFenced
    | _, _ => .diverged

/-! ## STEP_COMMIT (R446 to R448) -/

/-- The event record of a dry layer (R258): the UPDATE record with SOURCE 0b11 and DRY_RUN equal to the counter. -/
def eventRecord (rec_ : List Byte) (run : Nat) (lost : Bool) : List Byte :=
  let w := leAt rec_ 0 4
  let base := w - w / 2 ^ 26 % 4 * 2 ^ 26 - w / 2 ^ 28 % 2 * 2 ^ 28
  toLe 4 (base + 3 * 2 ^ 26 + (if lost then 2 ^ 28 else 0)) ++ (rec_.drop 4).take 24 ++ satLe 2 run ++ rec_.drop 30

/-- The dry counter and fired bit after a committed step, and whether the event is due (R257, R258). -/
def Tensor.dryNext (t : Tensor) (rec_ : List Byte) (dryN : Nat) (en : Bool) : Tensor × Bool :=
  let w := leAt rec_ 0 4
  if w.testBit 31 then (t, false)
  else if w.testBit 29 then
    let n := min 65535 (t.dry + 1)
    let fire := decide (dryN ≤ n) && !t.fired && en
    ({ t with dry := n, fired := t.fired || fire }, fire)
  else ({ t with dry := 0, fired := false }, false)

/-- The maps, the generation number and the scale state of a tensor at a commit (R333, R334, R101). -/
def Tensor.commit (t : Tensor) : Tensor :=
  let t := if t.desc.sparse then
      (if t.building then
        { t with flag := !t.flag, building := false, genNo := (t.genNo + 1) % 2 ^ 64, incomplete := t.incomplete && !t.whole }
      else t)
    else if t.written.isEmpty then t
    else
      { t with
        map := (sortNat (t.written.map (fun w => w.1))).foldl (fun m k =>
          if t.isWritten k then FMap.set (fun _ => false) m k (!FMap.get (fun _ => false) m k) else m) t.map
        genNo := (t.genNo + 1) % 2 ^ 64 }
  (({ t with written := [], scale := t.scaleNext.getD t.scale, scaleNext := none, weir := {}, dryRec := none
             before := none, inPlace := [], whole := false } : Tensor)).settleClean true

/-- A tensor after a skip commit (R448) or, without its state record, after an abort (R451). -/
def Tensor.discard (t : Tensor) (keepState : Bool) : Tensor :=
  (({ t with written := [], building := false, scale := if keepState then t.scaleNext.getD t.scale else t.scale
             scaleNext := none, weir := {}, dryRec := none } : Tensor)).settleClean false

/-- Change every tensor of a function. -/
def State.eachTensor (s : State) (f : Nat) (g : Tensor → Tensor) : State :=
  { s with tensors := s.tensors.map (fun kv => (kv.1, kv.2.map (fun (t : Tensor) => if t.func = f then g t else t))) }

/-- The dry counters of a committed step: the tensors of which an event is due. -/
def State.dryStep (s : State) (f : Nat) : State × List (Nat × List Byte) :=
  let n := s.regF .gaugeCtl 0 15 0
  let en := getBit (s.reg ⟨.gaugeCtl, 0, 0⟩) 31
  s.tensors.foldl (fun (a : State × List (Nat × List Byte)) kv => match kv.2 with
    | some t =>
      match t.dryRec with
      | some r =>
        if t.func ≠ f then a
        else
          let q := t.dryNext r n en
          (a.1.setTensor kv.1 (some q.1), if q.2 then a.2 ++ [(q.1.dry, r)] else a.2)
      | none => a
    | none => a) (s, [])

/-- The machine returns to IDLE with a step closed. -/
def State.closeMachine (s : State) (f step : Nat) (committed : Bool) : State :=
  let m := s.stepM f
  let m := { m with state := .idle, past := insertNat step m.past, rerun := none, vetoed := false }
  let m := if committed then { m with lastValid := true, lastStep := step, lastSeed := m.seed } else m
  let s := s.setStepM f m
  { s with copies := s.copies.filter (fun (c : Course) => !(decide (c.desc.func = f ∧ c.step = step))) }

/-- The commit itself (R447): maps, generation numbers, scales and dry counters together; then the events, and the
completion record. -/
def State.commitStep (s : State) (d : Desc) (step : Nat) (logged : Bool) : State :=
  let f := d.func
  let q := s.dryStep f
  let s := q.1.eachTensor f Tensor.commit
  let s := q.2.foldl (fun (s : State) e =>
    (s.gaugeWrite (eventRecord e.2 e.1)).latch ⟨.gaugeStatus, 0, 0⟩ 16) s
  let s := s.closeMachine f step true
  s.complete d { d.record 0x0000 with dry := !q.2.isEmpty, logged := logged }

/-- The skip commit (R448). -/
def State.skipStep (s : State) (d : Desc) (step : Nat) : State :=
  let s := s.eachTensor d.func (fun t => t.discard true)
  (s.closeMachine d.func step true).completeStatus d 0x0000

/-- The commit of a COMPLETE step; in mirror mode the digests are compared first. -/
def State.pairCommitStep (s : State) (d : Desc) (step : Nat) (peer : PairDigests) : State :=
  let s := s.applyGroup 0 3
  if !s.mirror then s.commitStep d step false
  else
    let f := d.func
    let v := s.pairVerdict f peer
    let bad := mismatches (s.stepDigests f) peer.first
    let s := if bad.isEmpty then s else s.logMismatches f bad
    match v with
    | .agreed => s.commitStep d step false
    | .peerFenced => s.fencePeer.commitStep d step true
    | .selfFenced => s.fenceSelf
    | .diverged => s.raiseFault 5

/-- A step course of the step, fetched before the descriptor, has not completed. -/
def State.stepWaits (s : State) (d : Desc) (step : Nat) : Bool :=
  s.courses.any (fun c => c.stepMode && decide (c.desc.func = d.func ∧ c.step = step ∧ c.desc.seq < d.seq))

/-- STEP_COMMIT (R446): held while a step course of the step runs, refused where the step is FAILED or not open.
`against` is a contradicting order, and `peer` what the other package of a pair sends. -/
def execStepCommit (ring : Nat) (against : Option Order) (peer : PairDigests) (s : State) :
    Host.Outcome State Fault Refusal :=
  match s.dueDesc ring 0x04 with
  | none => .next s
  | some d =>
    let step := d.field 16 8
    let mine := d.order false (s.localRing d.func d.ring)
    let s := s.logOrders d.func mine against
    match beatenBy mine against with
    | some r => .next (s.completeStatus d 0x0004 r)
    | none =>
      let m := s.stepM d.func
      if !s.stepIs d.func step || m.state == .failed then .next (s.completeStatus d 0x0003)
      else if s.stepWaits d step then .next s
      else
        match m.state with
        | .complete => .next (s.pairCommitStep d step peer)
        | .vetoed => .next ((s.applyGroup 0 3).skipStep d step)
        | _ => .next s

/-! ## STEP_ABORT (R451) -/

/-- CANCEL goes to every peer with outstanding expert traffic of the course, with its new epoch (R386). It names the first of the
peer's outstanding requests (log entry 122). -/
def State.sendCancels (s : State) (c : Course) (epoch : Nat) : State :=
  let rs := s.net.requests.filter (fun r => decide (r.key.course = c.id) && r.sent && !r.done)
  (sortNat (rs.map (fun r => r.owner))).foldl (fun (s : State) p => match rs.find? (fun r => decide (r.owner = p)) with
    | none => s
    | some r =>
      s.sendCtrl p { attempt := c.attempt, epoch := epoch, gen := s.genOf r.key.operand % 2 ^ 16 } (.cancel r.key)) s

/-- The step's courses complete with STALE_EPOCH, their epoch advanced. -/
def State.abortCourses (s : State) (d : Desc) (step : Nat) : State :=
  (s.courses.filter (fun c => c.stepMode && decide (c.desc.func = d.func ∧ c.step = step ∧ c.desc.seq < d.seq))).foldl
    (fun (s : State) c =>
      let ep := (c.epoch + 1) % 2 ^ 16
      (s.sendCancels c ep).endEarly { c with epoch := ep } 0x0016 ep 0 false) s

/-- STEP_ABORT (R451): the step's courses stop, what it wrote is discarded, and the machine returns to IDLE. -/
def execStepAbort (ring : Nat) (against : Option Order) (s : State) : Host.Outcome State Fault Refusal :=
  match s.dueDesc ring 0x05 with
  | none => .next s
  | some d =>
    let step := d.field 16 8
    let mine := d.order true (s.localRing d.func d.ring)
    let s := s.logOrders d.func mine against
    match beatenBy mine against with
    | some r => .next (s.completeStatus d 0x0004 r)
    | none =>
      if !s.stepIs d.func step then .next (s.completeStatus d 0x0000)
      else
        let s := (s.abortCourses d step).eachTensor d.func (fun t => t.discard false)
        .next ((s.closeMachine d.func step false).completeStatus d 0x0000)

end Sys2Proof.Machine
end

