-- ==== Sys2Proof/Machine/ConfigItems.lean ====
section
/-! DEFINITION. CONFIG_APPLY (R408, R409, Tables 15.9 and 15.11): the item list, its checks in order, and what each item
does: the mesh (R341), MACsec associations (R339), RoCEv2 queue pairs (R348), the cancellation of a batch (R386), and
the creation and destruction of polders (R472 to R476). -/

namespace Sys2Proof.Machine

/-! ## The item list -/

/-- An item: its header's KIND and LEN, whether its reserved field is 0, its body as far as the list holds it, and
whether it overruns the list. -/
structure Item where
  kind : Nat
  clean : Bool
  len : Nat
  body : List Byte
  tooLong : Bool

/-- Cut an item list of `n` bytes into at most `fuel` items. -/
def itemsOf : Nat → Nat → List Byte → List Item
  | 0, _, _ => []
  | fuel + 1, n, bs =>
    if n = 0 then []
    else
      let len := leAt bs 4 4
      let used := 8 + roundUp len 8
      ({ kind := leAt bs 0 2, clean := decide (leAt bs 2 2 = 0), len := len, body := fitBytes (min len n) (bs.drop 8)
         tooLong := decide (n < used) } : Item) :: itemsOf fuel (n - min n used) (bs.drop used)

/-- The items of a CONFIG_APPLY. -/
def Desc.items (d : Desc) : List Item := itemsOf (d.field 24 4 / 8) (d.field 24 4) (d.block 0)

/-- The kinds of Table 15.9. -/
def knownKind (k : Nat) : Bool := [0x0001, 0x0002, 0x0003, 0x0004, 0x0010, 0x0011].contains k

/-! ## What items name -/

/-- COUNT of a MESH body. -/
def meshCount (b : List Byte) : Nat := leAt b 12 4

/-- The bytes of an entry of a MESH body. -/
def meshEntryBytes (b : List Byte) (i : Nat) : List Byte := (b.drop (16 + 48 * i)).take 48

/-- A mesh entry of its 48 bytes (Table 13.3). -/
def parseEntry (b : List Byte) : MeshEntry where
  device := leAt b 0 2
  nodeId := leAt b 4 2
  localRank := leAt b 6 1
  coord := (List.range 4).map (fun i => leAt b (8 + 2 * i) 2)
  bytes := b

/-- The mesh of a MESH body. -/
def parseMesh (b : List Byte) : Mesh where
  axes := (List.range 4).map (fun i => leAt b (2 * i) 2)
  self := leAt b 8 2
  entries := (List.range (meshCount b)).map (fun i => parseEntry (meshEntryBytes b i))
  body := b

/-- Two members of a list agree. -/
def hasTwin {α : Type} [DecidableEq α] : List α → Bool
  | [] => false
  | x :: xs => xs.contains x || hasTwin xs

/-- The present axes stand first. -/
def axesContiguous (axes : List Nat) : Bool := (axes.dropWhile (fun a => a ≠ 0)).all (fun a => a = 0)

/-- A mesh is refused (R341): ranks, coordinates or devices shared, a coordinate out of its axis, a product that differs
from the entries, devices out of order, or SELF without an entry. -/
def Mesh.refused (m : Mesh) : Bool :=
  let es := m.entries
  hasTwin (es.map (fun e => (e.nodeId, e.localRank))) || hasTwin (es.map (fun e => e.coord))
    || es.any (fun e => (List.range 4).any (fun a =>
        let n := m.axes.getD a 0
        decide (if n = 0 then e.coord.getD a 0 ≠ 0 else n ≤ e.coord.getD a 0)))
    || decide ((m.axes.filter (fun a => a ≠ 0)).foldl (· * ·) 1 ≠ es.length)
    || hasTwin (es.map (fun e => e.device)) || !(ascending (es.map (fun e => e.device)))
    || !es.any (fun e => e.device = m.self) || !axesContiguous m.axes
    || es.any (fun e => decide (63 < e.localRank)) || decide (65536 < es.length)

/-- A reserved bit of a mesh entry is set. -/
def entryReserved (b : List Byte) : Bool :=
  decide (leAt b 2 2 ≠ 0 ∨ 2 ≤ leAt b 7 1) || !zeroIn b 38 48

/-- Sub-ports of a mode of Table 13.1. -/
def subPorts : Nat → Nat
  | 0 => 1 | 1 => 2 | 2 => 4 | 3 => 8 | 4 => 1 | _ => 1

/-- The MACsec association that a MACSEC_SA body names. -/
def parseSa (b : List Byte) : MacSa where
  port := leAt b 0 1
  sub := leAt b 1 1
  transmit := !(leAt b 2 1).testBit 0
  sc := leAt b 3 1
  an := leAt b 4 1
  ssci := leAt b 8 4
  salt := (b.drop 12).take 12
  key := (b.drop 24).take 32

/-- Two associations stand in one place. -/
def MacSa.samePlace (x y : MacSa) : Bool :=
  decide (x.port = y.port ∧ x.sub = y.sub ∧ x.transmit = y.transmit ∧ x.sc = y.sc ∧ x.an = y.an)

/-- The queue pair that a ROCE_QP body names. -/
def parseQp (b : List Byte) : RoceQp where
  qp := leAt b 0 2
  tensor := leAt b 4 3
  remote := leAt b 8 4 % 2 ^ 24
  key := leAt b 12 4

/-- A running course writes a tensor or another member of its alias set. -/
def State.courseWrites (s : State) (id : Nat) : Bool :=
  let ids := s.aliasSet id
  s.courses.any (fun c => c.started && c.writes.any ids.contains)

/-- The running course of a COURSE_ID. -/
def State.runningCourse (s : State) (id : Nat) : Option Course :=
  match s.course id with
  | some c => if c.started then some c else none
  | none => none

/-! ## The checks (R408) -/

/-- A refusal of an item: its status and, for CONFIG_DENIED, the reason. -/
abbrev ItemRefusal := Nat × Nat

/-- CONFIG_DENIED with a reason. -/
def denied (reason : Nat) : ItemRefusal := (0x000A, reason)

/-- The kind is not permitted to the function, or names a course of another function (Table 15.9, R472). -/
def State.itemBarred (s : State) (f : Nat) (it : Item) : Bool :=
  (decide (f ≠ 0) && decide (it.kind ≠ 0x0004))
    || (decide (f ≠ 0 ∧ it.kind = 0x0004) && (match s.course (leAt it.body 0 4) with
      | some c => decide (c.desc.func ≠ f)
      | none => false))

/-- The body length of a kind. -/
def Item.lenOk (it : Item) : Bool :=
  match it.kind with
  | 0x0001 => decide (16 ≤ it.len ∧ it.len = 16 + 48 * meshCount it.body)
  | 0x0002 => decide (it.len = 56)
  | 0x0003 => decide (it.len = 24)
  | 0x0010 => decide (it.len = 64)
  | _ => decide (it.len = 8)

/-- The feature that a kind needs is not negotiated. -/
def State.itemFeature (s : State) (it : Item) : Bool := [0x0010, 0x0011].contains it.kind && !s.feature 1

/-- A reserved field or bit of a body is not 0, mesh entries included. -/
def Item.reserved (it : Item) : Bool :=
  let b := it.body
  match it.kind with
  | 0x0001 => decide (leAt b 10 2 ≠ 0) || (List.range (meshCount b)).any (fun i => entryReserved (meshEntryBytes b i))
  | 0x0002 => decide (4 ≤ leAt b 2 1) || !zeroIn b 5 8
  | 0x0003 => decide (2 ≤ leAt b 2 1 ∨ leAt b 3 1 ≠ 0 ∨ leAt b 7 1 ≠ 0 ∨ 2 ^ 24 ≤ leAt b 8 4) || !zeroIn b 16 24
  | 0x0004 => !zeroIn b 4 8
  | 0x0010 => decide (2 ≤ leAt b 2 1 ∨ leAt b 3 1 ≠ 0) || !zeroIn b 16 32
  | _ => !zeroIn b 1 8

/-- A positive finite FP32 pattern. -/
def positive32 (v : Nat) : Bool := decide (0 < v ∧ v < 0x7F800000)

/-- The fields of a POLDER_CREATE are in range (Table 18.2). -/
def polderFieldsOk (b : List Byte) : Bool :=
  let pol := leAt b 1 1
  let k := leAt b 4 4
  decide (1 ≤ leAt b 0 1 ∧ leAt b 0 1 ≤ 16 ∧ pol ≤ 2)
    && (if pol = 1 then decide (2 ≤ k ∧ k ≤ 65536) else decide (k = 0))
    && (if pol = 2 then positive32 (leAt b 8 4) && positive32 (leAt b 12 4) else decide (leAt b 8 4 = 0 ∧ leAt b 12 4 = 0))

/-- A number of an item lies out of its range, or what it would install or bind is in use (reason 0x04). -/
def State.itemRange (s : State) (it : Item) : Bool :=
  let b := it.body
  match it.kind with
  | 0x0002 =>
    let a := parseSa b
    let install := (leAt b 2 1).testBit 1
    decide (s.part.ports ≤ a.port) || decide (subPorts (s.regF .portCtl a.port 7 4) ≤ a.sub)
      || decide (63 < a.sc ∨ 3 < a.an) || (a.transmit && decide (a.sc ≠ 0))
      || (install && (s.net.sas.any a.samePlace || decide (2 ≤ (s.net.sas.filter (fun x =>
          decide (x.port = a.port ∧ x.sub = a.sub ∧ x.transmit = a.transmit ∧ x.sc = a.sc))).length)))
  | 0x0003 =>
    let q := parseQp b
    decide (255 < q.qp) || ((leAt b 2 1).testBit 0 && s.net.qps.any (fun x => x.qp = q.qp))
  | 0x0010 => !polderFieldsOk b || s.polderExists (leAt b 0 1)
  | 0x0011 => decide (leAt b 0 1 < 1 ∨ 16 < leAt b 0 1)
  | _ => false

/-- The landing tensor of a bind is not dense, a view, or not of the function (reason 0x05, R348). -/
def State.landingBad (s : State) (f : Nat) (it : Item) : Bool :=
  decide (it.kind = 0x0003) && (leAt it.body 2 1).testBit 0 && (match s.usable f (parseQp it.body).tensor with
    | some t => t.desc.sparse || t.view.isSome
    | none => true)

/-- A polder that the lifecycle state or the feature set does not allow (R473). -/
def State.polderBarred (s : State) (it : Item) : Bool :=
  decide (it.kind = 0x0010) && ((decide (leAt it.body 1 1 ≠ 0) && s.secure.lifecycle != 2)
    || ((leAt it.body 2 1).testBit 0 && !s.feature 8))

/-- The busy conditions of R409 and R476. -/
def State.itemBusy (s : State) (it : Item) : Bool :=
  match it.kind with
  | 0x0001 => s.courseRuns
  | 0x0003 => s.courseWrites (parseQp it.body).tensor
  | 0x0011 =>
    let p := leAt it.body 0 1
    s.tensors.any (fun kv => match kv.2 with
      | some t => decide (t.desc.polder = p ∧ p ≠ 0)
      | none => false)
  | _ => false

/-- The first check that an item fails, in the order of R408. -/
def State.itemCheck (s : State) (f : Nat) (it : Item) : Option ItemRefusal :=
  if !knownKind it.kind || !it.clean then some (denied 0x01)
  else if s.itemBarred f it then some (0x0003, 0)
  else if !it.lenOk || it.tooLong then some (denied 0x02)
  else if s.itemFeature it then some (denied 0x06)
  else if it.reserved then some (denied 0x01)
  else if decide (it.kind = 0x0001) && (parseMesh it.body).refused then some (denied 0x03)
  else if s.itemRange it then some (denied 0x04)
  else if s.landingBad f it then some (denied 0x05)
  else if s.polderBarred it then some (0x0003, 0)
  else if s.itemBusy it then some (0x000B, 0)
  else none

/-- The first failing item of a list: its index and refusal. -/
def State.itemsCheck (s : State) (f : Nat) : Nat → List Item → Option (Nat × ItemRefusal)
  | _, [] => none
  | i, it :: rest =>
    match s.itemCheck f it with
    | some r => some (i, r)
    | none => s.itemsCheck f (i + 1) rest

/-! ## What items do -/

/-- A new mesh (R341): every session closes, and sessions to the new peers open. -/
def State.applyMesh (s : State) (m : Mesh) : State :=
  let old := (s.net.sessions.filter (fun q => q.2.isOpen)).map (fun q => q.1)
  let s := old.foldl (fun (s : State) p => s.closeTo p) s
  let s := { s with mesh := some m, net := { s.net with sessions := s.net.sessions.map (fun (q : Nat × DnSession) =>
    (q.1, ({ closed := true } : DnSession))) } }
  s.peers.foldl (fun (s : State) p => s.openTo p) s

/-- A MACSEC_SA installs or removes an association. -/
def State.applySa (s : State) (a : MacSa) (install : Bool) : State :=
  let rest := s.net.sas.filter (fun (x : MacSa) => !a.samePlace x)
  { s with net := { s.net with sas := if install then rest ++ [a] else rest } }

/-- A ROCE_QP binds or unbinds a queue pair. -/
def State.applyQp (s : State) (q : RoceQp) (bind : Bool) : State :=
  let rest := s.net.qps.filter (fun (x : RoceQp) => x.qp ≠ q.qp)
  { s with net := { s.net with qps := if bind then rest ++ [q] else rest } }

/-- A batch is cancelled (R386): its epoch advances in the course and its contexts, its stations stop, and CANCEL goes
to the peers with expert traffic; a course that is still stopping advances again. The course then completes with STALE_EPOCH. -/
def State.cancelBatch (s : State) (id : Nat) : State :=
  match s.runningCourse id with
  | none => s
  | some c =>
    let ep := (c.epoch + 1) % 2 ^ 16
    let s := s.sendCancels c ep
    s.setCourse { c with
      epoch := ep, cancelled := some ep
      streams := c.streams.map (fun (x : Stream) => { x with epoch := ep }) }

/-- Load a polder's key slot in every controller. -/
def State.loadKey (s : State) (p : Nat) (key : List Byte) : State :=
  (List.range s.part.stackCount).foldl (fun (s : State) n =>
    let k := s.stack n
    s.setStack n { k with keys := FMap.set (fun _ => []) k.keys p key }) s

/-- Write a polder, or erase it. -/
def State.setPolder (s : State) (p : Nat) (q : Option Polder) : State :=
  { s with secure := { s.secure with polders := FMap.set (fun _ => none) s.secure.polders p q } }

/-- The measurement of a polder (R474): SHA-384 over the item body and the create count. -/
def polderMeasure (body : List Byte) (count : Nat) : List Byte := sha384 (body ++ toLe 8 count)

/-- POLDER_STAT of a polder that exists. -/
def State.statPolder (s : State) (p : Nat) (q : Polder) : State :=
  let r : Reg := ⟨.polderStat, p, 0⟩
  s.setReg r (setBit (setF (setBit (setF (s.reg r) 15 0 0) 31 true) 30 29 q.policy) 28 q.ideReq)

/-- A polder is created (R474): key pair, create count, key slots, NS and C2, handle, measurement and POLDER_FUNCS. -/
def State.createPolder (s : State) (body : List Byte) : State :=
  let p := leAt body 0 1
  let n := s.secure.creates + 1
  let key := fitBytes 64 (Config.polderKey n)
  let c := leAt body 8 4
  let sg := leAt body 12 4
  let q : Polder :=
    { body := body, count := n, ns := (mul32 sg c).1, c2 := (mul32 c c).1
      handle := aesWrap (fitBytes 32 Config.sealingKey) key, meas := polderMeasure body n }
  let s := { s with secure := { s.secure with creates := n } }
  let s := ((s.loadKey p key).setPolder p (some q)).setBoth ⟨.polderFuncs, p, 0⟩ 63 0 1
  s.statPolder p q

/-- A polder is destroyed (R476): key slots zeroised, cores released, POLDER_FUNCS cleared, the entry erased. -/
def State.destroyPolder (s : State) (p : Nat) : State :=
  if !s.polderExists p then s
  else
    let s := s.loadKey p []
    let s := (List.range s.part.cores).foldl (fun (s : State) c =>
      if (s.core c).allot = p then s.allotCore c 0 else s) s
    ((s.setBoth ⟨.polderFuncs, p, 0⟩ 63 0 0).setReg ⟨.polderStat, p, 0⟩ 0).setPolder p none

/-- An item takes effect. -/
def State.applyItem (s : State) (it : Item) : State :=
  let b := it.body
  match it.kind with
  | 0x0001 => s.applyMesh (parseMesh b)
  | 0x0002 => s.applySa (parseSa b) ((leAt b 2 1).testBit 1)
  | 0x0003 => s.applyQp (parseQp b) ((leAt b 2 1).testBit 0)
  | 0x0004 => s.cancelBatch (leAt b 0 4)
  | 0x0010 => s.createPolder b
  | 0x0011 => s.destroyPolder (leAt b 0 1)
  | _ => s

/-! ## CONFIG_APPLY -/

/-- A CONFIG_APPLY whose list is the command's: it holds an item of the kind, or none of a known kind. -/
def Desc.forKind (d : Desc) (kind : Nat) : Bool :=
  let ks := d.items.map (fun it => it.kind)
  ks.contains kind || !ks.any knownKind

/-- The list is checked and refused, or applied in order as one change. -/
def State.configApply (s : State) (d : Desc) : State :=
  match s.itemsCheck d.func 0 d.items with
  | some (i, st, r) => s.completeStatus d st (i * 256 + r)
  | none => (d.items.foldl State.applyItem s).completeStatus d 0x0000

/-- The CONFIG_APPLY due on a ring, if it is of the kind. -/
def State.configRow (s : State) (ring kind : Nat) : Host.Outcome State Fault Refusal :=
  match s.dueDesc ring 0x07 with
  | none => .next s
  | some d => if d.forKind kind then .next (s.configApply d) else .next s

/-- MESH (R341). -/
def execMesh (ring : Nat) (s : State) : Host.Outcome State Fault Refusal := s.configRow ring 0x0001

/-- MACSEC_SA (R339). -/
def execMacsecSa (ring : Nat) (s : State) : Host.Outcome State Fault Refusal := s.configRow ring 0x0002

/-- ROCE_QP (R348). -/
def execRoceQp (ring : Nat) (s : State) : Host.Outcome State Fault Refusal := s.configRow ring 0x0003

/-- CANCEL_BATCH (R386): a stop; `against` is a contradicting order of the same control cycle (R416). -/
def execCancelBatch (ring : Nat) (against : Option Order) (s : State) : Host.Outcome State Fault Refusal :=
  match s.dueDesc ring 0x07 with
  | none => .next s
  | some d =>
    if !d.forKind 0x0004 then .next s
    else
      let mine := d.order true (s.localRing d.func d.ring)
      let s := s.logOrders d.func mine against
      match beatenBy mine against with
      | some r => .next (s.completeStatus d 0x0004 r)
      | none => .next (s.configApply d)

/-- POLDER_CREATE (R474). -/
def execPolderCreate (ring : Nat) (s : State) : Host.Outcome State Fault Refusal := s.configRow ring 0x0010

/-- POLDER_DESTROY (R476). -/
def execPolderDestroy (ring : Nat) (s : State) : Host.Outcome State Fault Refusal := s.configRow ring 0x0011

end Sys2Proof.Machine
end

