-- ==== Sys2Proof/Machine/Engine.lean ====
section
/-! DEFINITION. Commands on tile queues (1.8): writes and reads of segments, queue commands and parity; and on a matrix
engine's slabs, folds and drains (5.1 to 5.4) with their parity (5.7). -/

namespace Sys2Proof.Machine

/-! ## Tile queues -/

/-- A queue that has given up a bank takes what waits on the stream that it carries (R38). -/
def State.pumpOn (s : State) (core q : Nat) : State :=
  (s.queueStreams core q).foldl (fun (s : State) x => s.pumpQueues x.1) s

/-- TQ_HEADER_WRITE (R36): a header, if one is given, and payload words; a header stalls while the next bank is not
empty. A format that Table 1.4 does not list is logged (R39). The producer of a queue that carries a stream is that stream's
station, whose tasks write it. -/
def execTqHeaderWrite (core q : Nat) (header : Option (Nat × Nat)) (words : List Nat) (s : State) :
    Host.Outcome State Fault Refusal :=
  if !s.queueOk core q || !(s.queueStreams core q).isEmpty then .next s
  else
    let x := s.queue core q
    match header with
    | none => .next (s.setQueue core q (x.fillWords words))
    | some h =>
      if (x.bank x.fill).state ≠ .empty then .next s
      else
        let hs := [h.1 % 2 ^ 64, h.2 % 2 ^ 64]
        let s := if (segmentWords hs).isNone then s.logEntry 0x0011 (core / coresPerDie) core deviceWide q (headerFormat hs).1
          else s
        .next (s.setQueue core q ((x.start hs).fillWords words))

/-- Bits set in a word, modulo 2: what even parity over it tells. -/
def oddBits (w : Nat) : Bool := ((List.range 64).filter w.testBit).length % 2 = 1

/-- What the bits that have flipped in a word leave: the word and whether its parity fails. -/
def damagedWord (damage : List (Nat × Nat)) (i w : Nat) : Nat × Bool :=
  damage.foldl (fun a d => if d.1 = i then (a.1 ^^^ (d.2 % 2 ^ 64), a.2 != oddBits d.2) else a) (w, false)

/-- A header word fails its parity: the tile is discarded, HDR_ERR set, and the fault logged with the producing task,
which is replayed (R43). -/
def State.badHeader (s : State) (core q : Nat) (x : TileQueue) (producer : Option Nat) : State :=
  let k := x.bank x.take
  let y := x.release
  let y := if twoSegments k.header && !k.second then y.discardSecond else { y with midTile := false }
  let s := (s.setQueue core q y).latch ⟨.tqCount, core, q⟩ 27
  let s := s.logEntry 0x0010 (core / coresPerDie) core deviceWide q (producer.getD noUnit)
  match producer with
  | some j => s.abandon j
  | none => s

/-- The consumer's task has read a poisoned word (R43, R70). -/
def State.poisonEntry (s : State) (j : Nat) : State :=
  match s.entry j with
  | none => s
  | some e => s.setEntry j (some { e with poisoned := true })

/-- The consumer reads `n` payload words of the bank under read. -/
def State.readWords (s : State) (core q n : Nat) (damage : List (Nat × Nat)) (consumer : Option Nat) : State :=
  let x := s.queue core q
  let k := x.bank x.take
  if k.state ≠ .reading then s
  else
    let got := ((k.words.zip (List.range k.words.length)).drop k.read).take n
    let ws := got.map (fun w => (damagedWord damage (2 + w.2) w.1, w.2))
    let out := ws.map (fun w => (w.1.1, w.1.2 || k.poison || k.tags.contains w.2))
    let x := { x.setBank x.take { k with read := k.read + got.length } with delivered := out }
    let x := if k.read + got.length = k.length then x.endSegment else x
    let s := s.setQueue core q x
    let s := if ws.any (fun w => w.1.2) then s.latch ⟨.tqCount, core, q⟩ 28 else s
    match consumer with
    | some j => if out.any (fun w => w.2) then s.poisonEntry j else s
    | none => s

/-- TQ_HEADER_READ (R37): the header of the next full bank, with its parity, then `n` payload words. `damage` gives the
bits that have flipped since the write, by word: 0 and 1 the header, 2 + i payload word i. -/
def execTqHeaderRead (core q n : Nat) (damage : List (Nat × Nat)) (producer consumer : Option Nat) (s : State) :
    Host.Outcome State Fault Refusal :=
  if !s.queueOk core q then .next s
  else
    let x := s.queue core q
    let k := x.bank x.take
    match k.state with
    | .full =>
      let hs := (k.header.zip [0, 1]).map (fun w => damagedWord damage w.2 w.1)
      if hs.any (fun w => w.2) then .next ((s.badHeader core q x producer).pumpOn core q)
      else
        .next (((s.setQueue core q (x.setBank x.take { k with state := .reading, header := hs.map (fun w => w.1) })).readWords
          core q n damage consumer).pumpOn core q)
    | .reading => .next ((s.readWords core q n damage consumer).pumpOn core q)
    | _ => .next s

/-- TQ_NOP (R41): command 0x0 in bits 3:0 has no effect. -/
def execTqNop (_core _q _word : Nat) (s : State) : Host.Outcome State Fault Refusal := .next s

/-- TQ_DROP_REMAINDER (R42): command 0x1 in bits 3:0. -/
def execTqDropRemainder (core q word : Nat) (same : Bool) (s : State) : Host.Outcome State Fault Refusal :=
  if s.queueOk core q && word % 16 == 1 then .next ((s.setQueue core q ((s.queue core q).drop same)).pumpOn core q)
  else .next s

/-- TQ_RESERVED_COMMAND (R41): a reserved command is logged and ignored. -/
def execTqReservedCommand (core q word : Nat) (s : State) : Host.Outcome State Fault Refusal :=
  if s.queueOk core q && decide (2 ≤ word % 16) then
    .next (s.logEntry 0x0012 (core / coresPerDie) core deviceWide q (word % 2 ^ 32))
  else .next s

/-! ## Matrix engine banks (5.1 to 5.4) -/

/-- An ME is taken out of service after its third parity failure within 2^30 cycles; a core without an ME retires
(R162, R456). -/
def State.retireMe (s : State) (core me : Nat) : State :=
  let s := s.setMe core me { (s.core core).me me with oos := true }
  let s := s.logEntry 0x0014 (core / coresPerDie) core deviceWide me 0
  let s := (s.abandonWhere (fun e => decide (e.engine = 0 ∧ e.core = core ∧ e.index = me))).resetQueues core
  if (List.range mePerCore).all (fun i => ((s.core core).me i).oos) then s.retireCore core else s

/-- A parity failure in an ME (R161): counted and logged with its place (0 operand buffer, 1 window register, 2 bank A,
3 bank B) and row. -/
def State.noteParity (s : State) (core me place row now : Nat) : State :=
  let m := (s.core core).me me
  let ts := recent now (2 ^ 30) m.faultTimes ++ [now]
  let s := s.setMe core me { m with faults := min 255 (m.faults + 1), faultTimes := ts }
  let s := s.logEntry 0x0013 (core / coresPerDie) core deviceWide me (place * 64 + row % 64)
  if 3 ≤ ts.length then s.retireMe core me else s

/-- A task runs on this ME. -/
def State.onMe (s : State) (core me j : Nat) : Bool :=
  match s.entry j with
  | none => false
  | some e =>
    match (s.course e.course).bind (fun (c : Course) => c.station e.station) with
    | none => false
    | some st => decide (e.engine = 0 ∧ e.core = core ∧ e.index = me) && (s.task j st.typ).isSome

/-- A parity failure before a bank drains abandons the task, whatever its station, and resets the core's queues (R161, Table
1.7). -/
def State.parityAbandon (s : State) (core me j place row now : Nat) : State :=
  if s.onMe core me j then ((s.abandon j).resetQueues core).noteParity core me place row now else s

/-- What stops a product at its reads or its conditions, with the state that the halt leaves (Tables 5.7 and 7.6). -/
def State.productStop (s : State) (t : Task) : Option State :=
  match s.readStop t, s.productBad t with
  | some u, _ => some u
  | none, some w => some (s.haltFormat t w)
  | none, none =>
    if t.st.typ = stSddmm then
      match s.remoteBad (s.maskRequest t) with
      | some v => some (s.haltRemote t (.output 0) (t.st.p 4 3) v)
      | none =>
        if s.sddmmReady t then (s.candidateBad t).map (fun p => s.haltSparse t (.input 2) (t.inId 2) 0x13 p.1 p.2)
        else none
    else (s.remoteBad (s.taskRequest t (s.rowTask t))).map (s.haltRemote t (.input 1) (t.inId 1))

/-- The next slab of a task in its bank: its pair fills the half whose turn it is, and the last window of the last `opened` rows
stays in window registers (R144, R146). -/
def State.runSlab (s : State) (t : Task) (core me : Nat) (m : Me) (b : Bool) (opened : Nat) : State :=
  let k := m.bank b
  let job := s.bankJob t
  let slab := job.slabs.getD k.slab []
  let p := job.pair t.j k.slab slab
  let k' := (job.addSlab p opened slab { k with poisoned := k.poisoned || s.productPoison t }).afterSlab job k.slab
  let m' := { m.setBank b k' with half := 1 - m.half % 2, wregs := job.leftOpen p b opened slab }
  s.setMe core me (if m.half % 2 = 1 then { m' with slab0 := p } else { m' with slab1 := p })

/-- SLAB_START (R146): the next slab of an output tile, in its bank or, for a new tile, in the next one if that is IDLE (R150).
The window registers that were open close first. `fault` is a parity failure that the task meets: its place and row (R161). -/
def execSlabStart (core me j opened : Nat) (fault : Option (Nat × Nat × Nat)) (s : State) :
    Host.Outcome State Fault Refusal :=
  match fault with
  | some f => .next (s.parityAbandon core me j f.1 f.2.1 f.2.2)
  | none =>
    match s.meTask core me j with
    | none => .next s
    | some t =>
      match s.productStop t with
      | some u => .next u
      | none =>
        if !s.productReady t then .next s
        else
          let m := ((s.core core).me me).closeWindows
          match m.bankOf j with
          | some b => if (m.bank b).state ≠ .acc then .next s else .next (s.runSlab t core me m b opened)
          | none =>
            if (m.bank m.nextB).state ≠ .idle then .next s
            else
              .next (s.runSlab t core me { m.setBank m.nextB (s.startBank t) with nextB := !m.nextB, half := 1 } m.nextB opened)

/-- REACH_FOLD (R149): the bank folds, and goes on or drains. `fault` is the bank row of a parity failure. -/
def execReachFold (core me : Nat) (b : Bool) (fault : Option Nat) (now : Nat) (s : State) :
    Host.Outcome State Fault Refusal :=
  let m := ((s.core core).me me).closeWindows
  let k := m.bank b
  match s.meTask core me k.task with
  | none => .next s
  | some t =>
    if k.state ≠ .fold then .next s
    else
      match fault with
      | some row => .next (s.parityAbandon core me k.task (if b then 3 else 2) row now)
      | none => .next (s.setMe core me (m.setBank b (k.foldAll (s.bankJob t))))

/-- BANK_DRAIN (R151): the finished bank goes through the store path as the task's output tile, and the bank is free; while the
output stream holds it back it stays DRAINING (R154). `fault` is the bank cell, 64 × row + column, of a parity failure: its
element is delivered with its poison tag, and the tile with POISON (R161). -/
def execBankDrain (core me : Nat) (b : Bool) (fault : Option Nat) (now : Nat) (s : State) :
    Host.Outcome State Fault Refusal :=
  let m := (s.core core).me me
  let k := m.bank b
  match s.meTask core me k.task with
  | none => .next s
  | some t =>
    if k.state ≠ .drain ∨ s.heldBack t = true then .next s
    else
      let tags := fault.toList.flatMap (fun cell => ((s.bankJob t).cells.filter (fun c => decide (c.2 = cell))).map (fun c => c.1))
      let u := (s.setMe core me (m.setBank b {})).drainOut t k (k.poisoned || s.productPoison t || fault.isSome) tags
      match fault with
      | some cell => .next (u.noteParity core me (if b then 3 else 2) (cell / 64) now)
      | none => .next u

end Sys2Proof.Machine
end

