-- ==== Sys2Proof/Machine/Levee.lean ====
section
/-! DEFINITION. The levee (16.1 to 16.5): the window boundary with calibration, thermal classes, clock steps, rail
voltages and allowances, what happens to a voltage request, missing readings, and Iluny's over-power guard (R434). -/

namespace Sys2Proof.Machine

/-! ## Clock steps and voltages (R427) -/

/-- The highest clock step, 1.60 GHz. -/
def topStep : Nat := 24

/-- The clock of a step in MHz. -/
def stepMhz (n : Nat) : Nat := 400 + 50 * n

/-- Table 16.3, in mV, one entry per 200 MHz. -/
def railTable : List Nat := [600, 620, 660, 700, 750, 800, 850]

/-- The voltage of a step in mV: interpolated, and rounded up to a multiple of 5 mV. -/
def stepMv (n : Nat) : Nat :=
  let lo := railTable.getD (n / 4) 850
  let hi := railTable.getD (n / 4 + 1) 850
  (4 * lo + (hi - lo) * (n % 4) + 19) / 20 * 5

/-- The highest step that a voltage supports; the lowest step where it supports none. -/
def stepAt (mv : Nat) : Nat :=
  ((List.range (topStep + 1)).filter (fun n => decide (stepMv n ≤ mv))).foldl max 0

/-- The cores of a die. -/
def dieCores (die : Nat) : List Nat := (List.range coresPerDie).map (fun i => coresPerDie * die + i)

/-- The dies of the package. -/
def State.dieList (s : State) : List Nat := List.range s.part.dies

/-- The cores of the package that work. -/
def State.liveCores (s : State) : List Nat := (List.range s.part.cores).filter (fun c => !s.coreRetired c)

/-- Write a die's rail. -/
def State.setRail (s : State) (die : Nat) (r : Rail) : State :=
  { s with power := { s.power with levee := { s.power.levee with
      rails := FMap.set (fun _ => ({} : Rail)) s.power.levee.rails die r } } }

/-- A voltage order goes out: on AVSBus, or from package B to Iluny A over the management link (R30). -/
def State.sendMv (s : State) (die mv : Nat) : State :=
  if s.pkg = .a then s.emit (.avsbus die mv) else if s.power.mgmt then s.emit (.mgmt 0 die mv) else s

/-- A report over MCTP: from package B through Iluny A (R30). -/
def State.sendMctp (s : State) (report arg : Nat) : State :=
  if s.pkg = .a then s.emit (.mctp report arg) else if s.power.mgmt then s.emit (.mgmt 1 report arg) else s

/-- The voltage that a rail is sure to have: the last acknowledged one, or that of a lowering ordered since. -/
def Rail.sure (r : Rail) : Nat := min r.mv (r.low.getD r.mv)

/-- Order a voltage of a die's core rail through Iluny (R428): sent unless it stands, already waits, or cannot reach the regulators
(R30); a locked rail keeps its own (R429). Where another order is outstanding, the voltage that stood is ordered anew. -/
def State.orderMv (s : State) (die mv : Nat) : State :=
  let r := s.rail die
  if r.locked || r.request = some mv || !s.moduleReach || (r.request.isNone && decide (r.mv = mv ∧ r.sure = mv)) then s
  else (s.setRail die { r with request := some mv, low := if mv < r.sure then some mv else r.low }).sendMv die mv

/-- Rewrite every core that works. -/
def State.eachCore (s : State) (f : State → Nat → Core → Core) : State :=
  s.liveCores.foldl (fun (t : State) c => t.setCore c (f s c (t.core c))) s

/-- Update the levee's own state. -/
def State.setLevee (s : State) (f : Levee → Levee) : State :=
  { s with power := { s.power with levee := f s.power.levee } }

/-- Update Iluny's state. -/
def State.setIluny (s : State) (f : Iluny → Iluny) : State :=
  { s with power := { s.power with iluny := f s.power.iluny } }

/-! ## The power level (R418, R434) -/

/-- EFF of LEVEE_CTL. -/
def State.eff (s : State) : Nat := s.regF .leveeCtl 0 31 24

/-- HOLD_C of LEVEE_CTL. -/
def State.holdC (s : State) : Nat := s.regF .leveeCtl 0 23 16

/-- The index to which Iluny caps the level, if any: an input overvoltage caps it to 0 (Table 21.11). -/
def State.levelCap (s : State) : Option Nat :=
  if s.power.iluny.overvolt then some 0 else s.power.iluny.cap

/-- The index of the level in force: min(LEVEL, cap). -/
def State.levelEff (s : State) : Nat :=
  let l := s.regF .powerCtl 0 1 0
  match s.levelCap with
  | some c => min l c
  | none => l

/-- The part whose levels a package budgets: a package of a CN4-P64 takes those of the CN4-B32 (R418). -/
def budgetPart : Part → Part
  | .cn4p64 => .cn4b32
  | p => p

/-- B, the budget of a window in µJ (R419). -/
def State.budget (s : State) : Nat := (budgetPart s.part).levelDeciKw s.levelEff * 1000

/-! ## The window boundary -/

/-- A cap that software released goes at the window; LEVEE_STAT shows whether Iluny caps the level, and the level in
force (R434). -/
def State.settleCap (s : State) : State :=
  let s := if s.power.iluny.release then s.setIluny (fun (i : Iluny) => { i with release := false, cap := none }) else s
  let r : Reg := ⟨.leveeStat, 0, 0⟩
  s.setReg r (setF (setBit (s.reg r) 63 s.levelCap.isSome) 62 61 s.levelEff)

/-- A core's accounted energy of the window in pJ, its task energy with the static part or the leakage (R420). -/
def State.accounted (s : State) : Nat := (s.liveCores.map (fun c => (s.core c).charged)).foldl (· + ·) 0

/-- A quotient held in whole steps; how a remainder rounds is left open. -/
def roundOpen (n d : Nat) : Nat := if n % d = 0 then n / d else n / d + (if Config.roundsUp n d then 1 else 0)

/-- k in units of 1/128, clamped to 0.75 to 1.50 (R422): the measured core input energy in µJ times EFF over the
accounted energy in pJ. -/
def calibFactor (coreUj eff acc free : Nat) : Nat :=
  let q := if acc = 0 then Config.openCalib free else roundOpen (coreUj * 1000000 * eff * 128) (acc * 256)
  max 96 (min 192 q)

/-- The telemetry of the window that ended: measured core and non-core energy in µJ, or nothing (R422, R45). -/
def State.takeTelemetry (s : State) : Option (Nat × Nat) → State
  | some (c, n) =>
    let k := calibFactor c s.eff s.accounted s.free
    let r : Reg := ⟨.leveeStat, 0, 0⟩
    let s := { s with free := s.free + 1 }
    (s.setLevee (fun (l : Levee) => { l with calib := k, nonCore := n, missing := false })).setReg r
      (setF (setF (s.reg r) 39 32 k) 31 0 (min (2 ^ 32 - 1) (c + n)))
  | none =>
    let n := Config.unmeasuredNonCore s.free
    ({ s with free := s.free + 1 }).setLevee (fun (l : Levee) => { l with nonCore := n, missing := true })

/-- The sensors of the package, numbered 8 × die + sensor. -/
def State.sensors (s : State) : List Nat := List.range (8 * s.part.dies)

/-- One sensor's reading of the window, or its silence (R45). -/
def Levee.takeSensor (l : Levee) (n : Nat) : Option Nat → Levee
  | some t => { l with
      temps := FMap.set (fun _ => 0) l.temps n t, silent := FMap.set (fun _ => 0) l.silent n 0
      limited := l.limited.filter (fun k => k ≠ n) }
  | none => { l with silent := FMap.set (fun _ => 0) l.silent n (FMap.get (fun _ => 0) l.silent n + 1) }

/-- The reading of a sensor among those of the window. -/
def readingOf (temps : List (Nat × Nat)) (n : Nat) : Option Nat := (temps.find? (fun q => decide (q.1 = n))).map (fun q => q.2)

/-- DIE_TEMP of a die (Table 16.6): each reading saturating at 254, or 0xFF. -/
def dieTempWord (temps : List (Nat × Nat)) (die : Nat) : Nat :=
  ((List.range 8).map (fun i => (match readingOf temps (8 * die + i) with
    | some t => min 254 t
    | none => 255) * 256 ^ i)).foldl (· + ·) 0

/-- The window's temperature readings, pairs of sensor and °C. -/
def State.takeTemps (s : State) (temps : List (Nat × Nat)) : State :=
  let s := s.setLevee (fun (l : Levee) => s.sensors.foldl (fun (m : Levee) n => m.takeSensor n (readingOf temps n)) l)
  s.dieList.foldl (fun (s : State) d => s.setReg ⟨.dieTemp, d, 0⟩ (BitVec.ofNat 64 (dieTempWord temps d))) s

/-- A core's thermal class and cap at a temperature (Table 16.2, R425). -/
def Core.classed (k : Core) (t throttle hold : Nat) : Core :=
  if k.thermal == .hold then
    if t < throttle then { k with thermal := .throttled, cap := 0 } else { k with cap := 0 }
  else if hold ≤ t then { k with thermal := .hold, cap := 0 }
  else if throttle ≤ t then { k with thermal := .throttled, cap := k.cap - 1 }
  else if throttle ≤ t + 5 then { k with thermal := .hot }
  else { k with thermal := .cool, cap := min topStep (k.cap + 1) }

/-- The counts of R432: windows in a row that a core is HOT or hotter, and since its last move. -/
def Core.counted (k : Core) : Core :=
  { k with hotWindows := if k.thermal == .cool then 0 else k.hotWindows + 1, moveWindows := k.moveWindows + 1 }

/-- Every core takes its class; the pins to a core that enters hold lapse (R85), and the stations that stand at a tile boundary on
a held core leave it (R425); LEVEE_STAT counts the classes. -/
def State.classCores (s : State) : State :=
  let t := s.throttleC
  let h := s.holdC
  let s' := s.eachCore (fun (s : State) c (k : Core) => (k.classed (s.sensorTemp (coreSensor c)) t h).counted)
  let s' := s.liveCores.foldl (fun (u : State) c =>
    if (u.core c).thermal == .hold && (s.core c).thermal != .hold then u.lapsePins c else u) s'
  let s' := s'.clearHeld
  let count (x : Thermal) : Nat := min 255 (s'.liveCores.filter (fun c => (s'.core c).thermal == x)).length
  let r : Reg := ⟨.leveeStat, 0, 0⟩
  s'.setReg r (setF (setF (s'.reg r) 55 48 (count .throttled)) 47 40 (count .hold))

/-! ## The common step and the allowances (R430) -/

/-- The step that a core takes under a common step: the lower of it and its cap, and the lowest for a held core. -/
def Core.under (k : Core) (n : Nat) : Nat := if k.thermal == .hold then 0 else min n k.cap

/-- No raise may be requested on a die's rail now (R429). -/
def Rail.barred (r : Rail) : Bool := r.locked || decide (0 < r.noRaise)

/-- The step of a core under a common step, where its rail may not be raised at most what its voltage supports. -/
def State.stepUnder (s : State) (n c : Nat) : Nat :=
  let r := s.rail (c / coresPerDie)
  let w := (s.core c).under n
  if r.barred then min w (stepAt r.sure) else w

/-- The voltage of a die under a common step: that of its highest step; a locked rail keeps its own, and one that may not
be raised is not. -/
def State.mvUnder (s : State) (n die : Nat) : Nat :=
  let r := s.rail die
  let top := ((dieCores die).filter (fun c => !s.coreRetired c)).map (fun c => s.stepUnder n c)
  if r.locked then r.mv else stepMv (top.foldl max 0)

/-- A core's projection in pJ: its accounted energy of the previous window rescaled to the step and the voltage. -/
def State.projection (s : State) (n c : Nat) : Nat :=
  let k := s.core c
  let die := c / coresPerDie
  let mv := s.mvUnder n die
  k.last * stepMhz (s.stepUnder n c) * mv ^ 2 / (stepMhz k.step * (s.rail die).mv ^ 2)

/-- The projected energy of every core. -/
def State.projected (s : State) (n : Nat) : Nat := (s.liveCores.map (s.projection n)).foldl (· + ·) 0

/-- A, the core allowance of a window in pJ: (B − N) × EFF. -/
def State.coreAllowance (s : State) : Nat := (s.budget - s.power.levee.nonCore) * 1000000 * s.eff / 256

/-- The highest common step whose projection stays within A, from a step downwards. -/
def State.commonStep (s : State) : Nat → Nat
  | 0 => 0
  | n + 1 => if s.projected (n + 1) ≤ s.coreAllowance then n + 1 else s.commonStep n

/-- The cores of a die take their steps under a common step (R428): lower ones at once; higher ones at once as far as the
rail is sure to have the voltage, and else when the raise is acknowledged. -/
def Core.stepTo (k : Core) (w mv : Nat) : Core :=
  if w ≤ k.step ∨ stepMv w ≤ mv then { k with step := w, wanted := none } else { k with wanted := some w }

/-- Steps and voltages of a window. -/
def State.setSteps (s : State) (n : Nat) : State :=
  let s' := s.eachCore (fun (s : State) c (k : Core) => k.stepTo (s.stepUnder n c) (s.rail (c / coresPerDie)).sure)
  s.dieList.foldl (fun (u : State) d => u.orderMv d (s.mvUnder n d)) s'

/-- A core's static energy of a window at its step, or its leakage where it is clock-gated, in pJ at a voltage in mV
(Table 16.1). -/
def Core.staticPj (k : Core) (mv : Nat) : Nat :=
  if k.idle then 8000000 * mv / 850 else scaleEnergy (1875 * 10 * stepMhz k.step) mv

/-- The accounts close: what a core charged becomes its last window, and the window starts with its static part. -/
def State.closeAccounts (s : State) : State :=
  s.eachCore (fun (_ : State) _ (k : Core) => { k with last := k.charged, energy := [], base := 0 })

/-- The static charges of the window that starts; in IDLE-G and IDLE-V every core is clock-gated (Table 16.7). -/
def State.chargeStatic (s : State) : State :=
  s.eachCore (fun (s : State) c (k : Core) =>
    { k with base := s.calibrated ({ k with idle := k.idle || s.power.state != 0 }.staticPj (s.rail (c / coresPerDie)).mv) })

/-- A task that spans windows is charged its estimate for the window (R430). -/
def State.chargeSpan (s : State) (q : Nat × List Nat) : State :=
  match s.entry q.1 with
  | none => s
  | some e =>
    if e.state != .issued || e.finished then s
    else
      let k := s.core e.core
      let a := chargeKey e.course e.station
      s.setCore e.core { k with
        energy := FMap.set (fun _ => 0) k.energy a (FMap.get (fun _ => 0) k.energy a + s.estimate e.core q.2) }

/-- A is divided among the cores in proportion to their projections. -/
def State.setAllowances (s : State) (projs : List (Nat × Nat)) (a : Nat) : State :=
  let total := (projs.map (fun q => q.2)).foldl (· + ·) 0
  projs.foldl (fun (s : State) q =>
    s.setCore q.1 { s.core q.1 with allow := if total = 0 then Config.openAllowance q.1 a else a * q.2 / total }) s

/-- The windows left without a raise run down (R429). -/
def State.ageRails (s : State) : State :=
  s.dieList.foldl (fun (s : State) d => s.setRail d { s.rail d with noRaise := (s.rail d).noRaise - 1 }) s

/-- The commits of groups POWER and LEVEE take effect at the window (Table 15.14). -/
def State.applyWindowGroups (s : State) : State := (s.applyGroup 0 1).applyGroup 0 2

/-- Budget windows run: in RUN, IDLE-G and IDLE-V, whose control clock runs (R419, Table 16.7). -/
def State.windows (s : State) : Bool := s.power.phase == .run && decide (s.power.state ≤ 2)

/-- The levee's work at a window boundary. In IDLE-V the core rails stand at retention voltage, so it orders no step and no
voltage. -/
def State.leveeWindow (s : State) (measured : Option (Nat × Nat)) (temps : List (Nat × Nat))
    (spans : List (Nat × List Nat)) : State :=
  let s := s.applyWindowGroups.settleCap
  let s := ((s.takeTelemetry measured).takeTemps temps).classCores.closeAccounts
  let n := s.commonStep topStep
  let projs := s.liveCores.map (fun c => (c, s.projection n c))
  let a := s.coreAllowance
  let s := (if s.power.state ≤ 1 then s.setSteps n else s).chargeStatic
  let s := spans.foldl State.chargeSpan s
  (s.setAllowances projs a).ageRails

/-- LEVEE_WINDOW (R430), which no core clock holds back (R419), so that IDLE-G and IDLE-V have windows too: `measured` is the
measured core and non-core energy of the window that ended in µJ, `temps` its sensor readings, and `spans` the tasks that run on, with their counts for the window that starts. -/
def execLeveeWindow (measured : Option (Nat × Nat)) (temps : List (Nat × Nat)) (spans : List (Nat × List Nat))
    (s : State) : Host.Outcome State Fault Refusal :=
  if s.windows then .next (s.leveeWindow measured temps spans) else .next s

/-- SENSOR_MISSING (R45): a sensor silent for ten windows is taken at its throttle limit, and logged. -/
def execSensorMissing (sensor : Nat) (s : State) : Host.Outcome State Fault Refusal :=
  let l := s.power.levee
  if FMap.get (fun _ => 0) l.silent sensor < 10 || l.limited.contains sensor || !s.sensors.contains sensor then .next s
  else
    let s := s.logEntry 0x0050 (sensor / 8) noUnit deviceWide (sensor % 8) 0
    .next (s.setLevee (fun (l : Levee) => { l with limited := insertNat sensor l.limited }))

/-- TELEMETRY_MISSING (R45): the window's estimates are raised by one quarter, and the case is logged. -/
def execTelemetryMissing (s : State) : Host.Outcome State Fault Refusal :=
  if !s.windows then .next s
  else .next ((s.logFor 0x0051 deviceWide 0 0).setLevee (fun (l : Levee) => { l with missing := true }))

/-! ## Voltage requests (R428, R429) -/

/-- The rail faults in the power-up or power-state exit that runs. -/
def State.railTry (s : State) (rail : Nat) : Nat := FMap.get (fun _ => 0) s.power.iluny.railTries rail

/-- Set them. -/
def State.setRailTry (s : State) (rail n : Nat) : State :=
  s.setIluny (fun (i : Iluny) => { i with railTries := FMap.set (fun _ => 0) i.railTries rail n })

/-- No rail waits for an acknowledgement. -/
def State.railsUp (s : State) : Bool := s.dieList.all (fun d => (s.rail d).request.isNone)

/-- The package leaves reset: rails acknowledged, PERST# deasserted (R529, R530). -/
def State.leaveReset (s : State) : State :=
  if s.power.phase == .held && s.railsUp && !s.power.perst then { s with power := { s.power with phase := .run } } else s

/-- VOLTAGE_ACK (R428): the regulator acknowledges the voltage that was requested of a die's rail, and the raises that
waited for it take effect. -/
def execVoltageAck (die mv : Nat) (s : State) : Host.Outcome State Fault Refusal :=
  let r := s.rail die
  if r.request ≠ some mv then .next s
  else
    let s := (s.setRail die { r with mv := mv, request := none, low := none, faults := 0 }).setRailTry die 0
    let s := (dieCores die).foldl (fun (s : State) c =>
      let k := s.core c
      match k.wanted with
      | some w => if stepMv w ≤ mv then s.setCore c { k with step := w, wanted := none } else s
      | none => s) s
    .next s.leaveReset

/-- The registers that a reset keeps: RESUME_STAT, RESUME_STEP and RESUME_SEED (Table 20.17). -/
def resumeKey (k : Nat) : Bool := decide (k = (⟨.resumeStat, 0, 0⟩ : Reg).key) || decide (0x1010400 ≤ k ∧ k < 0x1010800)

/-- Cores after a reset: those of the retirement map are retired. -/
def freshCores (retired : List Nat) : FMap Core :=
  retired.foldl (fun (m : FMap Core) c => FMap.set (fun _ => ({} : Core)) m c { retired := true }) []

/-- Rails of all dies at a voltage each. -/
def State.freshRails (s : State) (mv : Nat → Nat) : FMap Rail :=
  s.dieList.foldl (fun (m : FMap Rail) d => FMap.set (fun _ => ({} : Rail)) m d { mv := mv d }) []

/-- The package's logic at reset values (R517): what stands outside it stays, which is Iluny with its SPDM sessions and its
management link, the freeboard and the NOR slots, the retirement map and the fuses. -/
def State.freshPackage (s : State) : State :=
  { State.reset with
    part := s.part, pkg := s.pkg, pending := s.pending, free := s.free, out := s.out
    resume := { s.resume with pending := [], draft := none }
    regs := { ({} : RegFile) with active := FMap.keep (fun k _ => resumeKey k) s.regs.active }
    secure := { s.secure with polders := [], ide := [] }
    cores := freshCores s.power.iluny.retired
    power := { ({} : PowerState) with perst := s.power.perst, mgmt := s.power.mgmt, iluny := s.power.iluny } }

/-- Everything but the always-on island loses its supply. -/
def State.powerDown (s : State) : State :=
  let t := s.freshPackage
  { t with power := { t.power with
      phase := .off, levee := { t.power.levee with rails := s.freshRails (fun _ => 0) }
      iluny := { t.power.iluny with cap := none, release := false, overReads := 0, railTries := [], searched := false } } }

/-- A rail fails at power-up: retried once; then Iluny releases every rail, reports over MCTP and stays down (R529). -/
def State.powerUpRailFault (s : State) (rail mv : Nat) : State :=
  if s.railTry rail = 0 then (s.setRailTry rail 1).sendMv rail mv
  else
    let s := s.powerDown.logEntry 0x0052 rail noUnit deviceWide mv 0
    (s.setIluny (fun (i : Iluny) => { i with stopped := true })).sendMctp 2 rail

/-- Another rail fault in a row: the third locks the rail (R429). -/
def Rail.failed (r : Rail) : Rail :=
  { r with faults := r.faults + 1, locked := r.locked || decide (3 ≤ r.faults + 1) }

/-- A rail fault while the package works (R429): a raise is never applied, none is requested for 100 windows, and the die's cores
keep steps that the rail's voltage supports; an unacknowledged lowering leaves the rail higher. -/
def State.runRailFault (s : State) (die : Nat) (mv : Nat) : State :=
  let r := s.rail die
  let raise := decide (r.sure < mv)
  let s := s.setRail die { r with
    request := none, low := if raise then r.low else none, noRaise := if raise then 100 else r.noRaise }
  if !raise then s
  else (dieCores die).foldl (fun (s : State) c =>
    s.setCore c { s.core c with wanted := none, step := min (s.core c).step (stepAt r.sure) }) s

/-- A rail fault during the exit from a power state: retried once; a second one is a device fault. -/
def State.exitRailFault (s : State) (die mv : Nat) : State :=
  if s.railTry die = 0 then (s.setRailTry die 1).sendMv die mv
  else (s.setRail die { s.rail die with request := none }).raiseFault 3

/-- RAIL_FAULT (R429): a voltage request has not been acknowledged within 50 µs. -/
def execRailFault (die : Nat) (s : State) : Host.Outcome State Fault Refusal :=
  match (s.rail die).request with
  | none => .next s
  | some mv =>
    let s := (s.logEntry 0x0052 die noUnit deviceWide mv 0).setRail die (s.rail die).failed
    if s.power.phase == .held then .next (s.powerUpRailFault die mv)
    else if s.power.exiting.isSome then .next (s.exitRailFault die mv)
    else .next (s.runRailFault die mv)

/-! ## Iluny's guard (R434) -/

/-- A reading in W exceeds the level in force by more than 5 %. -/
def State.overLevel (s : State) (watts : Nat) : Bool :=
  decide (s.part.levelDeciKw s.levelEff * 100 * 105 < watts * 100)

/-- Iluny caps the level at the next lower index. -/
def State.capLevel (s : State) : State :=
  let c := s.levelEff - 1
  let s := s.setIluny (fun (i : Iluny) => { i with cap := some c, release := false, overReads := 0 })
  (s.latch ⟨.leveeStat, 0, 0⟩ 63).logFor 0x0053 deviceWide c 0

/-- Iluny logs an air side that has come above 45 °C (Table 21.11; log entry 136). -/
def State.noteAir (s : State) (air : Nat) : State :=
  let hot := decide (45 < air)
  let t := s.setIluny (fun (i : Iluny) => { i with airHot := hot })
  if hot && !s.power.iluny.airHot then t.logFor (Config.openClass 7).toNat deviceWide air 0 else t

/-- ILUNY_POWER_READ (R434): a reading of the module input power, with the air-side temperature (R535). -/
def execIlunyPowerRead (r : IlunyReading) (s : State) : Host.Outcome State Fault Refusal :=
  if s.power.phase != .run || !s.power.iluny.ready then .next s
  else
    let s := (s.noteAir r.air).setIluny (fun (i : Iluny) => { i with reading := r.watts })
    if !s.overLevel r.watts then .next (s.setIluny (fun (i : Iluny) => { i with overReads := 0 }))
    else if s.power.iluny.overReads = 0 then .next (s.setIluny (fun (i : Iluny) => { i with overReads := 1 }))
    else .next s.capLevel

end Sys2Proof.Machine
end

