-- ==== Sys2Proof/Machine/Freeboard.lean ====
section
/-! DEFINITION. The freeboard (17.5): what a save copies (Table 17.8), the NOR slots, the resume search (R470), and RESTORE
and DISCARD (R471). -/

namespace Sys2Proof.Machine

/-! ## The image (R466) -/

/-- The codes of Table 17.1. -/
def StepState.code : StepState → Nat
  | .idle => 0 | .opened => 1 | .complete => 2 | .vetoed => 3 | .failed => 4 | .committing => 5 | .repeating => 6

/-- The step maps: one per function that has one. -/
def State.savedSteps (s : State) : List SavedStep :=
  s.steps.map (fun q =>
    { func := q.1, state := q.2.state.code, step := q.2.step, attempt := q.2.attempt
      lastValid := q.2.lastValid, lastStep := q.2.lastStep, seed := q.2.lastSeed })

/-- A tensor has weir or dry state to save. -/
def Tensor.hasState (t : Tensor) : Bool := t.desc.outerScaled || t.fired || decide (t.dry ≠ 0)

/-- The tensor states, ascending by id. -/
def State.savedTensors (s : State) : List ResumeRec :=
  s.tensors.filterMap (fun kv => match kv.2 with
    | some t => if t.hasState then
        some { id := kv.1, crc := t.desc.crc, genNo := t.genNo, scale := t.scale, dry := t.dry, fired := t.fired }
      else none
    | none => none)

/-- The tensor states that the image has room for. -/
def tensorRoom : Nat := 12288

/-- The entry of a polder: handle, body, create count and POLDER_FUNCS, 152 bytes (R475). -/
def State.polderEntry (s : State) (p : Nat) (q : Polder) : List Byte :=
  fitBytes 72 q.handle ++ fitBytes 64 q.body ++ toLe 8 q.count ++ toLe 8 (s.reg ⟨.polderFuncs, p, 0⟩).toNat

/-- The polders of the image. -/
def State.savedPolders (s : State) : List (Nat × List Byte) :=
  s.secure.polders.filterMap (fun kv => kv.2.map (fun (q : Polder) => (kv.1, s.polderEntry kv.1 q)))

/-- Head and tail of a die's journal: the first slot in use, and the first after the last. -/
def State.journalExtent (s : State) (die : Nat) : List Nat :=
  let ks := (s.journal.filterMap (fun kv => kv.2.map (fun _ => kv.1))).filter (fun k => decide (k / journalRoom = die))
  match ks with
  | [] => [0, 0]
  | k :: _ => [k % journalRoom, (ks.foldl max 0) % journalRoom + 1]

/-- The feature set of the image: the confirmed one, or nothing. -/
def State.confirmedSet (s : State) : List Nat := if s.featuresConfirmed then s.drvFeatures else []

/-- The image of a save as the state stands. -/
def State.image (s : State) : FreeImage where
  count := s.resume.saves + 1
  part := s.part
  features := s.confirmedSet
  lifecycle := s.secure.lifecycle
  steps := s.savedSteps
  tensors := s.savedTensors.take tensorRoom
  polders := s.savedPolders
  journal := s.dieList.flatMap s.journalExtent
  log := s.log
  pair := (s.reg ⟨.pairStat, 0, 0⟩).toNat
  valid := true
  consumed := false

/-- Tensor states beyond the room are not saved, which is logged. -/
def State.logOmitted (s : State) : State :=
  let n := s.savedTensors.length
  if n ≤ tensorRoom then s else s.logFor (Config.openClass 0).toNat deviceWide (n - tensorRoom) 0

/-- The image of a save that starts now is drawn up as the control tables stand. -/
def State.draftImage (s : State) : State :=
  let s := s.logOmitted
  { s with resume := { s.resume with draft := some s.image } }

/-- The draft's last section and its header are written: the image is valid. -/
def State.finishSave (s : State) : State :=
  match s.resume.draft with
  | none => s
  | some m => { s with resume := { s.resume with sram := some m, saves := m.count, draft := none } }

/-- A save without power loss, at the entry to DEEP (R439). -/
def State.saveFreeboard (s : State) : State := s.draftImage.finishSave

/-! ## The search (R470) -/

/-- An image that a resume may use. -/
def usableImage (m : Option FreeImage) : Bool :=
  match m with
  | some m => m.valid && !m.consumed
  | none => false

/-- The save count of a slot. -/
def slotCount (m : Option FreeImage) : Nat :=
  match m with
  | some m => m.count
  | none => 0

/-- Where the search finds an image: the SRAM, or else the usable slot of the highest save count. -/
def ResumeState.search (r : ResumeState) : Option Nat :=
  if usableImage r.sram then some 0
  else if usableImage r.nor0 && (!usableImage r.nor1 || decide (slotCount r.nor1 ≤ slotCount r.nor0)) then some 1
  else if usableImage r.nor1 then some 2
  else none

/-- What the search may look through: package B reaches the slots of the SPI NOR only through Iluny A (R30). -/
def State.searchable (s : State) : ResumeState :=
  if s.moduleReach then s.resume else { s.resume with nor0 := none, nor1 := none }

/-- RESUME_STEP and RESUME_SEED of the functions, from the image that was found (Table 17.11). -/
def State.showSteps (s : State) (m : FreeImage) : State :=
  m.steps.foldl (fun (s : State) e =>
    (s.setReg ⟨.resumeStep, e.func, 0⟩ (BitVec.ofNat 64 ((if e.lastValid then 2 ^ 63 else 0) + e.lastStep % 2 ^ 48))).setReg
      ⟨.resumeSeed, e.func, 0⟩ (BitVec.ofNat 64 e.seed)) s

/-- Clear the resume registers. -/
def State.clearResume (s : State) : State :=
  { s with regs := s.regs.clearWhere resumeKey }

/-- Iluny's search at a power-up: SOURCE and the steps are shown; with no image FREEBOARD_INVALID is logged. -/
def State.resumeSearch (s : State) : State :=
  let s := s.clearResume.setIluny (fun (i : Iluny) => { i with searched := true })
  let s := { s with resume := { s.resume with found := s.searchable.search } }
  match s.foundImage with
  | none => s.logFor 0x0065 deviceWide 0 0
  | some m =>
    let r : Reg := ⟨.resumeStat, 0, 0⟩
    (s.setReg r (setF (s.reg r) 30 29 (if s.resume.found = some 0 then 1 else 2))).showSteps m

/-! ## RESTORE and DISCARD (R471) -/

/-- An image that has been used, in whatever place it stands. -/
def markUsed (count : Nat) (m : Option FreeImage) : Option FreeImage :=
  m.map (fun (m : FreeImage) => if m.count = count then { m with consumed := true } else m)

/-- The offered image is marked CONSUMED in SRAM and, where the package reaches it (R30), NOR, and AVAIL clears; FAULT_CTL.RESUME returns to none. -/
def State.consumeImage (s : State) (m : FreeImage) : State :=
  let nor (x : Option FreeImage) : Option FreeImage := if s.moduleReach then markUsed m.count x else x
  let s := { s with resume := { s.resume with
    sram := markUsed m.count s.resume.sram, nor0 := nor s.resume.nor0, nor1 := nor s.resume.nor1, found := none } }
  let r : Reg := ⟨.resumeStat, 0, 0⟩
  (s.setReg r (setBit (s.reg r) 31 false)).setBoth ⟨.faultCtl, 0, 0⟩ 2 1 0

/-- A saved polder comes back with its key, where this package's sealing key unwraps its handle. -/
def State.restorePolder (s : State) (e : Nat × List Byte) : State :=
  let b := (e.2.drop 72).take 64
  if !s.secure.sealed then s
  else
    match aesUnwrap (fitBytes 32 Config.sealingKey) (e.2.take 72) with
    | none => s
    | some key =>
      let n := leAt e.2 136 8
      let c := leAt b 8 4
      let q : Polder :=
        { body := b, count := n, ns := (mul32 (leAt b 12 4) c).1, c2 := (mul32 c c).1, handle := e.2.take 72
          meas := polderMeasure b n }
      (((s.loadKey e.1 key).setPolder e.1 (some q)).setBoth ⟨.polderFuncs, e.1, 0⟩ 63 0 (leAt e.2 144 8)).statPolder e.1 q

/-- LAST_COMMIT of a function comes back. -/
def State.restoreStep (s : State) (e : SavedStep) : State :=
  s.setStepM e.func { s.stepM e.func with lastValid := e.lastValid, lastStep := e.lastStep, lastSeed := e.seed }

/-- The image that is offered now. -/
def State.offeredImage (s : State) : Option FreeImage :=
  if getBit (s.reg ⟨.resumeStat, 0, 0⟩) 31 then s.foundImage else none

/-- RESUME_RESTORE (R471): polders with their keys and LAST_COMMIT come back, tensor states wait for their definitions, and
the image is used. -/
def execResumeRestore (s : State) : Host.Outcome State Fault Refusal :=
  match s.offeredImage with
  | none => .next s
  | some m =>
    if s.regF .faultCtl 0 2 1 ≠ 1 then .next s
    else
      let s := m.polders.foldl State.restorePolder s
      let s := m.steps.foldl State.restoreStep s
      let s := { s with resume := { s.resume with pending := m.tensors } }
      .next ((s.consumeImage m).latch ⟨.resumeStat, 0, 0⟩ 28)

/-- RESUME_DISCARD (R471): the image is used, and nothing comes back. -/
def execResumeDiscard (s : State) : Host.Outcome State Fault Refusal :=
  match s.offeredImage with
  | none => .next s
  | some m => if s.regF .faultCtl 0 2 1 ≠ 2 then .next s else .next (s.consumeImage m)

/-! ## The NOR copy (R468) -/

/-- NOR_COPY: Iluny A makes the copy, of package B's image over the management link (R30, R468). After 2 s on auxiliary power without main power the image goes to the older slot; a copy that is cut short
leaves the slot invalid. -/
def execNorCopy (whole : Bool) (s : State) : Host.Outcome State Fault Refusal :=
  let r := s.resume
  if s.power.phase != .off || s.power.iluny.input || !usableImage r.sram || !s.moduleReach then .next s
  else
    let m := r.sram.map (fun (m : FreeImage) => { m with valid := whole })
    if slotCount r.nor0 ≤ slotCount r.nor1 then .next { s with resume := { r with nor0 := m } }
    else .next { s with resume := { r with nor1 := m } }

end Sys2Proof.Machine
end

