-- ==== Sys2Proof/Machine/Net.lean ====
section
/-! DEFINITION. The network as packets and events meet it: the checks of Table 13.7 with replies and isolation (R364 to
R366), ordering, acknowledgement and credit (R345, R346), sessions (R344), step-round and expert messages, timers, and
the links of the ports (R337, R345, R524). -/

namespace Sys2Proof.Machine

/-! ## Serial numbers -/

/-- How far a PSN lies ahead of another, modulo 2^32. -/
def psnAhead (from_ dst : Nat) : Nat := (dst % 2 ^ 32 + 2 ^ 32 - from_ % 2 ^ 32) % 2 ^ 32

/-- A PSN lies before another. -/
def psnBefore (a b : Nat) : Bool := decide (2 ^ 31 ≤ psnAhead b a)

/-! ## Violations (R364 to R366) -/

/-- The port is isolated (R366). -/
def State.isolated (s : State) (port : Nat) : Bool := getBit (s.reg ⟨.portStat, port, 0⟩) 31

/-- The PORT_VIOL field of a violation class (Table 13.12). -/
def violField : Nat → Nat × Nat
  | 1 => (11, 0)
  | 2 => (23, 12)
  | 3 => (35, 24)
  | 4 => (47, 36)
  | _ => (59, 48)

/-- Log an event of a port. -/
def State.logPort (s : State) (cls port arg0 arg1 : Nat) : State := s.logEntry cls (port / 4) port deviceWide arg0 arg1

/-- A violation is counted and logged; a port over its limit isolates (R364, R366). `answer` says whether the packet is
answered where it does not. -/
def State.countViolation (s : State) (port peer cls : Nat) (answer : State → State) : State :=
  let q := violField cls
  let s := (s.countReg ⟨.portViol, port, 0⟩ q.1 q.2 1).logPort 0x0042 port peer cls
  let n := if s.net.fresh.contains port then 0 else FMap.get (fun _ => 0) s.net.window port + 1
  let s := { s with net := { s.net with window := FMap.set (fun _ => 0) s.net.window port n } }
  if s.net.limit < n && !s.isolated port then
    let s := s.sendPlain peer port (.reply 0x06 0)
    (s.latch ⟨.portStat, port, 0⟩ 31).logPort 0x0043 port n 0
  else answer s

/-- A Dunnath violation: the packet is dropped, and answered unless the rate of R365 is used up. -/
def State.violation (s : State) (port peer cls psn : Nat) (quiet : Bool) : State :=
  s.countViolation port peer cls (fun s => if quiet then s else s.sendPlain peer port (.reply cls psn))

/-! ## The checks (Table 13.7) -/

/-- The packet carries a PSN of its own: DATA and CTRL do. -/
def hasPsn : NetMsg → Bool
  | .ack | .nak _ | .credit _ | .openReq _ | .openAck _ | .closeReq | .reply _ _ => false
  | _ => true

/-- The course that a message concerns, and the tensor whose generation its header gives. -/
def State.msgConcerns (s : State) : NetMsg → Option Nat × Option Nat
  | .part c st p _ _ => (some c, (s.course c).map (fun x => x.inTensor st p))
  | .block k _ | .answer k _ | .answerEnd k | .deny k => (some k.course, some k.operand)
  | .rows k _ | .fetch k | .ship k | .cancel k => (none, some k.operand)
  | _ => (none, none)

/-- A malformed header, as far as header and session show it. -/
def State.malformedPacket (s : State) (peer : Nat) (h : DnHdr) (m : NetMsg) : Bool :=
  let q := s.session peer
  let hello := match m with
    | .openReq _ | .openAck _ => true
    | _ => false
  let reserved := match m with
    | .reply c _ => decide (6 < c)
    | _ => false
  decide (h.ver ≠ 1 ∧ h.ver ≠ 2) || (!hello && !q.closed && decide (q.version < h.ver)) || decide (4096 < h.len)
    || (h.rescaled && decide (h.ver = 1)) || reserved || (!hello && !q.closed && decide (q.rxId = 0 ∨ h.session ≠ q.rxId))

/-- The epoch of the traffic is newer than any that the device has issued, or GEN is neither the generation read nor
the one written (R364, R385). -/
def State.epochBroken (s : State) (h : DnHdr) (m : NetMsg) : Bool :=
  let w := s.msgConcerns m
  (match w.1.bind s.course with
    | some c => newerEpoch c.epoch h.epoch
    | none => false)
    || (match w.2.bind s.tensor with
      | some t => decide (h.gen ≠ t.genNo % 2 ^ 16 ∧ h.gen ≠ (t.genNo + 1) % 2 ^ 16)
      | none => false)

/-- The instance of a contribution is the one that the device runs on the channel. -/
def State.instanceRuns (s : State) (h : DnHdr) (c st p : Nat) : Bool :=
  match (s.chan h.channel).current, s.course c with
  | some k, some x => decide (k.course = c ∧ k.station = st ∧ k.port = p ∧ h.attempt = x.attempt)
  | _, _ => false

/-- The course of an id: running, or completed in a step that is still open. -/
def State.knownCourse (s : State) (id : Nat) : Option Course :=
  match s.course id with
  | some c => some c
  | none => s.copies.find? (fun (c : Course) => decide (c.id = id))

/-- Exchange data for which the device has granted no credit: of a later instance than it runs on the channel (R346). An
older epoch is no overrun, nor is another attempt of a step that is still open (R361). -/
def State.ungranted (s : State) (h : DnHdr) : NetMsg → Bool
  | .part c st p _ _ =>
    match s.knownCourse c with
    | none => true
    | some x => decide (h.attempt = x.attempt) && !staleEpoch x.epoch h.epoch && !s.instanceRuns h c st p
  | _ => false

/-- The violation class of a packet, if it breaks a check of Table 13.7. -/
def State.brokenBy (s : State) (peer : Nat) (h : DnHdr) (m : NetMsg) : Option Nat :=
  let q := s.session peer
  let hello := match m with
    | .openReq _ | .openAck _ => true
    | _ => false
  let d := psnAhead q.rxNext h.psn
  if s.malformedPacket peer h m then some 1
  else if hello then none
  else if q.closed then some 5
  else if !hasPsn m then none
  else if 2 ^ 31 ≤ d then (if 16384 < 2 ^ 32 - d then some 5 else none)
  else if 16384 ≤ d then some 2
  else if q.held.any (fun x => decide (x.1.psn = h.psn)) then none
  else if (isData m && decide (q.granted < h.len)) || s.ungranted h m then some 3
  else if s.epochBroken h m then some 4
  else none

/-! ## Acknowledgement, credit and retransmission (R345, R346) -/

/-- A peer is lost: its session closes, which is logged, and OPEN goes out until it answers (R345). -/
def State.losePeer (s : State) (peer : Nat) : State :=
  let s := s.logFor 0x0041 deviceWide peer 0
  let s := s.setSession peer { s.session peer with closed := true }
  s.openTo peer

/-- Put the changed copy of an unacknowledged packet in its place. -/
def DnSession.setTx (q : DnSession) (p : TxPacket) : DnSession :=
  { q with unacked := q.unacked.map (fun (x : TxPacket) => if x.hdr.psn = p.hdr.psn then p else x) }

/-- Retransmit a packet, on another port where another is up; the eighth time the session closes instead. A payload of a
polder without a port that may carry it is refused (R484). -/
def State.retransmit (s : State) (peer psn : Nat) : State :=
  let q := s.session peer
  match q.unacked.find? (fun x => decide (x.hdr.psn = psn)) with
  | none => s
  | some p =>
    if 7 ≤ p.retries then s.losePeer peer
    else
      let secure := s.guardedMsg p.msg
      match s.sendPort secure (some p.port) with
      | some port =>
        let h := { p.hdr with retx := true, ackPsn := q.rxNext }
        (s.setSession peer (q.setTx { p with port := port, retries := p.retries + 1, hdr := h })).transmit peer port h p.msg
          p.data
      | none =>
        let s := s.setSession peer (q.setTx { p with retries := p.retries + 1 })
        match secure, s.msgTensor p.msg with
        | true, some id =>
          ((s.countDenial (s.polderOf id) 0x05).logFor 0x0034 deviceWide id 0x05)
        | _, _ => s

/-- Channels whose instance has left them fall free (R354). -/
def State.leaveChannels (s : State) : State := (List.range 64).foldl (fun (s : State) ch => s.leaveChannel ch) s

/-- What every packet brings: the cumulative acknowledgement, and further credit. -/
def State.takeAcks (s : State) (peer : Nat) (h : DnHdr) : State :=
  let q := s.session peer
  let q := { q with
    unacked := q.unacked.filter (fun (x : TxPacket) => !psnBefore x.hdr.psn h.ackPsn)
    room := q.room + h.credit * creditUnit }
  ((s.setSession peer q).push peer []).leaveChannels

/-- Send an acknowledgement of its own. -/
def State.sendAck (s : State) (peer port : Nat) : State := s.sendPlain peer port .ack

/-! ## Sessions (R344) -/

/-- OPEN: the session opens towards this device at the lower version; OPEN_ACK assigns its id and grants 64 units. -/
def State.takeOpen (s : State) (peer port v : Nat) : State :=
  if !s.peers.contains peer then s
  else
    let q := s.session peer
    let q := { q with
      closed := false, version := min v s.offeredVersion, rxId := s.net.nextId, rxNext := 0, held := []
      granted := 0, freed := 0, sinceAck := 0 }
    let s := s.setSession peer q
    let s := { s with net := { s.net with nextId := s.net.nextId + 1 } }
    if s.mute || !s.portSends port then s
    else
      let v := max 1 q.version
      let h : DnHdr := { ver := v, session := q.rxId, credit := 64, device := true, len := 1 + xctxBytes v }
      (s.setSession peer { q with granted := 64 * creditUnit }).transmit peer port h (.openAck q.version)
        (plainBytes (.openAck q.version))

/-- OPEN_ACK: the session is open from this device, at the version chosen, with its first credit; what waits goes. -/
def State.takeOpenAck (s : State) (peer : Nat) (h : DnHdr) (v : Nat) : State :=
  if !s.peers.contains peer || (s.session peer).isOpen then s
  else
    let q := s.session peer
    let q := { q with isOpen := true, closed := false, version := v, txId := h.session, room := h.credit * creditUnit }
    (s.setSession peer q).push peer []

/-- CLOSE: the session is closed. -/
def State.takeClose (s : State) (peer : Nat) : State :=
  let q := (s.session peer).restart
  s.setSession peer { q with closed := true, rxId := 0, held := [], granted := 0, freed := 0, sinceAck := 0 }

/-! ## Messages -/

/-- A contribution to an exchange: kept for its instance; of an older epoch or attempt it is dropped, and a newer attempt
repeats the step (R361). -/
def State.takePart (s : State) (peer : Nat) (h : DnHdr) (c st port : Nat) (veto : Bool) (x : XLoad) : State :=
  match s.knownCourse c with
  | none => s.freeCredit peer (s.loadBytes x)
  | some k =>
    let keep (s : State) (k : Course) : State :=
      let key : XKey := { step := k.step, course := c, station := st, port := port }
      let p : XPart := { device := peer, key := key, leg := h.leg, veto := veto || h.veto, load := x }
      let s := { s with net := { s.net with inbox := s.net.inbox ++ [p] } }
      if veto || h.veto then s.vetoQueued key else s
    if staleEpoch k.epoch h.epoch || decide (h.attempt < k.attempt) then s.freeCredit peer (s.loadBytes x)
    else if h.attempt = k.attempt then
      if (s.course c).isSome then keep s k else s.freeCredit peer (s.loadBytes x)
    else if !k.stepMode then s.freeCredit peer (s.loadBytes x)
    else
      let s := s.onRepeat peer (k.stepName h.attempt)
      match s.course c with
      | some k => if h.attempt = k.attempt then keep s k else s.freeCredit peer (s.loadBytes x)
      | none => s.freeCredit peer (s.loadBytes x)

/-- What a STEP_DONE brings is kept by its sender (R360). -/
def State.takeRound (s : State) (peer : Nat) (m : StepRound) : State :=
  let same (r : Nat × StepRound) : Bool :=
    decide (r.1 = peer ∧ r.2.func = m.func ∧ r.2.course = m.course ∧ r.2.step = m.step ∧ r.2.attempt = m.attempt
      ∧ r.2.final = m.final)
  -- agreements of several tensors' probes stand side by side
  let old := if m.final then s.net.rounds.filter (fun r => !same r) else s.net.rounds
  { s with net := { s.net with rounds := old ++ [(peer, m)] } }

/-- Expert traffic for a running course by its ATTEMPT (R361): a lower one is dropped, and DATA of a higher one repeats the step
first. -/
def State.byAttempt (s : State) (peer : Nat) (h : DnHdr) (k : ExpertKey) (x : Option Tile) (f : State → State) : State :=
  match s.knownCourse k.course with
  | none => f s
  | some c =>
    if staleEpoch c.epoch h.epoch then f s
    else if h.attempt < c.attempt then
      match x with
      | some x => s.freeCredit peer (s.payloadBytes x)
      | none => s
    else if x.isSome && c.stepMode && decide (c.attempt < h.attempt) then f (s.onRepeat peer (c.stepName h.attempt))
    else f s

/-- A message takes effect, in the order of its session. -/
def State.deliverMsg (s : State) (peer : Nat) (h : DnHdr) : NetMsg → State
  | .part c st port veto x => s.takePart peer h c st port veto x
  | .block k x => s.byAttempt peer h k (some x) (fun s => s.takeBlock peer h k x)
  | .rows k x => s.byAttempt peer h k (some x) (fun s => (s.takeRows peer k x).pumpServed)
  | .answer k x => s.byAttempt peer h k (some x) (fun s => s.takeAnswer peer h k x)
  | .stepDone m => s.takeRound peer m
  | .repeatStep n => s.onRepeat peer n
  | .giveUp n => s.onGiveUp n
  | .fetch k => s.serveFetch peer h k
  | .ship k => s.serveShip peer h k
  | .answerEnd k => s.byAttempt peer h k none (fun s => s.endAnswer peer h k)
  | .cancel k => s.takeCancel peer h k.course
  | .deny k => s.byAttempt peer h k none (fun s => s.takeDeny peer h k)
  | _ => s

/-- In mirror mode package A hands every payload on to package B (R460). -/
def State.handOn (s : State) (peer : Nat) (h : DnHdr) (m : NetMsg) : State :=
  if s.mirror && s.pkg == .a then s.emit (.pairPayload peer h m) else s

/-- Deliver what has become next in order. -/
def State.deliverHeld (s : State) (peer : Nat) : Nat → State
  | 0 => s
  | n + 1 =>
    let q := s.session peer
    match q.held.find? (fun x => decide (x.1.psn = q.rxNext)) with
    | none => s
    | some x =>
      let q := { q with
        rxNext := (q.rxNext + 1) % 2 ^ 32
        held := q.held.filter (fun (y : DnHdr × NetMsg) => y.1.psn ≠ x.1.psn) }
      (((s.setSession peer q).handOn peer x.1 x.2).deliverMsg peer x.1 x.2).deliverHeld peer n

/-- A packet that has come before (R345). -/
def DnSession.duplicate (q : DnSession) (h : DnHdr) (m : NetMsg) : Bool :=
  hasPsn m && (psnBefore h.psn q.rxNext || q.held.any (fun x => decide (x.1.psn = h.psn)))

/-- A packet with a PSN waits for its turn; every 16th is acknowledged. -/
def State.takeSequenced (s : State) (peer port : Nat) (h : DnHdr) (m : NetMsg) : State :=
  let q := s.session peer
  let q := { q with
    held := q.held ++ [(h, m)], granted := if isData m then q.granted - h.len else q.granted, sinceAck := q.sinceAck + 1 }
  let s := (s.setSession peer q).deliverHeld peer (q.held.length + 1)
  if 16 ≤ (s.session peer).sinceAck then s.sendAck peer port else s

/-- A packet without a PSN takes effect at once. -/
def State.takePlain (s : State) (peer : Nat) (h : DnHdr) : NetMsg → State
  | .nak psn => s.retransmit peer psn
  | .credit (some i) =>
    let q := s.session peer
    let g := (i.1, i.2.1, i.2.2, h.attempt)
    (s.setSession peer { q with grants := q.grants.filter (fun x => x ≠ g) ++ [g] }).push peer []
  | .closeReq => s.takeClose peer
  | _ => s

/-- A REPLY: it is logged, never answered, and starts nothing else (R364). -/
def State.takeReply (s : State) (port peer code psn : Nat) : State :=
  s.logPort 0x0042 port peer (0x100 + code + 2 ^ 32 * psn)

/-- The packet is a REPLY. -/
def isReply : NetMsg → Bool
  | .reply _ _ => true
  | _ => false

/-- A Dunnath packet arrives on a port. -/
def State.receive (s : State) (port peer : Nat) (h : DnHdr) (m : NetMsg) (quiet : Bool) : State :=
  if !s.hostUp then s
  else if s.mirror && s.pkg == .b then s.deliverMsg peer h m
  else if !s.portUp port then s
  else if !s.portTakes port then s.countReg ⟨.portCnt, port, 0⟩ 19 0 1
  else
    match s.brokenBy peer h m with
    | some cls => s.violation port peer cls h.psn (quiet || isReply m)
    | none =>
      match m with
      | .reply code psn => s.takeReply port peer code psn
      | .openReq v => s.takeOpen peer port v
      | .openAck v => s.takeOpenAck peer h v
      | _ =>
        if (s.session peer).duplicate h m then s.sendAck peer port
        else
          let s := s.takeAcks peer h
          if hasPsn m then s.takeSequenced peer port h m else s.takePlain peer h m

/-- Receive a packet of one of some types. -/
def State.receiveOf (s : State) (p : NetMsg → Bool) (port peer : Nat) (h : DnHdr) (m : NetMsg) (quiet : Bool) :
    Host.Outcome State Fault Refusal :=
  if p m then .next (s.receive port peer h m quiet) else .next s

/-- DATA (R345). -/
def execDnData (port peer : Nat) (hdr : DnHdr) (msg : NetMsg) (quiet : Bool) (s : State) :
    Host.Outcome State Fault Refusal :=
  s.receiveOf (fun m => match m with
    | .frag | .part .. | .block .. | .rows .. | .answer .. => true
    | _ => false) port peer hdr msg quiet

/-- ACK (R345). -/
def execDnAck (port peer : Nat) (hdr : DnHdr) (quiet : Bool) (s : State) : Host.Outcome State Fault Refusal :=
  .next (s.receive port peer hdr .ack quiet)

/-- NAK (R345). -/
def execDnNak (port peer : Nat) (hdr : DnHdr) (psn : Nat) (quiet : Bool) (s : State) :
    Host.Outcome State Fault Refusal :=
  .next (s.receive port peer hdr (.nak psn) quiet)

/-- CREDIT (R346); `instance_` is the exchange instance for which the peer grants its channel. -/
def execDnCredit (port peer : Nat) (hdr : DnHdr) (instance_ : Option (Nat × Nat × Nat)) (quiet : Bool) (s : State) :
    Host.Outcome State Fault Refusal :=
  .next (s.receive port peer hdr (.credit instance_) quiet)

/-- OPEN (R344). -/
def execDnOpen (port peer : Nat) (hdr : DnHdr) (version : Nat) (quiet : Bool) (s : State) :
    Host.Outcome State Fault Refusal :=
  .next (s.receive port peer hdr (.openReq version) quiet)

/-- OPEN_ACK (R344). -/
def execDnOpenAck (port peer : Nat) (hdr : DnHdr) (version : Nat) (quiet : Bool) (s : State) :
    Host.Outcome State Fault Refusal :=
  .next (s.receive port peer hdr (.openAck version) quiet)

/-- CLOSE (R344). -/
def execDnClose (port peer : Nat) (hdr : DnHdr) (quiet : Bool) (s : State) : Host.Outcome State Fault Refusal :=
  .next (s.receive port peer hdr .closeReq quiet)

/-- REPLY (R364): logged, and never answered. -/
def execDnReply (port peer : Nat) (hdr : DnHdr) (code psn : Nat) (quiet : Bool) (s : State) :
    Host.Outcome State Fault Refusal :=
  .next (s.receive port peer hdr (.reply code psn) quiet)

/-- STEP_DONE (R360). -/
def execNetStepDone (port peer : Nat) (hdr : DnHdr) (msg : StepRound) (quiet : Bool) (s : State) :
    Host.Outcome State Fault Refusal :=
  .next (s.receive port peer hdr (.stepDone msg) quiet)

/-- The order of a peer (R417). -/
def peerOrder (stop : Bool) (peer : Nat) : Order := { stop := stop, master := 4, requester := 0x30000 + peer, ring := 0 }

/-- REPEAT (R361); one that a contradicting order of the same control cycle beats is logged, and GIVE_UP goes out
(Table 13.16). -/
def execNetRepeat (port peer : Nat) (hdr : DnHdr) (msg : StepName) (quiet : Bool) (against : Option Order) (s : State) :
    Host.Outcome State Fault Refusal :=
  let mine := peerOrder false peer
  match beatenBy mine against with
  | none => .next ((s.logOrders msg.func mine against).receive port peer hdr (.repeatStep msg) quiet)
  | some _ =>
    let s := s.logOrders msg.func mine against
    .next ((s.receive port peer hdr .frag quiet).broadcast { attempt := msg.attempt } (.giveUp msg))

/-- GIVE_UP (R362). -/
def execNetGiveUp (port peer : Nat) (hdr : DnHdr) (msg : StepName) (quiet : Bool) (s : State) :
    Host.Outcome State Fault Refusal :=
  .next (s.receive port peer hdr (.giveUp msg) quiet)

/-- FETCH (R384). -/
def execExFetch (port peer : Nat) (hdr : DnHdr) (key : ExpertKey) (quiet : Bool) (s : State) :
    Host.Outcome State Fault Refusal :=
  .next (s.receive port peer hdr (.fetch key) quiet)

/-- SHIP (R384). -/
def execExShip (port peer : Nat) (hdr : DnHdr) (key : ExpertKey) (quiet : Bool) (s : State) :
    Host.Outcome State Fault Refusal :=
  .next (s.receive port peer hdr (.ship key) quiet)

/-- ANSWER_END (R384). -/
def execExAnswerEnd (port peer : Nat) (hdr : DnHdr) (key : ExpertKey) (quiet : Bool) (s : State) :
    Host.Outcome State Fault Refusal :=
  .next (s.receive port peer hdr (.answerEnd key) quiet)

/-- CANCEL (R387). -/
def execExCancel (port peer : Nat) (hdr : DnHdr) (key : ExpertKey) (quiet : Bool) (s : State) :
    Host.Outcome State Fault Refusal :=
  .next (s.receive port peer hdr (.cancel key) quiet)

/-- DENY (R381). -/
def execExDeny (port peer : Nat) (hdr : DnHdr) (key : ExpertKey) (quiet : Bool) (s : State) :
    Host.Outcome State Fault Refusal :=
  .next (s.receive port peer hdr (.deny key) quiet)

/-- DUNNATH_VIOLATION (R364): `raw` is the UDP payload of a packet whose bytes give no message, and none where they give the
header and the message; its own check then decides. A broken REPLY is not answered. -/
def execDunnathViolation (port peer : Nat) (hdr : DnHdr) (msg : NetMsg) (raw : List Byte) (quiet : Bool) (s : State) :
    Host.Outcome State Fault Refusal :=
  if !s.hostUp || !s.portTakes port then .next s
  else if !raw.isEmpty then
    if malformedBytes raw then
      .next (s.violation port peer 1 (headerOf raw).psn (quiet || decide (leAt raw 0 1 % 16 = 9)))
    else .next s
  else
    match s.brokenBy peer hdr msg with
    | some cls => .next (s.violation port peer cls hdr.psn (quiet || isReply msg))
    | none => .next s

/-- VIOL_WINDOW (R366): every port counts afresh, under the VIOL_LIMIT in force. -/
def execViolWindow (s : State) : Host.Outcome State Fault Refusal :=
  .next { s with net := { s.net with window := [], fresh := [], limit := s.regF .netCtl 0 47 32 } }

/-! ## Timers (R345) -/

/-- RETRANSMIT_TIMEOUT: 64 µs since the last transmission of an unacknowledged packet. -/
def execRetransmitTimeout (peer psn : Nat) (s : State) : Host.Outcome State Fault Refusal :=
  if s.hostUp then .next (s.retransmit peer psn) else .next s

/-- ACK_TIMER: packets have waited 2 µs for their acknowledgement. -/
def execAckTimer (peer : Nat) (s : State) : Host.Outcome State Fault Refusal :=
  if s.hostUp && decide (0 < (s.session peer).sinceAck) then .next (s.sendLoose peer .ack) else .next s

/-- NAK_TIMER: a gap has persisted for 8 µs. -/
def execNakTimer (peer : Nat) (s : State) : Host.Outcome State Fault Refusal :=
  if s.hostUp && !(s.session peer).held.isEmpty then .next (s.sendLoose peer (.nak (s.session peer).rxNext)) else .next s

/-! ## Ports (R337, R338, R345, R524) -/

/-- Sub-ports of a mode (Table 13.1). -/
def modeSubPorts : Nat → Nat
  | 0 => 1 | 1 => 2 | 2 => 4 | 3 => 8 | 4 => 1 | _ => 0

/-- The links of a port. -/
def State.setLinks (s : State) (port v : Nat) : State :=
  let r : Reg := ⟨.portStat, port, 0⟩
  s.setReg r (setF (s.reg r) 7 0 v)

/-- Every packet that is unacknowledged on a port goes out again at once on another (R345). -/
def State.movePackets (s : State) (port : Nat) : State :=
  s.net.sessions.foldl (fun (s : State) q =>
    (q.2.unacked.filter (fun p => decide (p.port = port))).foldl (fun (s : State) p => s.retransmit q.1 p.hdr.psn) s) s

/-- Links of a port go down: logged, and with the last of them its packets move. -/
def State.dropLinks (s : State) (port v : Nat) : State :=
  let s := (s.setLinks port v).logPort 0x0040 port v 0
  if v = 0 then s.movePackets port else s

/-- PORT_LINK_UP: a sub-port of an enabled port has trained; sessions that are not open are asked for again. -/
def execPortLinkUp (port sub : Nat) (s : State) : Host.Outcome State Fault Refusal :=
  let mode := s.regF .portCtl port 7 4
  if decide (s.part.ports ≤ port ∨ modeSubPorts mode ≤ sub) || !getBit (s.reg ⟨.portCtl, port, 0⟩) 0
      || s.net.noRefclk.contains (port / 4) || !s.hostUp then .next s
  else
    let old := s.regF .portStat port 7 0
    let s := s.setLinks port (old ||| 2 ^ sub)
    .next (s.peers.foldl (fun (s : State) p => if (s.session p).isOpen then s.push p [] else s.openTo p) s)

/-- PORT_LINK_DOWN: a sub-port's link goes down. -/
def execPortLinkDown (port sub : Nat) (s : State) : Host.Outcome State Fault Refusal :=
  let old := s.regF .portStat port 7 0
  if old.testBit sub && decide (sub < 8 ∧ port < s.part.ports) then .next (s.dropLinks port (old - 2 ^ sub)) else .next s

/-- ETH_REFCLK_LOSS (R524): the links of the die's ports go down while the clock is lost; `back` is its return. -/
def execEthRefclkLoss (die : Nat) (back : Bool) (s : State) : Host.Outcome State Fault Refusal :=
  if s.part.dies ≤ die then .next s
  else if back then
    .next { s with net := { s.net with noRefclk := s.net.noRefclk.filter (fun d => d ≠ die) } }
  else
    let s := { s with net := { s.net with noRefclk := insertNat die s.net.noRefclk } }
    .next ((List.range 4).foldl (fun (s : State) i =>
      let port := 4 * die + i
      if s.regF .portStat port 7 0 = 0 then s else s.dropLinks port 0) s)

/-- The association of a port's receive channel that a frame's SecTAG names. -/
def State.macsecSa (s : State) (port sub : Nat) (g : SecTag) : Option MacSa :=
  s.net.sas.find? (fun (a : MacSa) => !a.transmit && decide (a.port = port ∧ a.sub = sub ∧ a.sc = g.sc ∧ a.an = g.an))

/-- What MACsec makes of a frame (R339): none where it is dropped and counted; else the state with its packet number passed. It
passes without a SecTAG where the port takes such frames; with one where its association is installed, its integrity check holds, and
its packet number has not been passed (window 0). -/
def State.passMacsec (s : State) (port sub : Nat) (tag : Option SecTag) : Option State :=
  match tag with
  | none => if s.macsecReq port then none else some s
  | some g =>
    match s.macsecSa port sub g with
    | none => none
    | some a =>
      if g.intact && decide (a.pn ≤ g.pn) then
        some { s with net := { s.net with sas := s.net.sas.map (fun (x : MacSa) =>
          if x = a then { x with pn := g.pn + 1 } else x) } }
      else none

/-- ETH_FRAME_DROPPED (R338, R339): a frame of an unsupported kind, or one that fails MACsec's checks, which counts. The FEC
codewords that the port has met since the last such event count in PORT_CNT (Table 13.11). -/
def execEthFrameDropped (port : Nat) (drop : FrameDrop) (s : State) : Host.Outcome State Fault Refusal :=
  if s.portUp port then
    let r : Reg := ⟨.portCnt, port, 0⟩
    let s := if drop.corrected = 0 then s else s.countReg r 63 40 drop.corrected
    let s := if drop.uncorrected = 0 then s else s.countReg r 39 20 drop.uncorrected
    match s.passMacsec port drop.sub drop.tag with
    | some u => .next u
    | none => .next (s.countReg r 19 0 1)
  else .next s

/-! ## Commit groups at their boundary -/

/-- A port that is no longer enabled, or whose mode has changed, has no link. -/
def State.settlePorts (s : State) : State :=
  (List.range s.part.ports).foldl (fun (s : State) n =>
    if s.regF .portStat n 7 0 ≠ 0 && !getBit (s.reg ⟨.portCtl, n, 0⟩) 0 then (s.setLinks n 0).movePackets n else s) s

/-- Package A leaves mirror mode where group FAULT clears MIRROR (R460). -/
def State.settleMirror (s : State) : State :=
  if s.pkg == .a && s.mirror && !getBit (s.reg ⟨.faultCtl, 0, 0⟩) 0 then s.pairBit 31 false else s

/-- COMMIT_GROUP_APPLY (R413): a committed group's boundary falls. The groups whose boundary is an event of its
own apply within that event's command; with group NET a port that is switched off sends its packets elsewhere. -/
def execCommitGroupApply (func group : Nat) (s : State) : Host.Outcome State Fault Refusal :=
  if eventGroup group then .next s
  else
    let s := s.applyGroup func group
    if group = 5 then .next s.settlePorts else if group = 7 then .next s.settleMirror else .next s

end Sys2Proof.Machine
end

