-- ==== Sys2Proof/Machine/Power.lean ====
section
/-! DEFINITION. Power states and wake (16.9, 16.10), core-level IDLE-G (R436), and the control cluster with its mirror
(R27, R29). -/

namespace Sys2Proof.Machine

/-! ## Core-level IDLE-G (R436) -/

/-- MAX_STATE of POWER_CTL. -/
def State.maxState (s : State) : Nat := s.regF .powerCtl 0 10 8

/-- A task that the placer has given to a core is ready. -/
def State.readyOn (s : State) (core : Nat) : Bool :=
  s.courses.any (fun c => c.active && c.stations.any (fun st =>
    decide (st.place.core = core) && (s.openTasks c st).any (fun k =>
      let t := taskOf c st k
      s.taskDue t && t.ready (s.taskNeeds t) && s.expertsReady t)))

/-- CORE_IDLE_G_ENTER: a core with no task running and none ready gates its clock, unless MAX_STATE is RUN. -/
def execCoreIdleGEnter (core : Nat) (s : State) : Host.Outcome State Fault Refusal :=
  if !s.hostUp || s.maxState = 0 || decide (s.part.cores ≤ core) || s.coreRetired core || !(s.runningOn core).isEmpty
      || s.readyOn core then .next s
  else .next (s.setCore core { s.core core with idle := true })

/-- CORE_IDLE_G_EXIT: a task has become ready, and the core's clock runs again. -/
def execCoreIdleGExit (core : Nat) (s : State) : Host.Outcome State Fault Refusal :=
  if s.hostUp && (s.core core).idle && s.readyOn core then .next (s.setCore core { s.core core with idle := false })
  else .next s

/-! ## The choice of a state (R437) -/

/-- Exit latencies in ns of the states 0 to 4 (Table 16.7); IDLE-G counts 15 ns at nominal clocks. -/
def exitLatency (keep : Bool) : Nat → Nat
  | 0 => 0 | 1 => 15 | 2 => 18000 | 3 => if keep then 95000 else 120000 | _ => 2500000

/-- The enabled submission rings. -/
def State.enabledRings (s : State) : List Nat :=
  s.regs.active.filterMap (fun kv =>
    if 0x40000 ≤ kv.1 ∧ kv.1 < 0x80000 ∧ kv.1 % 0x40 = 0x10 then
      (if getBit kv.2 31 then some ((kv.1 - 0x40000) / 0x40) else none)
    else none)

/-- WAKE_TOLERANCE_NS. -/
def State.defaultTol (s : State) : Nat := s.regF .wakeTolerance 0 31 0

/-- A ring's wake tolerance: that of its last POWER_HINT, or the default. -/
def State.ringTol (s : State) (n : Nat) : Nat :=
  match (s.sq n).wakeTol with
  | some t => if t = 0xFFFFFFFF then s.defaultTol else t
  | none => s.defaultTol

/-- T: the smallest tolerance of the enabled rings. -/
def State.tolerance (s : State) : Nat :=
  match s.enabledRings with
  | [] => s.defaultTol
  | n :: ns => ns.foldl (fun a k => min a (s.ringTol k)) (s.ringTol n)

/-- Compatibility keep mode is in force (R443). -/
def State.keepMode (s : State) : Bool := s.feature 7

/-- The deepest state allowed by T and MAX_STATE, from a state downwards. -/
def State.deepest (s : State) : Nat → Nat
  | 0 => 0
  | n + 1 => if n + 1 ≤ s.maxState ∧ exitLatency s.keepMode (n + 1) ≤ s.tolerance then n + 1 else s.deepest n

/-- The device is idle. -/
def State.deviceIdle (s : State) : Bool :=
  s.courses.isEmpty && s.host.inflight.isEmpty && s.host.cq.all (fun q => q.2.held.isEmpty)
    && s.net.sessions.all (fun q => q.2.unacked.isEmpty)
    && !(s.journal.any (fun kv => match kv.2 with
      | some e => e.state == .issued
      | none => false))

/-- IDLE_HOLD_EXPIRE (R437): the device has been idle for IDLE_HOLD_US, and the control cluster chooses a state. -/
def execIdleHoldExpire (s : State) : Host.Outcome State Fault Refusal :=
  if s.hostUp && s.deviceIdle then .next { s with power := { s.power with chosen := s.deepest 4 } } else .next s

/-! ## Entry (R438, R439, R443) -/

/-- The CM of a core of which only some banks keep their power (R443). -/
def Sram.keepBanks (m : Sram) (kept : Nat) : Sram := { bytes := FMap.keep (fun a _ => kept.testBit (cmBank a)) m.bytes }

/-- What loses its power with the on-die SRAM: CM but for the banks in `kept`, DM, queues, banks, engine buffers, the journal and
the caches (R443). Its written copies have gone to their homes (R439). -/
def State.loseSram (s : State) (kept : Nat) : State :=
  let s := (List.range s.part.cores).foldl (fun (s : State) n => s.drainCm n) s
  let s := s.eachCore (fun (_ : State) _ (k : Core) =>
    { k with
      queues := [], lines := [], cm := k.cm.keepBanks kept
      mes := (k.mes.map (fun m => (m.1, m.2.zeroed))).filter (fun m => m.2 ≠ {}) })
  { s with journal := [], ve := [], dm := [], net := { s.net with cache := [] } }

/-- The control processors' firmware image is copied into the control region, from which the exit loads it (R25, R439). -/
def State.copyFirmware (s : State) : State := { s with power := { s.power with image := true } }

/-- Sessions that are open close, to be reopened at the exit (R439). -/
def State.closeSessions (s : State) : State :=
  let open_ := (s.net.sessions.filter (fun q => q.2.isOpen)).map (fun q => q.1)
  let s := open_.foldl (fun (s : State) p => s.closeTo p) s
  { s with power := { s.power with reopen := open_ } }

/-- WAKE_PORTS keeps a port's receive path in DEEP. -/
def State.wakePort (s : State) (port : Nat) : Bool := getBit (s.reg ⟨.wakeCtl, 0, 0⟩) (16 + port)

/-- In DEEP the ports that are not in WAKE_PORTS lose their links. -/
def State.dropDarkPorts (s : State) : State :=
  (List.range s.part.ports).foldl (fun (s : State) n =>
    if s.wakePort n || s.regF .portStat n 7 0 = 0 then s else s.dropLinks n 0) s

/-- Order a voltage of every core rail. -/
def State.orderAll (s : State) (mv : Nat) : State := s.dieList.foldl (fun (s : State) d => s.orderMv d mv) s

/-- The core rail voltage of a state: retention in IDLE-V (Table 16.7), lower in SLEEP, none in DEEP. -/
def stateMv : Nat → Nat
  | 2 => 550 | 3 => Config.sleepMv | _ => 0

/-- The always-on island runs the entry sequence of a state. -/
def State.enterState (s : State) (n : Nat) : State :=
  if n = 0 then s else
  let deepSave := n = 4 ∨ (n = 3 ∧ s.keepMode)
  let kept := if n = 4 then 0 else s.regF .keepBanks 0 63 0
  let s := if deepSave then s.copyFirmware.closeSessions.saveFreeboard.loseSram kept else s
  let s := if n = 4 then s.dropDarkPorts else s
  let s := if 2 ≤ n then s.orderAll (stateMv n) else s
  { s with power := { s.power with state := n, keep := s.keepMode } }

/-- POWER_STATE_ENTER (R438): processor 0 writes TARGET and executes WAIT. A reserved code makes it a plain wait, and is
logged; with a wake source pending nothing is entered; `cut` is the state that the sequence had reached when a wake
stopped it, if one did. -/
def execPowerStateEnter (target : Nat) (pending : Bool) (cut : Option Nat) (s : State) : Host.Outcome State Fault Refusal :=
  if !s.hostUp || s.power.cluster == .failed || s.power.cluster == .taking then .next s
  else
    let t := target % 8
    let s := { s with power := { s.power with target := t, keep := s.keepMode } }
    if 4 < t then .next (s.logFor (Config.openClass 1).toNat deviceWide t 0)
    else if pending || t = 0 || t ≠ s.power.chosen || !s.deviceIdle then .next s
    else .next (s.enterState (match cut with
      | some n => min n t
      | none => t))

/-! ## Wake and exit (R440 to R442) -/

/-- WAKE_CTL enables a source. -/
def State.wakeEnabled (s : State) (bit : Nat) : Bool := getBit (s.reg ⟨.wakeCtl, 0, 0⟩) bit

/-- The voltage that a die's cores need at their steps. -/
def State.neededMv (s : State) (die : Nat) : Nat :=
  stepMv ((((dieCores die).filter (fun c => !s.coreRetired c)).map (fun c => (s.core c).step)).foldl max 0)

/-- The exit starts: the core rails are raised again. -/
def State.startExit (s : State) (source : Nat) : State :=
  let s := { s with power := { s.power with exiting := some source } }
  if 2 ≤ s.power.state then s.dieList.foldl (fun (s : State) d => s.orderMv d (s.neededMv d)) s else s

/-- A wake event with a source code: the first starts the exit; of several in one always-on cycle (`same`) the lowest code
is the source. -/
def State.wake (s : State) (source : Nat) (same : Bool) : State :=
  if s.power.phase != .run || s.power.state = 0 then s
  else
    match s.power.exiting with
    | none => s.startExit source
    | some old => if same then { s with power := { s.power with exiting := some (min old source) } } else s

/-- WAKE_TLP (R441). -/
def execWakeTlp (same : Bool) (s : State) : Host.Outcome State Fault Refusal :=
  if s.wakeEnabled 0 then .next (s.wake 1 same) else .next s

/-- WAKE_PIN (R441): WAKE# is asserted. -/
def execWakePin (same : Bool) (s : State) : Host.Outcome State Fault Refusal :=
  if s.wakeEnabled 1 then .next (s.wake 2 same) else .next s

/-- A port can receive a frame: its link is up, and in DEEP it is one of WAKE_PORTS. -/
def State.frameHeard (s : State) (port : Nat) : Bool :=
  decide (port < s.part.ports) && decide (s.regF .portStat port 7 0 ≠ 0) && (s.power.state != 4 || s.wakePort port)

/-- WAKE_MAC_FRAME (R441): a frame to the device's own MAC of its mesh entry; it is consumed. -/
def execWakeMacFrame (port : Nat) (same : Bool) (s : State) : Host.Outcome State Fault Refusal :=
  if s.wakeEnabled 2 && s.mesh.isSome && s.frameHeard port then .next (s.wake 3 same) else .next s

/-- WAKE_PATTERN. -/
def State.wakePattern (s : State) : List Byte :=
  toLe 8 (s.reg ⟨.wakePatternLo, 0, 0⟩).toNat ++ toLe 8 (s.reg ⟨.wakePatternHi, 0, 0⟩).toNat

/-- WAKE_FRAME (R441): a frame of EtherType 0x88B5 to the device's own MAC or, `broadcast`, to all, whose payload starts
with WAKE_PATTERN; it is consumed, and an isolated port takes it. -/
def execWakeFrame (port : Nat) (broadcast : Bool) (payload : List Byte) (same : Bool) (s : State) :
    Host.Outcome State Fault Refusal :=
  if s.wakeEnabled 3 && (broadcast || s.mesh.isSome) && s.frameHeard port && payload.take 16 == s.wakePattern then
    .next (s.wake 4 same)
  else .next s

/-- The exit completes: PWR_STAT records it, and the sessions that the entry closed reopen (R439, R440). -/
def State.finishExit (s : State) (source : Nat) : State :=
  let n := s.power.state
  let r : Reg := ⟨.pwrStat, 0, 0⟩
  let s := if 2 ≤ n then s.countReg r 31 16 1 else s
  let s := s.setReg r (setF (setF (s.reg r) 6 4 source) 2 0 n)
  let again := s.power.reopen.filter s.peers.contains
  let s := { s with power := { s.power with state := 0, chosen := 0, target := 0, exiting := none, reopen := [] } }
  let s := s.setIluny (fun (i : Iluny) => { i with railTries := [] })
  again.foldl (fun (s : State) p => s.openTo p) s

/-- POWER_STATE_EXIT_DONE (R440): the first descriptor fetch can issue. -/
def execPowerStateExitDone (s : State) : Host.Outcome State Fault Refusal :=
  match s.power.exiting with
  | none => .next s
  | some src => if s.railsUp then .next (s.finishExit src) else .next s

/-- POWER_EXIT_TIMEOUT (R440): the exit has not completed within twice its latency. -/
def execPowerExitTimeout (s : State) : Host.Outcome State Fault Refusal :=
  if s.power.exiting.isSome then .next (s.raiseFault 4) else .next s

/-! ## The control cluster (R27, R29) -/

/-- Which control cluster works. -/
def State.setCluster (s : State) (c : Cluster) : State := { s with power := { s.power with cluster := c } }

/-- HEARTBEAT_WRITE (R29): the active cluster's heartbeat reaches Iluny. -/
def execHeartbeatWrite (s : State) : Host.Outcome State Fault Refusal :=
  if s.hostUp && (s.power.cluster == .first || s.power.cluster == .mirror) then
    .next (s.setIluny (fun (i : Iluny) => { i with beat := true }))
  else .next s

/-- HEARTBEAT_MISSED (R27, R29): the mirror is released, or, without one, the device faults. -/
def execHeartbeatMissed (s : State) : Host.Outcome State Fault Refusal :=
  if !s.hostUp || s.power.cluster == .failed then .next s
  else
    let s := s.setIluny (fun (i : Iluny) => { i with beat := false })
    if s.power.cluster == .first && decide (2 ≤ s.part.dies) then
      .next ((s.setCluster .taking).logEntry 0x0054 1 noUnit deviceWide 0 0)
    else .next ((s.setCluster .failed).raiseFault 1)

/-- TAKEOVER_COMPLETE (R29): the mirror has rebuilt its state; the tasks in flight are replayed from the journals. -/
def execTakeoverComplete (s : State) : Host.Outcome State Fault Refusal :=
  if s.power.cluster == .taking then .next ((s.abandonWhere (fun _ => true)).setCluster .mirror) else .next s

/-- CONTROL_CLUSTER_FAULT (R27): on a part without a standby cluster, a device fault. -/
def execControlClusterFault (s : State) : Host.Outcome State Fault Refusal :=
  if s.power.phase == .run && decide (s.part.dies = 1) then .next ((s.setCluster .failed).raiseFault 1) else .next s

/-- HOST_ENGINE_FAULT (R29): a fault of the host interface engines or the PCIe controller is a device fault. -/
def execHostEngineFault (s : State) : Host.Outcome State Fault Refusal :=
  if s.power.phase == .run then .next (s.raiseFault 2) else .next s

end Sys2Proof.Machine
end

