-- ==== Sys2Proof/Machine/Module.lean ====
section
/-! DEFINITION. Sag, trip and power-up (17.5, 21.6), the resets (R393, R517, R531), the redundant pair's events (R391, R460,
R464), the module boundary (21.2, R519, R523) and the pins that report. -/

namespace Sys2Proof.Machine

/-! ## Sag, trip and the freeboard save (R435, R465, R524, R528) -/

/-- Write the phase. -/
def State.setPhase (s : State) (p : Phase) : State := { s with power := { s.power with phase := p } }

/-- The 54 V input is there, or not. -/
def State.setInput (s : State) (v : Bool) : State := s.setIluny (fun (i : Iluny) => { i with input := v })

/-- A save starts: issue stops, and the control tables are copied as they stand. -/
def State.startSave (s : State) : State := s.draftImage.setPhase .saving

/-- SAG_DETECT (R465): the 54 V input has stayed below 45.0 V for 1 µs. Before the control cluster is released there is nothing to
save (Table 21.12). -/
def execSagDetect (s : State) : Host.Outcome State Fault Refusal :=
  match s.power.phase with
  | .run => .next (((s.logFor 0x0063 deviceWide 0 0).setInput false).startSave)
  | .saving | .off => .next (s.setInput false)
  | .held => .next (s.powerDown.setInput false)

/-- A trip (R435, R524): logged, saved as on a sag, reported over MCTP; the module stays down until a restart. -/
def State.trip (s : State) (arg0 arg1 : Nat) : State :=
  let s := (s.setIluny (fun (i : Iluny) => { i with stopped := true })).sendMctp 1 arg0
  if s.power.phase == .run then (s.logFor 0x0064 deviceWide arg0 arg1).startSave else s.powerDown

/-- THERMAL_TRIP (R435): a die sensor at 120 °C or a stack at 105 °C. -/
def execThermalTrip (stack : Bool) (unit temp : Nat) (s : State) : Host.Outcome State Fault Refusal :=
  let hot := decide ((if stack then 105 else 120) ≤ temp)
  let known := decide (unit < (if stack then s.part.stackCount else 8 * s.part.dies))
  if hot && known && (s.power.phase == .run || s.power.phase == .held) then .next (s.trip unit temp) else .next s

/-- REF25M_LOSS (R524): handled as a thermal trip; while a save runs it is only logged, in the image too (Table 21.12). -/
def execRef25mLoss (s : State) : Host.Outcome State Fault Refusal :=
  match s.power.phase with
  | .run | .held => .next (s.trip 0xFFFF 0)
  | .saving =>
    let s := s.logFor 0x0064 deviceWide 0xFFFF 0
    .next { s with resume := { s.resume with draft := s.resume.draft.map (fun (m : FreeImage) => { m with log := s.log }) } }
  | .off => .next s

/-- FREEBOARD_SAVE_DONE (R466, R467): the last section and the header are written, and the rails are released; where the input
reached 38 V first (`whole` false) no valid image stands in the SRAM. -/
def execFreeboardSaveDone (whole : Bool) (s : State) : Host.Outcome State Fault Refusal :=
  if s.power.phase != .saving then .next s
  else if whole then .next s.finishSave.powerDown
  else
    let s := s.powerDown
    .next { s with resume := { s.resume with sram := none } }

/-- AUX_SUPPLY_LOSS (R528): issue stops, every rail is released, nothing is saved, and the freeboard SRAM is lost. The management
link of a pair comes up anew with the supply (log entry 109). -/
def execAuxSupplyLoss (s : State) : Host.Outcome State Fault Refusal :=
  let s := s.powerDown
  let i := s.power.iluny
  .next { s with
    resume := { s.resume with sram := none, found := none }
    secure := { s.secure with phases := [], sessions := [] }
    power := { s.power with mgmt := true, iluny := { ({} : Iluny) with
      ready := false, mated := i.mated, mateLive := i.mateLive, input := i.input, retired := i.retired, searched := false
      stopped := false } } }

/-- INPUT_OVERVOLTAGE (Table 21.11): an input above 56.0 V is logged and caps the level to index 0 until it returns. -/
def execInputOvervoltage (above : Bool) (s : State) : Host.Outcome State Fault Refusal :=
  if s.power.iluny.overvolt = above then .next s
  else
    let s := s.setIluny (fun (i : Iluny) => { i with overvolt := above })
    if above then .next ((s.latch ⟨.leveeStat, 0, 0⟩ 63).logFor (Config.openClass 3).toNat deviceWide 0 0) else .next s

/-! ## Power-up (R529, R469) -/

/-- ILUNY_READY (R529): Iluny has left power-on reset and verified its images; it reads the retirement map, runs the
resume search, and logs a live mating (R519). -/
def execIlunyReady (s : State) : Host.Outcome State Fault Refusal :=
  if s.power.iluny.ready then .next s
  else
    let live := s.power.iluny.mateLive
    let s := s.setIluny (fun (i : Iluny) => { i with ready := true, mateLive := false })
    let s := { s with cores := freshCores s.power.iluny.retired }
    let s := if live then s.logFor (Config.openClass 4).toNat deviceWide 0 0 else s
    .next s.resumeSearch

/-- MAIN_INPUT_RETURN (R465): the 54 V input is back, and its qualification starts; the cycle of main power ends a stop
(R469, R529). -/
def execMainInputReturn (s : State) : Host.Outcome State Fault Refusal :=
  if s.power.iluny.input then .next s
  else .next (s.setIluny (fun (i : Iluny) => { i with input := true, stopped := false }))

/-- MAIN_ENABLE (R529): ready, mated, the input qualified and no stop: the rails are sequenced, and the package stands in reset
until they are acknowledged and PERST# is deasserted. A search that this power-up has not had is run. Without the management link package B
cannot sequence a rail (R30). -/
def execMainEnable (s : State) : Host.Outcome State Fault Refusal :=
  let i := s.power.iluny
  if s.power.phase != .off || !i.ready || !i.mated || !i.input || i.stopped || !s.moduleReach then .next s
  else
    let s := if i.searched then s else s.resumeSearch
    .next ((s.setPhase .held).orderAll 700)

/-- The 7-bit addresses at which the module answers MCTP on SMBus and its input monitor answers on PMBus (R521). -/
def mctpAddress : Nat := 0x60 + Config.addrStraps.toNat
def pmbusAddress : Nat := 0x40 + Config.addrStraps.toNat

/-- The input power that the monitor on PMBus reports to the board: the last 1 ms reading (R434, R521), which the board's read
leaves as it is. -/
def State.pmbusPower (s : State) : Nat := s.power.iluny.reading

/-- MCTP_RESTART (R469): a stopped module may come up again; a rail failure in the same cycle beats the restart, which is
logged SUPERSEDED (Table 21.12). -/
def execMctpRestart (railFails : Bool) (s : State) : Host.Outcome State Fault Refusal :=
  if !s.power.iluny.stopped then .next s
  else if railFails then .next (s.logFor 0x0004 deviceWide 0 0)
  else .next (s.setIluny (fun (i : Iluny) => { i with stopped := false }))

/-! ## Resets (R517, R531, R393) -/

/-- What PERST# keeps beside the resume registers: MISMATCHES and the fence bits of PAIR_STAT (R464), and LOST (R517). -/
def State.keptStats (s : State) : FMap Long :=
  let p := s.reg ⟨.pairStat, 0, 0⟩
  let l := s.reg ⟨.errlogStat, 0, 0⟩
  [((⟨.pairStat, 0, 0⟩ : Reg).key, setF (setF 0 15 0 (getF p 15 0)) 30 29 (getF p 30 29)),
   ((⟨.errlogStat, 0, 0⟩ : Reg).key, setF 0 31 16 (getF l 31 16))]

/-- The reset of the package by PERST# or a hot reset: every course stops without a record, the registers return to their reset
values, stacks lose their contents; a fenced package stays fenced. -/
def State.packageReset (s : State) : State :=
  let t := s.freshPackage
  let t := { t with regs := { t.regs with active := FMap.setMany regDefault t.regs.active s.keptStats } }
  let t := { t with host := { t.host with deviceFault := if s.fenced then some 6 else none } }
  let t := { t with power := { t.power with
    phase := .held, levee := { t.power.levee with rails := s.freshRails (fun d => (s.rail d).mv) } } }
  t.dieList.foldl (fun (u : State) d => if (s.rail d).sure < 700 then u.orderMv d 700 else u) t

/-- Set the level of PERST#. -/
def State.setPerst (s : State) (v : Bool) : State := { s with power := { s.power with perst := v } }

/-- PERST_ASSERT (R531): an assertion of at least 100 µs resets the package; while a save runs it is ignored. -/
def execPerstAssert (us : Nat) (s : State) : Host.Outcome State Fault Refusal :=
  if us < 100 then .next s
  else
    match s.power.phase with
    | .saving => .next s
    | .off => .next (s.setPerst true)
    | .held | .run => .next (s.packageReset.setPerst true)

/-- Lanes of the package's link (R390, R391). -/
def fullWidth : Part → Nat
  | .cn4p64 => 8
  | _ => 16

/-- PERST_DEASSERT (R530): link training. A deassertion before E + 40 ms (`early`) and a degraded width are logged; `pairUp`
says that the pair link of a CN4-P64 has come up. -/
def execPerstDeassert (early : Bool) (width : Nat) (pairUp : Bool) (s : State) : Host.Outcome State Fault Refusal :=
  if !s.power.perst || s.power.phase == .saving then .next s
  else if s.power.phase == .off then .next (s.setPerst false)
  else
    let s := if early then s.logFor (Config.openClass 2).toNat deviceWide 0 0 else s
    let s := if width < fullWidth s.part then s.logFor (Config.openClass 5).toNat deviceWide width 0 else s
    let s := if pairUp && s.part == .cn4p64 then s.pairBit 28 true else s
    .next (s.setPerst false).leaveReset

/-- HOT_RESET (R517): as PERST#. -/
def execHotReset (s : State) : Host.Outcome State Fault Refusal :=
  match s.power.phase with
  | .run => .next s.packageReset.leaveReset
  | _ => .next s

/-- A course goes without a record (R393). -/
def State.dropCourse (s : State) (c : Course) : State :=
  let s := (((s.clearBefore c).dropEntries c.id).clearQueues c).dropNet c
  { s with courses := s.courses.filter (fun (e : Course) => e.id ≠ c.id) }

/-- The rings of a function. -/
def State.ringsOf (s : State) (f : Nat) : List Nat :=
  let ks := (s.regs.active ++ s.regs.shadow).filterMap (fun kv =>
    if 0x40000 ≤ kv.1 ∧ kv.1 < 0x80000 then some ((kv.1 - 0x40000) / 0x40) else none)
  ((ks ++ s.host.sq.map (fun q => q.1) ++ s.host.cq.map (fun q => q.1)).filter (fun n => decide (s.ringFunc n = f))).eraseDups

/-- A function's rings return to reset, with the records that they hold (R393, R517). -/
def State.dropRings (s : State) (f : Nat) : State :=
  let ns := s.ringsOf f
  { s with
    regs := s.regs.clearWhere (fun k => decide (0x40000 ≤ k ∧ k < 0x80000) && ns.contains ((k - 0x40000) / 0x40))
    host := { s.host with
      sq := s.host.sq.filter (fun q => !ns.contains q.1)
      cq := s.host.cq.filter (fun q => !ns.contains q.1) } }

/-- A function's COMMIT_STATUS, STEP_STAT and LAST_COMMIT return to reset, a waiting commit is abandoned, and a staged half is
lost (R517, Table 20.18). -/
def State.dropFuncRegs (s : State) (f : Nat) : State :=
  let s := (s.setPend f none).setStepM f {}
  { s with regs := { s.regs.clearWhere (fun k => decide (k = (⟨.commitStatus, f, 0⟩ : Reg).key)) with
    staged := FMap.set (fun _ => none) s.regs.staged f none } }

/-- The FLR of one function (R393): courses stop, next generations go, tensors are released, and the rings are disabled. -/
def State.flr (s : State) (f : Nat) : State :=
  let s := (s.courses.filter (fun c => decide (c.desc.func = f))).foldl State.dropCourse s
  let s := { s with
    copies := s.copies.filter (fun (c : Course) => c.desc.func ≠ f)
    host := { s.host with inflight := s.host.inflight.filter (fun d => d.func ≠ f) } }
  let s := s.eachTensor f (fun t => t.discard false)
  let ids := s.tensors.filterMap (fun kv => match kv.2 with
    | some t => if t.func = f then some kv.1 else none
    | none => none)
  ((ids.foldl State.dropTensor s).dropRings f).dropFuncRegs f

/-- FLR_VF (R393). -/
def execFlrVf (vf : Nat) (s : State) : Host.Outcome State Fault Refusal :=
  if s.hostLink && decide (1 ≤ vf ∧ vf < 64) then .next (s.flr vf) else .next s

/-- A register that an FLR of the PF returns to reset (Table 20.17). -/
def State.flrKey (s : State) (k : Nat) : Bool :=
  decide (0x4000000 ≤ k) || (match s.keyReg k with
    | some r => r.kind.group.isSome || (match r.kind with
      | .drvFeatures | .featuresCtl | .commitStatus | .sqStat | .cqStat | .gaugePtr | .stepStat | .lastCommit => true
      | _ => false)
    | none => false)

/-- The mesh goes, and every session closes. -/
def State.closeMesh (s : State) : State :=
  let s := ((s.net.sessions.filter (fun q => q.2.isOpen)).map (fun q => q.1)).foldl (fun (s : State) p => s.closeTo p) s
  { s with mesh := none, net := { s.net with sessions := [] } }

/-- FLR_PF (R393): the same for every function; the mesh closes, the feature set is cleared, and every commit group returns to
its reset values. -/
def execFlrPf (s : State) : Host.Outcome State Fault Refusal :=
  if !s.hostLink then .next s
  else
    let s := (List.range 64).reverse.foldl State.flr s
    let s := s.closeMesh
    let s := { s with
      regs := s.regs.clearWhere s.flrKey
      host := { s.host with features := none } }
    .next s.settlePorts

/-! ## The redundant pair (R30, R391, R460, R464) -/

/-- MIRROR_MODE_ENTER (R460): FAULT_CTL.MIRROR of package A, once applied, puts both packages into mirror mode. -/
def execMirrorModeEnter (s : State) : Host.Outcome State Fault Refusal :=
  let asked := s.pkg == .b || getBit (s.reg ⟨.faultCtl, 0, 0⟩) 0
  if s.part == .cn4p64 && asked && s.feature 2 && s.regF .pairStat 0 30 29 = 0 && !s.courseRuns && s.hostUp then
    .next (s.pairBit 31 true)
  else .next s

/-- PAIR_DESC_FORWARD (R391): a descriptor that package A fetched arrives on package B and runs there. -/
def execPairDescForward (func ring : Nat) (bytes : List Byte) (blocks : List (List Byte)) (s : State) :
    Host.Outcome State Fault Refusal :=
  if s.pkg == .b && s.mirror && s.hostUp then
    let d : Desc := { seq := s.host.nextSeq, func := func, ring := ring, bytes := fitBytes 128 bytes, blocks := blocks, forwarded := true }
    .next (({ s with host := { s.host with nextSeq := s.host.nextSeq + 1 } }).takeIn d)
  else .next s

/-- Package B is fenced, as each package sees it; a fence that stands already decides. -/
def State.fenceB (s : State) : State :=
  if s.regF .pairStat 0 30 29 ≠ 0 then s
  else if s.pkg == .a then s.fencePeer else s.fenceSelf

/-- PAIR_LINK_LOSS (R464). -/
def execPairLinkLoss (s : State) : Host.Outcome State Fault Refusal :=
  if s.part != .cn4p64 || s.power.phase != .run then .next s else .next (s.pairBit 28 false).fenceB

/-- MGMT_LINK_LOSS (R30, R464): logged by both Iluny instances; the link is down, and package B is treated as faulted. -/
def execMgmtLinkLoss (s : State) : Host.Outcome State Fault Refusal :=
  if s.part != .cn4p64 || s.power.phase != .run then .next s
  else
    let s := { s with power := { s.power with mgmt := false } }
    .next (s.logFor (Config.openClass 6).toNat deviceWide 0 0).fenceB

/-! ## The module boundary (R519, R523) -/

/-- Free value: what a place for freeboard images holds after a live mating (R519): 0 the SRAM, 1 and 2 the NOR slots. -/
opaque Config.mateImage : Nat → Nat → Option FreeImage

/-- MODULE_MATE_LIVE (R519): the module is mated with a supply present, and nothing guarantees its state; `seen` says that
MATE_LAST shows it, and `main` that the 54 V input is there. -/
def execModuleMateLive (seen main : Bool) (s : State) : Host.Outcome State Fault Refusal :=
  let n := s.free
  let s := { s with free := n + 1 }.powerDown
  .next { s with
    resume := { s.resume with
      sram := Config.mateImage n 0, nor0 := Config.mateImage n 1, nor1 := Config.mateImage n 2, found := none }
    secure := { s.secure with phases := [], sessions := [] }
    power := { s.power with mgmt := true, iluny := { ({} : Iluny) with
      ready := false, mateLive := seen, input := main, retired := sortNat (Config.mateRetired n).eraseDups
      searched := false } } }

/-- JTAG_INSTRUCTION (R523): in PRODUCTION every private instruction acts as BYPASS. -/
def execJtagInstruction (ir : JtagIr) (s : State) : Host.Outcome State Fault Refusal :=
  let ir := if ir == .vendor && s.secure.lifecycle == 2 then .bypass else ir
  .next (s.setIluny (fun (i : Iluny) => { i with jtag := ir }))

/-- IDCODE (R523): 0x0C4B_5A33 with the silicon revision in bits 31:28. -/
def jtagIdcode : Word := Config.siliconRevision ++ (0xC4B5A33 : BitVec 28)

/-! ## Pins that report (R435, R522, Table 21.4) -/

/-- The always-on outputs have their supply. -/
def State.pinsLive (s : State) : Bool := s.power.iluny.ready && s.power.phase != .off

/-- THERMAL_ALERT# is asserted: a core in hold, or a stack at or above STACK_LIMIT_C + 10 °C (R435). -/
def State.thermalAlert (s : State) : Bool :=
  s.pinsLive && ((List.range s.part.cores).any (fun c => (s.core c).thermal == .hold)
    || (List.range s.part.stackCount).any (fun n => decide (s.regF .leveeCtl 0 7 0 + 10 ≤ s.regF .stackStat n 23 16)))

/-- FENCE_A# or FENCE_B#, for this package, is asserted (R522). -/
def State.fencePin (s : State) : Bool := s.pinsLive && s.fenced

/-- PAIR_LINK_OK is released high (R522). -/
def State.pairLinkOk (s : State) : Bool := s.pinsLive && getBit (s.reg ⟨.pairStat, 0, 0⟩) 28

end Sys2Proof.Machine
end

