-- ==== Sys2Proof/Machine/Roce.lean ====
section
/-! DEFINITION. The RoCEv2 responder (R348): WRITE and SEND into the landing tensor of a queue pair, replies, congestion
notification, and requests outside the subset (R364). PRESUMED (log entry 69): a PSN that is not the next expected one is answered as
reliable-connected RoCEv2 does, the first PSN being 0. -/

namespace Sys2Proof.Machine

/-- Where a packet stands in its message. -/
inductive RocePart where
  | first | middle | last | only
  deriving DecidableEq, Repr

/-- The part of a code: 0 First, 1 Middle, 2 Last, 3 Only. -/
def rocePart : Nat → RocePart
  | 0 => .first | 1 => .middle | 2 => .last | _ => .only

/-- Bytes enter the current generation of a dense home at an offset within it; the tiles that they meet change, and so do
their lines. -/
def State.land (s : State) (id b : Nat) (bytes : List Byte) : State :=
  match s.tensor id with
  | none => s
  | some t =>
    let d := t.desc
    let ks := (s.heldTiles d).filter (fun k => s.imageMeets d false k b bytes.length)
    let s := ks.foldl (fun (s : State) k =>
      match s.tensor id with
      | none => s
      | some u =>
        let h := u.curHalf k
        let a := b + (if h then s.halfBytes d else 0)
        let x := s.patchTile u id h k a false bytes
        let lines := (List.range (ceilDiv (a + bytes.length) 64 - a / 64)).map (fun i => a / 64 + i)
        let s := s.writeSlot u h k x false false (some lines)
        s.installTile id h k { x with hdr := { x.hdr with poison := false } }) s
    s.noteWrite false id .other

/-- The queue pair of a number. -/
def State.roceQp (s : State) (qp : Nat) : Option RoceQp := s.net.qps.find? (fun q => q.qp = qp)

/-- Write a queue pair back. -/
def State.setQp (s : State) (q : RoceQp) : State :=
  { s with net := { s.net with qps := s.net.qps.map (fun (x : RoceQp) => if x.qp = q.qp then q else x) } }

/-- Answer a request. -/
def State.roceReply (s : State) (port : Nat) (q : RoceQp) (nak : Bool) (psn : Nat) : State :=
  if s.portSends port then (s.sealFrame port).emit (.roceReply port q.remote nak psn) else s

/-- A request outside the subset or the bound tensor: NAK, counted and logged as a malformed header (R348, R364). -/
def State.roceBad (s : State) (port peer qp psn : Nat) : State :=
  s.countViolation port peer 1 (fun s =>
    s.roceReply port ((s.roceQp qp).getD { qp := qp, tensor := 0, remote := qp, key := 0 }) true psn)

/-- The landing tensor may take bytes: dense, not a view, and not written by a running course. -/
def State.mayLand (s : State) (id : Nat) : Bool :=
  match s.tensor id with
  | some t => !t.desc.sparse && t.view.isNone && !(s.courses.any (fun c => c.started && c.writes.any (s.aliasSet id).contains))
  | none => false

/-- Where the bytes of a request go, `first` for the first packet of a message; none where the packet does not belong into the
message in progress. -/
def RoceQp.start (q : RoceQp) (write : Bool) (part : RocePart) (first : Option Nat) : Option Nat :=
  match part with
  | .first | .only => if q.message = none then first else none
  | .middle | .last => if q.message = some write then some q.next else none

/-- A request packet of a WRITE or SEND. -/
def State.roceRequest (s : State) (port peer qp psn : Nat) (write : Bool) (part : RocePart) (first : RoceQp → Option Nat)
    (bytes : List Byte) (ecn : Bool) : State :=
  match s.roceQp qp with
  | none => s.roceBad port peer qp psn
  | some q =>
    if psnAhead (q.psn % 2 ^ 24) psn % 2 ^ 24 ≠ 0 then
      -- a packet that came before is acknowledged again, one that comes too early is refused
      if 2 ^ 23 ≤ psnAhead (q.psn % 2 ^ 24) psn % 2 ^ 24 then s.roceReply port q false psn else s.roceReply port q true q.psn
    else
      match q.start write part (first q), s.tensor q.tensor with
      | some b, some t =>
        if !s.mayLand q.tensor || decide (s.halfBytes t.desc < b + bytes.length ∨ 4096 < bytes.length) then
          s.roceBad port peer qp psn
        else
          match (s.polder t.desc.polder).bind (fun (p : Polder) => if p.ideReq then some () else none) with
          | some _ =>
            ((s.countDenial t.desc.polder 0x06).logFor 0x0034 t.func q.tensor 0x06).roceReply port q true psn
          | none =>
            let s := s.land q.tensor b bytes
            let s := s.setQp { q with
              psn := (psn + 1) % 2 ^ 24, next := b + bytes.length
              message := if part = .first ∨ part = .middle then some write else none }
            let s := if ecn && s.portSends port then (s.sealFrame port).emit (.congestion port q.remote) else s
            s.roceReply port q false psn
      | _, _ => s.roceBad port peer qp psn

/-- RDMA_WRITE (R348): First and Only name the offset and the remote key; Middle and Last go on behind. -/
def execRoceWrite (port peer qp psn part key offset : Nat) (bytes : List Byte) (ecn : Bool) (s : State) :
    Host.Outcome State Fault Refusal :=
  if !s.hostUp || !s.portTakes port then .next s
  else
    .next (s.roceRequest port peer qp psn true (rocePart part) (fun q => if key = q.key then some offset else none) bytes ecn)

/-- SEND (R348): the bytes of a message go from offset 0 on. -/
def execRoceSend (port peer qp psn part : Nat) (bytes : List Byte) (ecn : Bool) (s : State) :
    Host.Outcome State Fault Refusal :=
  if !s.hostUp || !s.portTakes port then .next s
  else
    .next (s.roceRequest port peer qp psn false (rocePart part) (fun _ => some 0) bytes ecn)

/-- ROCEV2_MALFORMED_REQUEST (R364): a packet outside the supported subset. -/
def execRocev2MalformedRequest (port peer qp psn : Nat) (s : State) : Host.Outcome State Fault Refusal :=
  if !s.hostUp || !s.portTakes port then .next s else .next (s.roceBad port peer qp psn)

end Sys2Proof.Machine
end

