-- ==== Sys2Proof/Machine/Secure.lean ====
section
/-! DEFINITION. Attestation and link security (18.4 to 18.6): the SPDM requests of Table 18.5, measurements, IDE streams, and
the lifecycle transition. -/

namespace Sys2Proof.Machine

/-! ## Connections (R487) -/

/-- The DOE mailbox of the PF; 0 is MCTP on SMBus. -/
def doeConn : Nat := 1

/-- Iluny can be reached on a connection: over MCTP, package B's through Iluny A and the management link of the pair (R30, R487), or
over the DOE mailbox of the PF. -/
def State.connUp (s : State) (conn : Nat) : Bool :=
  s.power.iluny.ready && ((decide (conn = 0) && (decide (s.pkg = .a) || s.power.mgmt)) || (decide (conn = doeConn) && s.hostLink))

/-- Answer on a connection. -/
def State.answer (s : State) (conn : Nat) (r : SpdmReply) : State := s.emit (.spdm conn r)

/-- How far the negotiation of a connection has come. -/
def State.spdmPhase (s : State) (conn : Nat) : Nat := FMap.get (fun _ => 0) s.secure.phases conn

/-- Set it. -/
def State.setSpdmPhase (s : State) (conn n : Nat) : State :=
  { s with secure := { s.secure with phases := FMap.set (fun _ => 0) s.secure.phases conn n } }

/-- A session. -/
def State.spdm (s : State) (n : Nat) : Option Session := FMap.get (fun _ => none) s.secure.sessions n

/-- Write a session. -/
def State.setSpdm (s : State) (n : Nat) (q : Option Session) : State :=
  { s with secure := { s.secure with sessions := FMap.set (fun _ => none) s.secure.sessions n q } }

/-- A request that needs the negotiation to have come to a point: answered, or an error. -/
def State.spdmRequest (s : State) (conn need : Nat) (f : State → State) : Host.Outcome State Fault Refusal :=
  if !s.connUp conn then .next s
  else if s.spdmPhase conn < need then .next (s.answer conn (.error .unexpectedRequest))
  else .next (f s)

/-- A request within an established session. -/
def State.inSession (s : State) (session : Nat) (f : State → Session → State) : Host.Outcome State Fault Refusal :=
  match s.spdm session with
  | none => .next s
  | some q =>
    if !s.connUp q.conn then .next s
    else if q.finished then .next (f s q)
    else .next (s.answer q.conn (.error .unexpectedRequest))

/-! ## Requests outside a session -/

/-- GET_VERSION: the negotiation of the connection starts anew. -/
def execGetVersion (conn : Nat) (s : State) : Host.Outcome State Fault Refusal :=
  s.spdmRequest conn 0 (fun (s : State) => (s.setSpdmPhase conn 1).answer conn .version)

/-- GET_CAPABILITIES. -/
def execGetCapabilities (conn : Nat) (s : State) : Host.Outcome State Fault Refusal :=
  s.spdmRequest conn 1 (fun (s : State) => (s.setSpdmPhase conn (max 2 (s.spdmPhase conn))).answer conn .capabilities)

/-- NEGOTIATE_ALGORITHMS: `offered` says that the request offers the one set of Table 18.5. -/
def execNegotiateAlgorithms (conn : Nat) (offered : Bool) (s : State) : Host.Outcome State Fault Refusal :=
  s.spdmRequest conn 2 (fun (s : State) =>
    if offered then (s.setSpdmPhase conn 3).answer conn .algorithms else s.answer conn (.error .invalidRequest))

/-- GET_DIGESTS: slots 0 and 1 hold chains. -/
def execGetDigests (conn : Nat) (s : State) : Host.Outcome State Fault Refusal :=
  s.spdmRequest conn 3 (fun (s : State) => s.answer conn (.digests [0, 1]))

/-- GET_CERTIFICATE: slots 2 to 7 are empty. -/
def execGetCertificate (conn slot : Nat) (s : State) : Host.Outcome State Fault Refusal :=
  s.spdmRequest conn 3 (fun (s : State) =>
    if slot < 2 then s.answer conn (.certificate slot (Config.certChain slot)) else s.answer conn (.error .invalidRequest))

/-- CHALLENGE. -/
def execSpdmChallenge (conn slot : Nat) (s : State) : Host.Outcome State Fault Refusal :=
  s.spdmRequest conn 3 (fun (s : State) =>
    if slot < 2 then s.answer conn (.challengeAuth slot) else s.answer conn (.error .invalidRequest))

/-! ## Measurements (R488) -/

/-- The 32-byte confirmed feature set. -/
def State.featureBytes (s : State) : List Byte :=
  if s.featuresConfirmed then s.drvFeatures.flatMap (toLe 4) else List.replicate 32 0

/-- The value of a measurement index, where it is present (Table 18.6): a SHA-384 digest, or 48 zero bytes for no mesh. -/
def State.measurement (s : State) (i : Nat) : Option (List Byte) :=
  if i = 1 then some (fitBytes 48 (Config.firmwareDigest 0))
  else if i = 2 then some (fitBytes 48 (Config.firmwareDigest 1))
  else if i = 3 then some (sha384 (toLe 1 s.secure.lifecycle ++ s.featureBytes))
  else if i = 4 then
    (match s.mesh with
      | some m => some (sha384 m.body)
      | none => some (List.replicate 48 0))
  else if 0x10 ≤ i ∧ i ≤ 0x1F then (s.polder (i - 0xF)).map (fun (p : Polder) => p.meas)
  else none

/-- The indices that are present, ascending. -/
def State.presentIndices (s : State) : List Nat := (List.range 0x20).filter (fun i => (s.measurement i).isSome)

/-- The blocks that answer an index: one, all for 0xFE, the manifest for 0xFD, none where it is absent. -/
def State.measurementBlocks (s : State) (i : Nat) : List (Nat × List Byte) :=
  let one (k : Nat) : List (Nat × List Byte) := match s.measurement k with
    | some v => [(k, v)]
    | none => []
  if i = 0xFE then s.presentIndices.flatMap one
  else if i = 0xFD then [(0xFD, s.presentIndices.map (BitVec.ofNat 8))]
  else one i

/-- GET_MEASUREMENTS. -/
def execGetMeasurements (conn index : Nat) (signed : Bool) (s : State) : Host.Outcome State Fault Refusal :=
  s.spdmRequest conn 3 (fun (s : State) => s.answer conn (.measurements (s.measurementBlocks index) signed))

/-! ## Sessions -/

/-- Sessions at once per responder (Table 18.5). -/
def maxSessions : Nat := 4

/-- KEY_EXCHANGE: a session is opened, at the lowest free number. -/
def execKeyExchange (conn : Nat) (s : State) : Host.Outcome State Fault Refusal :=
  s.spdmRequest conn 3 (fun (s : State) =>
    match (List.range maxSessions).find? (fun n => (s.spdm n).isNone) with
    | none => s.answer conn (.error .sessionLimitExceeded)
    | some n => (s.setSpdm n (some { conn := conn })).answer conn (.keyExchange n))

/-- FINISH: the session is established. -/
def execSpdmFinish (session : Nat) (s : State) : Host.Outcome State Fault Refusal :=
  match s.spdm session with
  | none => .next s
  | some q =>
    if !s.connUp q.conn then .next s
    else if q.finished then .next (s.answer q.conn (.error .unexpectedRequest))
    else .next ((s.setSpdm session (some { q with finished := true })).answer q.conn .finish)

/-- HEARTBEAT. -/
def execSpdmHeartbeat (session : Nat) (s : State) : Host.Outcome State Fault Refusal :=
  s.inSession session (fun (s : State) (q : Session) => s.answer q.conn .heartbeat)

/-- KEY_UPDATE. -/
def execKeyUpdate (session : Nat) (s : State) : Host.Outcome State Fault Refusal :=
  s.inSession session (fun (s : State) (q : Session) =>
    (s.setSpdm session (some { q with updates := q.updates + 1 })).answer q.conn .keyUpdate)

/-- END_SESSION. -/
def execEndSession (session : Nat) (s : State) : Host.Outcome State Fault Refusal :=
  s.inSession session (fun (s : State) (q : Session) => (s.setSpdm session none).answer q.conn .endSession)

/-- SPDM_UNSUPPORTED: a request outside the subset. -/
def execSpdmUnsupported (conn : Nat) (s : State) : Host.Outcome State Fault Refusal :=
  if s.connUp conn then .next (s.answer conn (.error .unsupportedRequest)) else .next s

/-! ## IDE (R489) -/

/-- Write a selective IDE stream. -/
def State.setIde (s : State) (n : Nat) (x : IdeStream) : State :=
  { s with secure := { s.secure with ide := FMap.set (fun _ => {}) s.secure.ide n x } }

/-- IDE_KM: over a session on the DOE mailbox a stream is keyed; `ranges` are the host's IDE registers. -/
def execIdeKm (session stream : Nat) (ranges : List (Nat × Nat)) (s : State) : Host.Outcome State Fault Refusal :=
  s.inSession session (fun (s : State) (q : Session) =>
    if q.conn = doeConn ∧ stream < 4 ∧ s.feature 8 then
      (s.setIde stream { up := true, ranges := ranges }).answer q.conn (.ideKm stream)
    else s.answer q.conn (.error .invalidRequest))

/-- IDE_STREAM_FAILURE: a stream fails its integrity check or is torn down, and protects nothing until it is established
again. -/
def execIdeStreamFailure (stream : Nat) (s : State) : Host.Outcome State Fault Refusal :=
  let x := FMap.get (fun _ => ({} : IdeStream)) s.secure.ide stream
  if x.up then .next (s.setIde stream { x with up := false }) else .next s

/-! ## The lifecycle (R490, R491) -/

/-- The transition to RETURNED: the sealing key goes, the NOR slots are erased, the fuse is blown and the package reset. -/
def State.retire (s : State) : State :=
  let s := { s with
    secure := { s.secure with sealed := false, lifecycle := 3 }
    resume := { s.resume with nor0 := none, nor1 := none, found := if s.resume.found = some 0 then some 0 else none } }
  if s.power.phase == .run || s.power.phase == .held then s.packageReset.leaveReset else s

/-- LIFECYCLE_TRANSITION (R491): a token over an MCTP session; `genuine` says that the Utavazin root has signed it, and `mine`
that it names this package. -/
def execLifecycleTransition (session : Nat) (genuine mine : Bool) (s : State) : Host.Outcome State Fault Refusal :=
  s.inSession session (fun (s : State) (q : Session) =>
    if q.conn = 0 ∧ genuine ∧ mine ∧ s.secure.lifecycle = 2 ∧ s.secure.polders.isEmpty ∧ s.power.phase ≠ .saving then
      s.retire.answer q.conn .tokenAccepted
    else s.answer q.conn (.error .invalidRequest))

end Sys2Proof.Machine
end

