-- ==== Sys2Proof/Machine/Dispatch.lean ====
section
/-! DEFINITION. Which meaning each command has: one arm per constructor of Instr. -/

namespace Sys2Proof.Machine

/-- The effect of a command on everything but the queue. -/
def exec (i : Instr) (s : State) : Host.Outcome State Fault Refusal :=
  match i with
  | .courseSubmit o => Sys2Proof.Machine.execCourseSubmit o s
  | .tensorDefine ring stackIds base => Sys2Proof.Machine.execTensorDefine ring stackIds base s
  | .tensorRelease ring => Sys2Proof.Machine.execTensorRelease ring s
  | .tensorReleaseDeferred id => Sys2Proof.Machine.execTensorReleaseDeferred id s
  | .stepCommit ring against peer => Sys2Proof.Machine.execStepCommit ring against peer s
  | .stepAbort ring against => Sys2Proof.Machine.execStepAbort ring against s
  | .fenceDesc ring => Sys2Proof.Machine.execFenceDesc ring s
  | .mesh ring => Sys2Proof.Machine.execMesh ring s
  | .macsecSa ring => Sys2Proof.Machine.execMacsecSa ring s
  | .roceQp ring => Sys2Proof.Machine.execRoceQp ring s
  | .cancelBatch ring against => Sys2Proof.Machine.execCancelBatch ring against s
  | .polderCreate ring => Sys2Proof.Machine.execPolderCreate ring s
  | .polderDestroy ring => Sys2Proof.Machine.execPolderDestroy ring s
  | .powerHint ring => Sys2Proof.Machine.execPowerHint ring s
  | .queryIdentity ring => Sys2Proof.Machine.execQueryIdentity ring s
  | .queryCapacity ring => Sys2Proof.Machine.execQueryCapacity ring s
  | .queryErrorLog ring => Sys2Proof.Machine.execQueryErrorLog ring s
  | .placementReport ring => Sys2Proof.Machine.execPlacementReport ring s
  | .placementSnapshot course station => Sys2Proof.Machine.execPlacementSnapshot course station s
  | .sqTail func page value => Sys2Proof.Machine.execSqTail func page value s
  | .cqHead func page value => Sys2Proof.Machine.execCqHead func page value s
  | .descFetch bytes blocks => Sys2Proof.Machine.execDescFetch bytes blocks s
  | .descFetchBusError cause bytes => Sys2Proof.Machine.execDescFetchBusError cause bytes s
  | .completionRecordResume cq => Sys2Proof.Machine.execCompletionRecordResume cq s
  | .courseReleaseHeld course => Sys2Proof.Machine.execCourseReleaseHeld course s
  | .courseComplete course => Sys2Proof.Machine.execCourseComplete course s
  | .commit func mask against => Sys2Proof.Machine.execCommit func mask against s
  | .commitGroupApply func group => Sys2Proof.Machine.execCommitGroupApply func group s
  | .featuresOk => Sys2Proof.Machine.execFeaturesOk s
  | .featuresEvaluate => Sys2Proof.Machine.execFeaturesEvaluate s
  | .dmaHaltedClear sys unit ch relatched => Sys2Proof.Machine.execDmaHaltedClear sys unit ch relatched s
  | .sqHaltedClear ring => Sys2Proof.Machine.execSqHaltedClear ring s
  | .isolatedClear port => Sys2Proof.Machine.execIsolatedClear port s
  | .ilunyCapRelease => Sys2Proof.Machine.execIlunyCapRelease s
  | .regWrite func off size value => Sys2Proof.Machine.execRegWrite func off size value s
  | .debugWindowAccess write off => Sys2Proof.Machine.execDebugWindowAccess write off s
  | .resumeRestore => Sys2Proof.Machine.execResumeRestore s
  | .resumeDiscard => Sys2Proof.Machine.execResumeDiscard s
  | .mirrorModeEnter => Sys2Proof.Machine.execMirrorModeEnter s
  | .pairDescForward func ring bytes blocks => Sys2Proof.Machine.execPairDescForward func ring bytes blocks s
  | .pairCommitForward group values => Sys2Proof.Machine.execPairCommitForward group values s
  | .tqNop core q word => Sys2Proof.Machine.execTqNop core q word s
  | .tqDropRemainder core q word same => Sys2Proof.Machine.execTqDropRemainder core q word same s
  | .tqReservedCommand core q word => Sys2Proof.Machine.execTqReservedCommand core q word s
  | .tqHeaderWrite core q header words => Sys2Proof.Machine.execTqHeaderWrite core q header words s
  | .tqHeaderRead core q n damage producer consumer => Sys2Proof.Machine.execTqHeaderRead core q n damage producer consumer s
  | .taskIssue o => Sys2Proof.Machine.execTaskIssue o s
  | .taskRetire j => Sys2Proof.Machine.execTaskRetire j s
  | .journalEntryRetire j => Sys2Proof.Machine.execJournalEntryRetire j s
  | .taskReplay j engine core index => Sys2Proof.Machine.execTaskReplay j engine core index s
  | .engineHang engine core index now => Sys2Proof.Machine.execEngineHang engine core index now s
  | .slabStart core me j opened fault => Sys2Proof.Machine.execSlabStart core me j opened fault s
  | .reachFold core me b fault now => Sys2Proof.Machine.execReachFold core me b fault now s
  | .bankDrain core me b fault now => Sys2Proof.Machine.execBankDrain core me b fault now s
  | .stationMove course station core me ve mu ports split bufs => Sys2Proof.Machine.execStationMove course station core me ve mu ports split bufs s
  | .stationThermalMove core target => Sys2Proof.Machine.execStationThermalMove core target s
  | .loadTask j image => Sys2Proof.Machine.execLoadTask j image s
  | .storeTask j => Sys2Proof.Machine.execStoreTask j s
  | .gatherTask j => Sys2Proof.Machine.execGatherTask j s
  | .scatterAccTask j => Sys2Proof.Machine.execScatterAccTask j s
  | .matmulTask j => Sys2Proof.Machine.execMatmulTask j s
  | .spmmTask j band mu => Sys2Proof.Machine.execSpmmTask j band mu s
  | .spmmTTask j band mu => Sys2Proof.Machine.execSpmmTTask j band mu s
  | .sddmmTask j => Sys2Proof.Machine.execSddmmTask j s
  | .spspTask j band mu => Sys2Proof.Machine.execSpspTask j band mu s
  | .vecTask j => Sys2Proof.Machine.execVecTask j s
  | .attendTask j => Sys2Proof.Machine.execAttendTask j s
  | .reduceTask j => Sys2Proof.Machine.execReduceTask j s
  | .exchangeInstance course station port die => Sys2Proof.Machine.execExchangeInstance course station port die s
  | .exchangeAccumulate course station port die => Sys2Proof.Machine.execExchangeAccumulate course station port die s
  | .routeDispatch j => Sys2Proof.Machine.execRouteDispatch j s
  | .routeCombine j => Sys2Proof.Machine.execRouteCombine j s
  | .routeRedispatch j => Sys2Proof.Machine.execRouteRedispatch j s
  | .updateTask j => Sys2Proof.Machine.execUpdateTask j s
  | .clipTask j => Sys2Proof.Machine.execClipTask j s
  | .histTask j => Sys2Proof.Machine.execHistTask j s
  | .pruneTask j => Sys2Proof.Machine.execPruneTask j s
  | .regrowTask j => Sys2Proof.Machine.execRegrowTask j s
  | .rngTask j => Sys2Proof.Machine.execRngTask j s
  | .gaugeTask j => Sys2Proof.Machine.execGaugeTask j s
  | .fenceStation course station => Sys2Proof.Machine.execFenceStation course station s
  | .probeRun course tensor => Sys2Proof.Machine.execProbeRun course tensor s
  | .veNop core ve ctx ins => Sys2Proof.Machine.execVeNop core ve ctx ins s
  | .veAdd core ve ctx ins => Sys2Proof.Machine.execVeAdd core ve ctx ins s
  | .veSub core ve ctx ins => Sys2Proof.Machine.execVeSub core ve ctx ins s
  | .veMul core ve ctx ins => Sys2Proof.Machine.execVeMul core ve ctx ins s
  | .veFma core ve ctx ins => Sys2Proof.Machine.execVeFma core ve ctx ins s
  | .veMin core ve ctx ins => Sys2Proof.Machine.execVeMin core ve ctx ins s
  | .veMax core ve ctx ins => Sys2Proof.Machine.execVeMax core ve ctx ins s
  | .veCmp core ve ctx ins => Sys2Proof.Machine.execVeCmp core ve ctx ins s
  | .veSel core ve ctx ins => Sys2Proof.Machine.execVeSel core ve ctx ins s
  | .veMovs core ve ctx ins => Sys2Proof.Machine.execVeMovs core ve ctx ins s
  | .veSplit core ve ctx ins => Sys2Proof.Machine.execVeSplit core ve ctx ins s
  | .veJoin core ve ctx ins => Sys2Proof.Machine.execVeJoin core ve ctx ins s
  | .vePerm core ve ctx ins => Sys2Proof.Machine.execVePerm core ve ctx ins s
  | .veRed core ve ctx ins => Sys2Proof.Machine.execVeRed core ve ctx ins s
  | .veLdq core ve ctx ins => Sys2Proof.Machine.execVeLdq core ve ctx ins s
  | .veStq core ve ctx ins => Sys2Proof.Machine.execVeStq core ve ctx ins s
  | .veRng core ve ctx ins => Sys2Proof.Machine.execVeRng core ve ctx ins s
  | .veRcp core ve ctx ins => Sys2Proof.Machine.execVeRcp core ve ctx ins s
  | .veRsq core ve ctx ins => Sys2Proof.Machine.execVeRsq core ve ctx ins s
  | .veExp core ve ctx ins => Sys2Proof.Machine.execVeExp core ve ctx ins s
  | .veLog core ve ctx ins => Sys2Proof.Machine.execVeLog core ve ctx ins s
  | .veTanh core ve ctx ins => Sys2Proof.Machine.execVeTanh core ve ctx ins s
  | .veSigmoid core ve ctx ins => Sys2Proof.Machine.execVeSigmoid core ve ctx ins s
  | .veSilu core ve ctx ins => Sys2Proof.Machine.execVeSilu core ve ctx ins s
  | .veSiluD core ve ctx ins => Sys2Proof.Machine.execVeSiluD core ve ctx ins s
  | .veGeluSig core ve ctx ins => Sys2Proof.Machine.execVeGeluSig core ve ctx ins s
  | .veGeluSigD core ve ctx ins => Sys2Proof.Machine.execVeGeluSigD core ve ctx ins s
  | .veGeluTanh core ve ctx ins => Sys2Proof.Machine.execVeGeluTanh core ve ctx ins s
  | .veGeluTanhD core ve ctx ins => Sys2Proof.Machine.execVeGeluTanhD core ve ctx ins s
  | .dmaTransferDone j now => Sys2Proof.Machine.execDmaTransferDone j now s
  | .dmaBusError j sys unit ch addr write cause => Sys2Proof.Machine.execDmaBusError j sys unit ch addr write cause s
  | .spill course stream tile err => Sys2Proof.Machine.execSpill course stream tile err s
  | .stackReadReturn stack line damage j => Sys2Proof.Machine.execStackReadReturn stack line damage j s
  | .stackWrite stack line data poisoned => Sys2Proof.Machine.execStackWrite stack line data poisoned s
  | .healWrite stack => Sys2Proof.Machine.execHealWrite stack s
  | .scrubRead stack damage odecc => Sys2Proof.Machine.execScrubRead stack damage odecc s
  | .stackTrainingDone stack bin => Sys2Proof.Machine.execStackTrainingDone stack bin s
  | .stackZeroingDone stack => Sys2Proof.Machine.execStackZeroingDone stack s
  | .stackTempRead stack temp mult => Sys2Proof.Machine.execStackTempRead stack temp mult s
  | .stackTempMissing stack => Sys2Proof.Machine.execStackTempMissing stack s
  | .leveeWindow measured temps spans => Sys2Proof.Machine.execLeveeWindow measured temps spans s
  | .sensorMissing sensor => Sys2Proof.Machine.execSensorMissing sensor s
  | .telemetryMissing => Sys2Proof.Machine.execTelemetryMissing s
  | .voltageAck die mv => Sys2Proof.Machine.execVoltageAck die mv s
  | .railFault die => Sys2Proof.Machine.execRailFault die s
  | .ilunyPowerRead r => Sys2Proof.Machine.execIlunyPowerRead r s
  | .thermalTrip stack unit temp => Sys2Proof.Machine.execThermalTrip stack unit temp s
  | .coreIdleGEnter core => Sys2Proof.Machine.execCoreIdleGEnter core s
  | .coreIdleGExit core => Sys2Proof.Machine.execCoreIdleGExit core s
  | .idleHoldExpire => Sys2Proof.Machine.execIdleHoldExpire s
  | .powerStateEnter target pending cut => Sys2Proof.Machine.execPowerStateEnter target pending cut s
  | .wakeTlp same => Sys2Proof.Machine.execWakeTlp same s
  | .wakePin same => Sys2Proof.Machine.execWakePin same s
  | .wakeMacFrame port same => Sys2Proof.Machine.execWakeMacFrame port same s
  | .wakeFrame port broadcast payload same => Sys2Proof.Machine.execWakeFrame port broadcast payload same s
  | .powerStateExitDone => Sys2Proof.Machine.execPowerStateExitDone s
  | .powerExitTimeout => Sys2Proof.Machine.execPowerExitTimeout s
  | .heartbeatWrite => Sys2Proof.Machine.execHeartbeatWrite s
  | .heartbeatMissed => Sys2Proof.Machine.execHeartbeatMissed s
  | .takeoverComplete => Sys2Proof.Machine.execTakeoverComplete s
  | .dnData port peer hdr msg quiet => Sys2Proof.Machine.execDnData port peer hdr msg quiet s
  | .dnAck port peer hdr quiet => Sys2Proof.Machine.execDnAck port peer hdr quiet s
  | .dnNak port peer hdr psn quiet => Sys2Proof.Machine.execDnNak port peer hdr psn quiet s
  | .dnCredit port peer hdr instance_ quiet => Sys2Proof.Machine.execDnCredit port peer hdr instance_ quiet s
  | .dnOpen port peer hdr version quiet => Sys2Proof.Machine.execDnOpen port peer hdr version quiet s
  | .dnOpenAck port peer hdr version quiet => Sys2Proof.Machine.execDnOpenAck port peer hdr version quiet s
  | .dnClose port peer hdr quiet => Sys2Proof.Machine.execDnClose port peer hdr quiet s
  | .netStepDone port peer hdr msg quiet => Sys2Proof.Machine.execNetStepDone port peer hdr msg quiet s
  | .netRepeat port peer hdr msg quiet against => Sys2Proof.Machine.execNetRepeat port peer hdr msg quiet against s
  | .netGiveUp port peer hdr msg quiet => Sys2Proof.Machine.execNetGiveUp port peer hdr msg quiet s
  | .exFetch port peer hdr key quiet => Sys2Proof.Machine.execExFetch port peer hdr key quiet s
  | .exShip port peer hdr key quiet => Sys2Proof.Machine.execExShip port peer hdr key quiet s
  | .exAnswerEnd port peer hdr key quiet => Sys2Proof.Machine.execExAnswerEnd port peer hdr key quiet s
  | .exCancel port peer hdr key quiet => Sys2Proof.Machine.execExCancel port peer hdr key quiet s
  | .exDeny port peer hdr key quiet => Sys2Proof.Machine.execExDeny port peer hdr key quiet s
  | .dnReply port peer hdr code psn quiet => Sys2Proof.Machine.execDnReply port peer hdr code psn quiet s
  | .dunnathViolation port peer hdr msg raw quiet => Sys2Proof.Machine.execDunnathViolation port peer hdr msg raw quiet s
  | .violWindow => Sys2Proof.Machine.execViolWindow s
  | .retransmitTimeout peer psn => Sys2Proof.Machine.execRetransmitTimeout peer psn s
  | .ackTimer peer => Sys2Proof.Machine.execAckTimer peer s
  | .nakTimer peer => Sys2Proof.Machine.execNakTimer peer s
  | .stepTimeout course => Sys2Proof.Machine.execStepTimeout course s
  | .roceWrite port peer qp psn part key offset bytes ecn => Sys2Proof.Machine.execRoceWrite port peer qp psn part key offset bytes ecn s
  | .roceSend port peer qp psn part bytes ecn => Sys2Proof.Machine.execRoceSend port peer qp psn part bytes ecn s
  | .ethFrameDropped port drop => Sys2Proof.Machine.execEthFrameDropped port drop s
  | .portLinkUp port sub => Sys2Proof.Machine.execPortLinkUp port sub s
  | .portLinkDown port sub => Sys2Proof.Machine.execPortLinkDown port sub s
  | .ethRefclkLoss die back => Sys2Proof.Machine.execEthRefclkLoss die back s
  | .pairLinkLoss => Sys2Proof.Machine.execPairLinkLoss s
  | .mgmtLinkLoss => Sys2Proof.Machine.execMgmtLinkLoss s
  | .ideStreamFailure stream => Sys2Proof.Machine.execIdeStreamFailure stream s
  | .sagDetect => Sys2Proof.Machine.execSagDetect s
  | .freeboardSaveDone whole => Sys2Proof.Machine.execFreeboardSaveDone whole s
  | .norCopy whole => Sys2Proof.Machine.execNorCopy whole s
  | .auxSupplyLoss => Sys2Proof.Machine.execAuxSupplyLoss s
  | .ref25mLoss => Sys2Proof.Machine.execRef25mLoss s
  | .inputOvervoltage above => Sys2Proof.Machine.execInputOvervoltage above s
  | .ilunyReady => Sys2Proof.Machine.execIlunyReady s
  | .mainEnable => Sys2Proof.Machine.execMainEnable s
  | .mctpRestart railFails => Sys2Proof.Machine.execMctpRestart railFails s
  | .perstAssert us => Sys2Proof.Machine.execPerstAssert us s
  | .perstDeassert early width pairUp => Sys2Proof.Machine.execPerstDeassert early width pairUp s
  | .hotReset => Sys2Proof.Machine.execHotReset s
  | .flrPf => Sys2Proof.Machine.execFlrPf s
  | .flrVf vf => Sys2Proof.Machine.execFlrVf vf s
  | .moduleMateLive seen main => Sys2Proof.Machine.execModuleMateLive seen main s
  | .getVersion conn => Sys2Proof.Machine.execGetVersion conn s
  | .getCapabilities conn => Sys2Proof.Machine.execGetCapabilities conn s
  | .negotiateAlgorithms conn offered => Sys2Proof.Machine.execNegotiateAlgorithms conn offered s
  | .getDigests conn => Sys2Proof.Machine.execGetDigests conn s
  | .getCertificate conn slot => Sys2Proof.Machine.execGetCertificate conn slot s
  | .spdmChallenge conn slot => Sys2Proof.Machine.execSpdmChallenge conn slot s
  | .getMeasurements conn index signed => Sys2Proof.Machine.execGetMeasurements conn index signed s
  | .keyExchange conn => Sys2Proof.Machine.execKeyExchange conn s
  | .spdmFinish session => Sys2Proof.Machine.execSpdmFinish session s
  | .spdmHeartbeat session => Sys2Proof.Machine.execSpdmHeartbeat session s
  | .keyUpdate session => Sys2Proof.Machine.execKeyUpdate session s
  | .endSession session => Sys2Proof.Machine.execEndSession session s
  | .ideKm session stream ranges => Sys2Proof.Machine.execIdeKm session stream ranges s
  | .lifecycleTransition session genuine mine => Sys2Proof.Machine.execLifecycleTransition session genuine mine s
  | .spdmUnsupported conn => Sys2Proof.Machine.execSpdmUnsupported conn s
  | .controlClusterFault => Sys2Proof.Machine.execControlClusterFault s
  | .hostEngineFault => Sys2Proof.Machine.execHostEngineFault s
  | .rocev2MalformedRequest port peer qp psn => Sys2Proof.Machine.execRocev2MalformedRequest port peer qp psn s
  | .mainInputReturn => Sys2Proof.Machine.execMainInputReturn s
  | .jtagInstruction ir => Sys2Proof.Machine.execJtagInstruction ir s

end Sys2Proof.Machine
end

