-- ==== Sys2Proof/Machine/RegRead.lean ====
section
/-! DEFINITION. What a read of a set-up register returns (R395, R503 to R511, R516): the stored fields, and the fields that
show other state; and what the debug window shows (R61, R397). The table of operations has no row for a read, which changes nothing. -/

namespace Sys2Proof.Machine

/-- TQ_COUNT of a queue (Table 1.5), its sticky bits as stored. -/
def State.tqCountRead (s : State) (core q : Nat) : Long :=
  let x := s.queue core q
  let bs := [x.bank0, x.bank1]
  let reading := bs.filter (fun b => b.state == .reading)
  let filling := bs.filter (fun b => b.state == .filling)
  let left := (reading.map (fun b => b.length - b.read)).foldl max 0
  let fill := (filling.map (fun b => b.words.length)).foldl max 0
  let ready := (bs.filter (fun b => b.state == .full || b.state == .reading)).length
  let v := setF (setF (s.reg ⟨.tqCount, core, q⟩) 26 16 left) 14 4 fill
  setF (setBit (setBit v 3 (bs.any (fun b => b.dropped))) 2 (!reading.isEmpty)) 1 0 ready

/-- ME_STAT (Table 5.8). -/
def State.meStatRead (s : State) (core me : Nat) : Long :=
  let m := (s.core core).me me
  let v := setF (setF 0 23 16 (min 255 m.faults)) 15 8 m.wregs.length
  setF (setF (setF (setBit v 7 m.oos) 4 3 m.bankB.state.code) 2 1 m.bankA.state.code) 0 0 m.half

/-- The code of a thermal class (Table 20.12). -/
def Thermal.code : Thermal → Nat
  | .cool => 0 | .hot => 1 | .throttled => 2 | .hold => 3

/-- CORE_STAT (Table 20.12); of a retired core RETIRED alone (R511). -/
def State.coreStatRead (s : State) (core : Nat) : Long :=
  let k := s.core core
  if k.retired then setBit 0 31 true
  else setBit (setF (setF (setF 0 28 24 k.allot) 21 20 k.thermal.code) 12 8 k.step) 0 k.idle

/-- SQ_STAT (Table 15.4). -/
def State.sqStatRead (s : State) (n : Nat) : Long :=
  let q := s.sq n
  setF (setF (setBit 0 63 q.halted) 31 16 q.tail) 15 0 q.head

/-- CQ_STAT (Table 15.4). -/
def State.cqStatRead (s : State) (n : Nat) : Long :=
  let q := s.cq n
  setF (setF (setBit 0 32 q.phase) 31 16 q.head) 15 0 q.tail

/-- STEP_STAT of a function (Table 17.10). -/
def State.stepStatRead (s : State) (f : Nat) : Long :=
  let m := s.stepM f
  if m.state == .idle then 0 else setF (setF (setF 0 63 61 m.state.code) 60 59 m.attempt) 47 0 m.step

/-- LAST_COMMIT of a function (Table 17.10). -/
def State.lastCommitRead (s : State) (f : Nat) : Long :=
  let m := s.stepM f
  setF (setBit 0 63 m.lastValid) 47 0 m.lastStep

/-- POLDER_STAT (Table 18.9), with the cores that the polder has. -/
def State.polderStatRead (s : State) (p : Nat) : Long :=
  let n := ((List.range s.part.cores).filter (fun c => decide ((s.core c).allot = p))).length
  setF (s.reg ⟨.polderStat, p, 0⟩) 23 16 (if s.polderExists p then min 255 n else 0)

/-- VF_ID of a VF (Table 20.16). -/
def State.vfIdRead (s : State) (v : Nat) : Long :=
  let m := s.vfMap v
  setF (setF (setF 0 31 26 v) 19 8 m.1) 6 0 m.2

/-- Word `i` of the confirmed feature set. -/
def State.confirmedWord (s : State) (i : Nat) : Long := if s.featuresConfirmed then s.reg ⟨.drvFeatures, i, 0⟩ else 0

/-- The value of a register as a read returns it. -/
def State.regRead (s : State) (r : Reg) : Long :=
  if s.inRetiredCore r then 0
  else
    match r.kind with
    | .identity => BitVec.ofNat 64 (leAt s.identity (4 * r.i) 4)
    | .mapId => 0x4E430001
    | .devFeatures => if r.i = 0 then BitVec.ofNat 64 (offeredFeatures s.part) else 0
    | .commit => 0
    | .sqStat => s.sqStatRead r.i
    | .cqStat => s.cqStatRead r.i
    | .errlogStat => setF (s.reg r) 12 0 s.log.length
    | .stepStat => s.stepStatRead r.i
    | .lastCommit => s.lastCommitRead r.i
    | .lifecycle => BitVec.ofNat 64 s.secure.lifecycle
    | .polderStat => s.polderStatRead r.i
    | .coreStat => s.coreStatRead r.i
    | .tqCount => s.tqCountRead r.i r.j
    | .meStat => s.meStatRead r.i r.j
    | .vfId => s.vfIdRead r.i
    | .confFeatures => s.confirmedWord r.j
    | _ => s.reg r

/-- The value that the shadow alias of a register returns (R504): its RWS fields from the shadow copy, the others 0. -/
def State.shadowRead (s : State) (r : Reg) : Long := s.shadowReg r &&& r.kind.mask .rws

/-- Half of a 64-bit value, or all of it, by access size. -/
def readPart (v : Long) (half : RegHalf) (size : Nat) : Nat :=
  match half with
  | .whole => if size = 4 then getF v 31 0 else v.toNat
  | .high => getF v 63 32

/-- The register that a read of a function reaches, and whether through the shadow alias. -/
def State.readTarget (s : State) (func off : Nat) : Option (Reg × RegHalf × Bool) :=
  let alias_ := if func = 0 then 0x2000000 else 0x4000
  if decide (alias_ ≤ off ∧ off < 2 * alias_) then (s.regAt func (off - alias_)).map (fun x => (x.1, x.2, true))
  else (s.regAt func off).map (fun x => (x.1, x.2, false))

/-- Bits of the MSI-X pending-bit array, at an offset of a function's BAR0 (Table 20.1, Table 20.15). -/
def State.pendingBits (s : State) (func off size : Nat) : Nat :=
  let v := 8 * (off - if func = 0 then 0x18000 else 0x9000)
  ((List.range (8 * size)).map (fun i => if s.host.irqs.contains (msixEntry func (v + i)) then 2 ^ i else 0)).foldl (· + ·) 0

/-- A register read by a function (R395, R505): the state, changed only by a fault, and the value. -/
def State.hostRead (s : State) (func off size : Nat) : State × Nat :=
  let s := s.dropStaged func
  let fault := (s.hostAccessFault func off, 0)
  if (size ≠ 4 ∧ size ≠ 8) ∨ off % size ≠ 0 then fault
  else
    match msixKey func off with
    | some k =>
      let w (j : Nat) : Nat := (FMap.get msixDefault s.regs.msix j).toNat
      (s, w k + (if size = 8 then 2 ^ 32 * w (k + 1) else 0))
    | none =>
      if msixPending func off then (s, s.pendingBits func off size)
      else
        match s.readTarget func off with
        | none => fault
        | some (r, half, shadow) =>
          if size = 8 ∧ (half = .high ∨ !r.kind.wide) then fault
          else (s, readPart (if shadow then s.shadowRead r else s.regRead r) half size)

/-- An offset of a doorbell BAR that is a doorbell (R396): 0x000 or 0x008 of a page. -/
def isDoorbell (off : Nat) : Bool := off % 4096 == 0 || off % 4096 == 8

/-- A read in a function's doorbell BAR (R396): 0 of either doorbell; any other offset of the page is a host access fault, which
reads as 0 too. -/
def State.doorbellRead (s : State) (func off : Nat) : State × Nat :=
  (if isDoorbell off then s else s.hostAccessFault func off, 0)

/-- A write in a function's doorbell BAR away from its doorbells (R396); a doorbell's is SQ_TAIL or CQ_HEAD. -/
def State.doorbellMiss (s : State) (func off : Nat) : State := if isDoorbell off then s else s.hostAccessFault func off

/-! ## The debug window (R61, R397) -/

/-- A stream context (Table 2.5). -/
def Stream.context (x : Stream) : List Byte :=
  toLe 4 (x.tensor % 2 ^ 24 + x.state.code * 2 ^ 24) ++ toLe 4 (x.prod % 2 ^ 20 + x.prodPort % 16 * 2 ^ 20)
    ++ toLe 4 (x.cons % 2 ^ 20 + x.consPort % 16 * 2 ^ 20) ++ toLe 6 x.produced ++ toLe 6 x.consumed
    ++ toLe 2 x.epoch ++ toLe 2 x.gen ++ toLe 4 x.locator

/-- STATE of a journal entry (Table 17.3). -/
def JState.code : JState → Nat
  | .free => 0 | .issued => 1 | .done => 2 | .abandoned => 3

/-- A journal entry (Table 17.3). -/
def JEntry.bytes (e : JEntry) : List Byte :=
  toLe 4 e.course ++ toLe 4 (e.station % 2 ^ 20 + e.attempt % 16 * 2 ^ 24 + e.state.code * 2 ^ 28) ++ toLe 8 (e.tile % 2 ^ 40)
    ++ toLe 4 e.reachFirst ++ toLe 4 e.reachCount ++ toLe 4 (e.outTensor % 2 ^ 24) ++ toLe 2 e.outGen
    ++ toLe 2 (e.index % 64 + e.core % coresPerDie * 2 ^ 6 + e.engine % 16 * 2 ^ 12) ++ toLe 8 (e.step % 2 ^ 48)
    ++ (List.range 3).flatMap (fun p => let i := e.inputs.getD p (0, 0); toLe 8 (i.1 % 2 ^ 24 + i.2 % 2 ^ 16 * 2 ^ 24))

/-- The contexts in use, in fetch order of their courses; each die holds 261,120 of them (R60; log entry 108). -/
def State.contexts (s : State) : List Stream := (s.courses.filter (fun c => c.ctx)).flatMap (fun c => c.streams)

/-- A byte of the debug window while it is open: stream tables, journals, the control region, whose layout the spec does not give,
and zeros. -/
def State.debugByte (s : State) (off : Nat) : Byte :=
  let area := off / 2 ^ 25
  let die := off / 2 ^ 23 % 4
  let a := off % 2 ^ 23
  if area = 0 then
    if s.part.dies ≤ die ∨ 261120 ≤ a / 32 then 0
    else match s.contexts[die * 261120 + a / 32]? with
      | some x => x.context.getD (a % 32) 0
      | none => 0
  else if area = 1 then
    if s.part.dies ≤ die then 0
    else match s.entry (die * journalRoom + a / 64) with
      | some e => e.bytes.getD (a % 64) 0
      | none => 0
  else if area < 4 then Config.controlByte s.free (off - 2 ^ 26)
  else 0

/-- What a read of the debug window delivers: zeros while it is closed (R397). -/
def State.debugRead (s : State) (off size : Nat) : List Byte :=
  (List.range size).map (fun i => if s.debugOpen then s.debugByte (off + i) else 0)

end Sys2Proof.Machine
end

