-- ==== Sys2Proof/Safety.lean ====
section
/-! DEFINITION. What counts as a safe run, in the terms that claims use: the tables' canonical form, the bound of the error log,
the fused states, and what no command but its own may change. -/

namespace Sys2Proof.Machine

/-- The stack memory is in canonical form: the table of stacks, and each stack's lines (12.3). -/
def Memory.wf (s : State) : Bool :=
  FMap.wf (fun _ => ({} : Stack)) s.stackTab && s.stackTab.all (fun kv => FMap.wf (fun _ => ({} : Line)) kv.2.lines)

/-- The lifecycle state is one of Table 18.7, and the sealing key is gone in RETURNED (R490, R491). -/
def State.fusesOk (s : State) : Bool :=
  decide (1 ≤ s.secure.lifecycle ∧ s.secure.lifecycle ≤ 3) && (s.secure.lifecycle != 3 || !s.secure.sealed)

/-- The error log holds at most 4,096 entries (R457). -/
def logOk (l : List LogEntry) : Prop := l.length ≤ 4096

/-- The tables of registers, rings, tensors, journal entries, cores, dies' buffers and vector engines are in canonical form: equal
tables are equal lists. -/
def State.tablesOk (s : State) : Bool :=
  FMap.wf regDefault s.regs.active && FMap.wf regDefault s.regs.shadow && FMap.wf (fun _ => ({} : SqRun)) s.host.sq
    && FMap.wf (fun _ => ({} : CqRun)) s.host.cq && FMap.wf (fun _ => (none : Option Tensor)) s.tensors
    && FMap.wf (fun _ => (none : Option JEntry)) s.journal && FMap.wf (fun _ => ({} : Core)) s.cores
    && FMap.wf (fun _ => ({} : Sram)) s.dm && FMap.wf (fun _ => ({} : VeRun)) s.ve

/-! ## What claims say of two states -/

/-- From s to t only active copies of registers differ, and of these only those of the listed registers. -/
def State.onlyRegs (s t : State) (rs : List Reg) : Prop :=
  t = { s with regs := { s.regs with active := t.regs.active } } ∧
    ∀ r : Reg, (∀ q ∈ rs, r.key ≠ q.key) → t.reg r = s.reg r

/-- From s to t only the run-time state of submission ring n differs. -/
def State.onlySq (s t : State) (n : Nat) : Prop :=
  t = { s with host := { s.host with sq := t.host.sq } } ∧ ∀ m, m ≠ n → t.sq m = s.sq m

/-- From s to t only the run-time state of completion ring n differs. -/
def State.onlyCq (s t : State) (n : Nat) : Prop :=
  t = { s with host := { s.host with cq := t.host.cq } } ∧ ∀ m, m ≠ n → t.cq m = s.cq m

/-- From s to t only core n differs. -/
def State.onlyCore (s t : State) (n : Nat) : Prop :=
  t = { s with cores := t.cores } ∧
    ∀ m, m ≠ n → FMap.get (fun _ => ({} : Core)) t.cores m = FMap.get (fun _ => ({} : Core)) s.cores m

/-- The MSI-X entry of the interrupt that a record calls for, and whether its vector is masked (R402, R503). -/
def State.recordIrq (s : State) (r : Rec) : Nat × Bool :=
  let e := msixEntry r.func (s.regF .cqCtl (s.cqOf r.ring) 26 16)
  (e, s.msixMasked e)

/-- What goes out when a record is written (R402): the aligned 32-byte write into slot TAIL, then the interrupt that
IRQ_MODE calls for, unless its vector is masked. -/
def State.recordOuts (s : State) (r : Rec) : List Out :=
  let n := s.cqOf r.ring
  .hostWrite r.func (s.regF .cqBase n 63 12 * 4096 + 32 * (s.cq n).tail)
      (r.toBytes (s.cq n).phase (s.localRing r.func r.ring) (s.sq r.ring).head)
    :: (if s.wantsIrq n r && !(s.recordIrq r).2 then [.msix r.func (s.regF .cqCtl n 26 16)] else [])

/-- The pending array after a record: the interrupt of a masked vector waits in it (R503). -/
def State.recordPending (s : State) (r : Rec) : List Nat :=
  if s.wantsIrq (s.cqOf r.ring) r && (s.recordIrq r).2 then insertNat (s.recordIrq r).1 s.host.irqs else s.host.irqs

/-- The completion ring of a submission ring takes a record at once: it is enabled, has room, and holds none back. -/
def State.ringOpen (s : State) (ring : Nat) : Bool :=
  let n := s.cqOf ring
  s.cqEnabled n && !s.cqFull n && (s.cq n).held.isEmpty

/-- From s to t descriptor d left flight and record r was written (R402): TAIL has advanced, PHASE has inverted at a wrap,
and nothing else differs. -/
def State.completed (s t : State) (d : Desc) (r : Rec) : Prop :=
  let n := s.cqOf r.ring
  let next := ((s.cq n).tail + 1) % s.cqSize n
  t.host.inflight = s.host.inflight.filter (fun e => e.seq ≠ d.seq) ∧ t.out = s.out ++ s.recordOuts r ∧
    t.cq n = { s.cq n with tail := next, phase := if next = 0 then !(s.cq n).phase else (s.cq n).phase } ∧
    (∀ m, m ≠ n → t.cq m = s.cq m) ∧ t.host.irqs = s.recordPending r ∧
    t = { s with host := { s.host with inflight := t.host.inflight, cq := t.host.cq, irqs := t.host.irqs }, out := t.out }

/-- The descriptor that a fetch from ring n takes: the next in fetch order, with its bytes and structures. -/
def State.fetched (s : State) (n : Nat) (bytes : List Byte) (blocks : List (List Byte)) : Desc :=
  { seq := s.host.nextSeq, func := s.ringFunc n, ring := n, bytes := s.descBytes n bytes, blocks := blocks }

/-- From s to t the fetch engine took the slot at HEAD of ring n: HEAD advanced, the turn is at n, and one more
descriptor has its place in fetch order. -/
def State.slotTaken (s t : State) (n : Nat) : Prop :=
  t.sq n = { s.sq n with head := ((s.sq n).head + 1) % s.sqSize n } ∧ (∀ m, m ≠ n → t.sq m = s.sq m) ∧
    t.host.lastRing = n ∧ t.host.nextSeq = s.host.nextSeq + 1

/-- A packet on a port comes to its message: the host side is up, no mirror mode, the port is up, and no check of Table 13.7
breaks. -/
def State.passes (s : State) (port peer : Nat) (h : DnHdr) (m : NetMsg) : Bool :=
  s.hostUp && !s.mirror && decide (port < s.part.ports) && s.portTakes port && (s.brokenBy peer h m).isNone

/-- The packet is the next of its session, and no packet of the session waits for an earlier one. -/
def State.inTurn (s : State) (peer : Nat) (h : DnHdr) : Bool :=
  decide (h.psn = (s.session peer).rxNext) && (s.session peer).held.isEmpty

/-- From s to t the network became n but for its sessions, the channels that fell free and MACsec's packet numbers, packets may have
gone out, and nothing else differs. -/
def State.wire (s t : State) (n : NetState) : Prop :=
  t = { s with net := { n with sessions := t.net.sessions, channels := t.net.channels, sas := t.net.sas }, out := t.out } ∧
    t.net.sas.map (fun a => { a with pn := 0 }) = n.sas.map (fun a => { a with pn := 0 })

/-- The session with a peer expects the next PSN. -/
def State.advanced (s t : State) (peer : Nat) : Prop :=
  (t.session peer).rxNext = ((s.session peer).rxNext + 1) % 2 ^ 32

/-! ## Tile tasks -/

/-- Task t may run to its end: it is the running task of its journal entry, nothing stops it at its reads (an incomplete
generation, a broken block, a forbidden tile on an input), the warden permits its crossings, and no tensor that its course
converts into waits for a probe. -/
def State.runs (s : State) (t : Task) (agg : Option Nat) (part : Nat → Bool) : Prop :=
  s.task t.j t.st.typ = some t ∧ s.readStop t = none ∧ s.wardenTask t agg part = none ∧
    ∀ id, s.needsProbe t.c id = false

/-- Every data stream of a task's output port carries tile x at x's index: emitted, or waiting for lower tiles (R55). -/
def State.carries (s : State) (t : Task) (port : Nat) (x : Tile) : Prop :=
  ∃ c, s.course t.c.id = some c ∧ ∀ y ∈ c.streams, y.prod = t.st.id → y.prodPort = port → y.completion = false →
    (y.tiles ++ y.waiting).find? (fun z => z.hdr.index = x.hdr.index) = some x

/-- The norm side output that a task's station gathers (R155). -/
def State.sideOf (s : State) (t : Task) : Option SideOut :=
  ((s.course t.c.id).bind (fun (c : Course) => c.station t.st.id)).map (fun (q : Station) => q.side)

/-- From s to u task t's engine has finished it: its entry keeps its flags and its poison until it retires, each tile that it
emits once is on its streams, and no other entry and no other course changes. -/
def State.ended (s u : State) (t : Task) (poison : Bool) (flags : Flags) (outs : List (Nat × Tile)) : Prop :=
  u.entry t.j = some { t.e with finished := true, flags := flags, poisoned := poison || t.e.poisoned } ∧
    (∀ i, i ≠ t.j → u.entry i = s.entry i) ∧ (∀ n, n ≠ t.c.id → u.course n = s.course n) ∧
    ∀ o ∈ outs, (∀ q ∈ outs, q.1 = o.1 → q.2.hdr.index = o.2.hdr.index → q = o) →
      u.carries t o.1 (o.2.poisoned (poison || t.e.poisoned))

/-- Of the registers only the error log's status may differ: a full log counts what it loses (R457). -/
def State.sameRegs (s u : State) : Prop := ∀ r : Reg, r.key ≠ Reg.key ⟨.errlogStat, 0, 0⟩ → u.reg r = s.reg r

/-- From s to u only courses, the journal, what the weir saw of tensors, the banks, queues and buffers of the cores and the
buffers of the dies differ, and what the spillway writes (R57): lines of the stacks and, for a tile whose key is gone, the
log. -/
def State.inTasks (s u : State) : Prop :=
  u = { s with courses := u.courses, journal := u.journal, tensors := u.tensors, cores := u.cores, dm := u.dm
               stackTab := u.stackTab, log := u.log, logTotal := u.logTotal, free := u.free, regs := u.regs } ∧
    s.sameRegs u ∧
    ∀ id, ((u.tensor id).map (fun x => { x with weir := {} })) = ((s.tensor id).map (fun x => { x with weir := {} }))

/-- From s to u the tensors are those after some writes of a course, in their order. -/
def State.wrote (s u : State) (c : Course) (ws : List (WriteKind × List (Nat × Nat × Tile))) : Prop :=
  ∃ v, s.inTasks v ∧
    let w := ws.foldl (fun (x : State) k => x.storeMany c k.1 k.2) v
    w.inTasks u

/-- From s to u a course wrote tile x as tile k of tensor id, which is no view: the generation written holds it as its home keeps
it, with the berm of R302 where `berm` lays it, or as before where the polder's key is absent (R330), and every other tile stands. -/
def State.stored (s u : State) (step berm : Bool) (id k : Nat) (x : Tile) : Prop :=
  ∃ a b : Tensor, s.tensor id = some a ∧ u.tensor id = some b ∧ b.desc = a.desc ∧ b.genNo = a.genNo ∧
    b.dest step id k = (if s.keyAbsent a then a.dest step id k
      else a.desc.homed id k (a.desc.overBerm berm k (a.inHalf id (a.halfFor step k) k) x)) ∧
    ∀ i, i ≠ k → b.dest step id i = a.dest step id i

/-! ## Vector engines -/

/-- The registers of a context have 128 lanes, and its masks 256 bits. -/
def VeCtx.full (x : VeCtx) : Prop := (∀ r, (x.reg r).length = 128) ∧ ∀ m, (FMap.get (fun _ => zeroMask) x.mks m).length = 256

/-- Element e of a register as an instruction sees it (R264): a lane, or a half lane with a 16-bit TYPE. -/
def VeCtx.element (x : VeCtx) (i : VeIns) (r e : Nat) : Nat :=
  (if i.typ = 0 then x.reg r else splitLanes (x.reg r)).getD e 0

/-- An instruction completes, and nothing but VE `ve` of the core differs. -/
def State.onVe (s : State) (core ve : Nat) (o : Host.Outcome State Fault Refusal) (w : VeRun) : Prop :=
  ∃ t, o = .next t ∧ t = { s with ve := t.ve } ∧ t.veRun core ve = w ∧
    ∀ k, k ≠ 4 * core + ve → FMap.get (fun _ => ({} : VeRun)) t.ve k = FMap.get (fun _ => {}) s.ve k

/-- From v to w the active elements of register d of context c became `res`, whose flags are sticky, and nothing else differs. -/
def VeRun.laneOp (v w : VeRun) (c d : Nat) (i : VeIns) (res : Nat → Nat × Flags) : Prop :=
  w = { v with ctxs := w.ctxs, flags := (List.range (veActive i)).foldl (fun f e => f ||| (res e).2) v.flags } ∧
    (∀ k, k ≠ c → w.ctx k = v.ctx k) ∧ (∀ r, r ≠ d → (w.ctx c).reg r = (v.ctx c).reg r) ∧
    (w.ctx c).mks = (v.ctx c).mks ∧ (w.ctx c).step = (v.ctx c).step ∧
    ((i.typ = 0 ∨ ∀ e, e < veActive i → (res e).1 < 2 ^ 16) → ∀ e,
      (w.ctx c).element i d e = if e < veActive i then (res e).1 else (v.ctx c).element i d e)

/-- What no command changes: the part, the package and the waiting commands. -/
def State.fixed (s : State) : Part × Pkg × List Instr := (s.part, s.pkg, s.pending)

end Sys2Proof.Machine
end

