-- ==== Sys2Proof/Certificates/Slice0/Obligations.lean ====
section
/-! DEFINITION. The statements for the provers. -/

open Sys2Proof Sys2Proof.Machine

/-! ## Steps -/

/-- A step takes the command at the front of the queue and runs it with the queue's rest. -/
def Obligations.StepRunsFrontCommand : Prop :=
  ∀ (c : Instr) (rest : List Instr) (s : State),
    step { s with pending := c :: rest } = exec c { s with pending := rest }

/-! ## Host interface -/

/-- A record that is due, while its ring is enabled, has room and holds none back, is written into slot TAIL with one
32-byte write; TAIL advances, PHASE inverts at a wrap, and an interrupt follows the record (R402). Otherwise it is held
behind the records that are held.
A FENCE completes once every descriptor fetched before it from the rings of its scope has completed, and stays in flight
until then, holding its own ring's fetch (R404).
POWER_HINT records the wake-latency tolerance of its ring and completes with OK (R437); COMPLETION_RECORD_RESUME writes the
oldest held record of a ring that has room again (R402).
Completion, under conditions on the state and the operands alone, is stated for: fenceDesc, powerHint,
completionRecordResume. -/
def Obligations.CompletionsFencesAndHeldRecords : Prop :=
  (∀ (s : State) (d : Desc) (r : Rec), d.forwarded = false →
     (s.ringOpen r.ring = true → s.completed (s.complete d r) d r) ∧
     (s.ringOpen r.ring = false →
       ∃ t, s.complete d r = t ∧ t.out = s.out ∧
         t.cq (s.cqOf r.ring) = { s.cq (s.cqOf r.ring) with held := (s.cq (s.cqOf r.ring)).held ++ [r] } ∧
         (∀ m, m ≠ s.cqOf r.ring → t.cq m = s.cq m) ∧
         t = { s with host := { s.host with inflight := t.host.inflight, cq := t.host.cq } })) ∧
  (∀ (s : State) (ring : Nat) (f : Desc),
     s.host.inflight.find? (fun d => d.ring = ring && d.ty = 0x06) = some f →
     s.mayFetch ring = false ∧
     ((∃ d ∈ s.host.inflight, d.seq < f.seq ∧ s.inScope f d = true) → exec (.fenceDesc ring) s = .next s) ∧
     ((∀ d ∈ s.host.inflight, s.inScope f d = true → f.seq ≤ d.seq) →
       exec (.fenceDesc ring) s = .next (s.completeStatus f 0x0000))) ∧
  ((∀ (s : State) (ring : Nat) (d : Desc), s.dueDesc ring 0x08 = some d →
     ∃ u : State, u.sq ring = { s.sq ring with wakeTol := some (d.field 16 4) } ∧ s.onlySq u ring ∧
       exec (.powerHint ring) s = .next (u.completeStatus d 0x0000)) ∧
   (∀ (s : State) (n : Nat) (r : Rec) (rs : List Rec), (s.cq n).held = r :: rs → s.cqEnabled n = true →
     s.cqFull n = false → s.cqOf r.ring = n →
     ∃ t more, exec (.completionRecordResume n) s = .next t ∧ t.out = s.out ++ s.recordOuts r ++ more ∧
       (t.cq n).held.length ≤ rs.length ∧ (∀ m, m ≠ n → t.cq m = s.cq m) ∧ (∀ e, e ∈ s.recordPending r → e ∈ t.host.irqs) ∧
       t = { s with host := { s.host with cq := t.host.cq, irqs := t.host.irqs }, out := t.out }))

/-- Doorbells (R396), on a page that has a ring: an acceptable value (below the ring's size, the ring enabled, the tail not behind
descriptors not yet fetched, the head releasing only written records), without its bits 31:16, becomes the ring's tail or
head and nothing else changes; any other is ignored and logged as a doorbell fault.
The fetch order across rings (R399): the ring that is fetched next may be fetched, and it is the first such ring above the
ring last served, or, with none above it, the lowest.
A bus error on the read of a descriptor (R401): it completes with BUS_ERROR and the cause in DETAIL, its record marked as
logged; HALTED is set, HEAD points past the failed descriptor, and the ring is not fetched until software clears HALTED. A
descriptor of which no byte came has free bytes (log entry 19).
Completion, under conditions on the state and the operands alone, is stated for: sqTail, cqHead, descFetchBusError,
sqHaltedClear. -/
def Obligations.DoorbellsTurnsAndBusErrors : Prop :=
  (∀ (s : State) (func page value n : Nat), s.hostLink = true → s.pageRing func page = some n →
     (s.tailOk n (value % 2 ^ 16) = true →
       ∃ t, exec (.sqTail func page value) s = .next t ∧
         t.sq n = { s.sq n with tail := value % 2 ^ 16 } ∧ s.onlySq t n) ∧
     (s.tailOk n (value % 2 ^ 16) = false →
       exec (.sqTail func page value) s
         = .next (s.logFor 0x0002 func (funcRequester func) (page * 2 ^ 32 + value % 2 ^ 32))) ∧
     (s.headOk n (value % 2 ^ 16) = true →
       ∃ t, exec (.cqHead func page value) s = .next t ∧
         t.cq n = { s.cq n with head := value % 2 ^ 16 } ∧ s.onlyCq t n) ∧
     (s.headOk n (value % 2 ^ 16) = false →
       exec (.cqHead func page value) s
         = .next (s.logFor 0x0002 func (funcRequester func) (page * 2 ^ 32 + value % 2 ^ 32)))) ∧
  (∀ (s : State) (n : Nat), FMap.wf (fun _ => ({} : SqRun)) s.host.sq = true →
     (s.nextRing = some n ↔
       s.mayFetch n = true ∧
         ∀ m, s.mayFetch m = true → m ≠ n →
           if s.host.lastRing < n then m ≤ s.host.lastRing ∨ n < m else m ≤ s.host.lastRing ∧ n < m)) ∧
  (∀ (s : State) (n cause : Nat) (bytes : Option (List Byte)), s.nextRing = some n →
     ∃ (t u : State) (d : Desc), exec (.descFetchBusError cause bytes) s = .next t ∧
       s.slotTaken u n ∧ u = { s with host := { s.host with sq := u.host.sq, lastRing := n, nextSeq := u.host.nextSeq } } ∧
       d = { seq := s.host.nextSeq, func := s.ringFunc n, ring := n,
             bytes := match bytes with
               | some b => s.descBytes n b
               | none => fitBytes 16 (Config.unreadDescriptor s.free) } ∧
       t = ((u.logFor 0x0033 d.func n cause).setSq n { u.sq n with halted := true }).complete d
         { d.record 0x0013 cause with logged := true } ∧
       (t.sq n).halted = true ∧ (t.sq n).head = ((s.sq n).head + 1) % s.sqSize n ∧ t.mayFetch n = false ∧
       (∀ m, m ≠ n → t.sq m = s.sq m) ∧
       t = { s with host := t.host, out := t.out, log := t.log, logTotal := t.logTotal, free := t.free,
                    regs := { s.regs with active := t.regs.active } } ∧
       (t.hostLink = true → t.stagedOf (t.ringFunc n) = none →
         ∃ v, exec (.sqHaltedClear n) t = .next v ∧ v.sq n = { t.sq n with halted := false } ∧ t.onlySq v n))

/-- A fetch (R399, R405): the descriptor at HEAD is taken; one that passes the structural checks waits in flight for the command that
acts on it, and in mirror mode package A forwards it and package B refuses its own (R391); one that fails completes with
DESC_MALFORMED and the check's code; on a faulted device it completes with DEVICE_FAULT unless it is a QUERY (R459).
Completion, under conditions on the state and the operands alone, is stated for: descFetch. -/
def Obligations.FetchTakesTheDescriptorAtHead : Prop :=
  ∀ (s : State) (n : Nat) (bytes : List Byte) (blocks : List (List Byte)) (d : Desc), s.nextRing = some n →
    s.fetched n bytes blocks = d →
    ∃ u : State, s.slotTaken u n ∧ u.host.inflight = s.host.inflight ++ [d] ∧
      u.out = s.out ++ (if s.mirror && s.pkg == .a then [.pairDesc d] else []) ∧
      u = { s with
        host := { s.host with sq := u.host.sq, inflight := u.host.inflight, lastRing := n, nextSeq := u.host.nextSeq },
        out := u.out } ∧
      (∀ code, s.malformed d = some code → exec (.descFetch bytes blocks) s = .next (u.completeStatus d 0x0001 code)) ∧
      (∀ cls, s.malformed d = none → s.host.deviceFault = some cls → d.ty ≠ 0x09 →
        exec (.descFetch bytes blocks) s = .next (u.completeStatus d 0x0018 cls)) ∧
      (∀ cls, s.malformed d = none → s.host.deviceFault = some cls → d.ty = 0x09 →
        exec (.descFetch bytes blocks) s = .next u) ∧
      (s.malformed d = none → s.host.deviceFault = none → (s.mirror && s.pkg == .b) = false →
        exec (.descFetch bytes blocks) s = .next u) ∧
      (s.malformed d = none → s.host.deviceFault = none → (s.mirror && s.pkg == .b) = true →
        exec (.descFetch bytes blocks) s = .next (u.completeStatus d 0x0003))

/-! ## Registers, features and commits -/

/-- BAR0 offsets and registers (20.1 to 20.7): the register that an offset names lies at that offset, and no two registers share
one.
A write of a 64-bit register in halves (R395, R505): the low half is staged and no register changes; the write of the high half
then does what one 64-bit write does, and nothing is staged any more.
Completion, under conditions on the state and the operands alone, is stated for: regWrite. -/
def Obligations.OffsetsAndHalves : Prop :=
  (∀ (p : Part) (o o' : Nat) (r : Reg), pfRegAt p o = some (r, .whole) →
     r.key = o ∧ pfRegAt p r.key = some (r, .whole) ∧ (pfRegAt p o' = some (r, .whole) → o' = o) ∧
       (r.kind.wide = true → pfRegAt p (o + 4) = some (r, .high)) ∧
       (r.kind.wide = false → pfRegAt p (o + 4) ≠ some (r, .high))) ∧
  (∀ (s : State) (func off lo hi : Nat) (r : Reg), s.hostLink = true → s.stagedOf func = none →
     off % 8 = 0 → lo < 2 ^ 32 → hi < 2 ^ 32 →
     msixKey func off = none → msixKey func (off + 4) = none →
     msixPending func off = false → msixPending func (off + 4) = false →
     (func = 0 ∨ s.featuresConfirmed = true) → s.regAt func off = some (r, .whole) →
     s.regAt func (off + 4) = some (r, .high) → r.kind.wide = true → r.kind.writable = true → s.inRetiredCore r = false →
     ∃ t u v, exec (.regWrite func off 8 (lo + 2 ^ 32 * hi)) s = .next t ∧ exec (.regWrite func off 4 lo) s = .next u ∧
       u = { s with regs := { s.regs with staged := u.regs.staged } } ∧ u.stagedOf func = some { key := r.key, low := lo } ∧
       exec (.regWrite func (off + 4) 4 hi) u = .next v ∧ (∀ f, v.stagedOf f = t.stagedOf f) ∧
       v = { t with regs := { t.regs with staged := v.regs.staged } })

/-- A write of a committed register (R395, R413, Table 0.5): its RWS fields take the written bits in the shadow copy, every other
bit and the active copy stand.
Accesses that are no register write (R395): another size or alignment, an offset that maps no register, or a register that is
read-only is a host access fault, logged with the requester id and the offset, and ignored.
In mirror mode package B takes the values that package A committed, in both copies (R515); a value of another register or
group is not taken.
Completion, under conditions on the state and the operands alone, is stated for: regWrite, pairCommitForward. -/
def Obligations.WritesReachTheirCopies : Prop :=
  (∀ (s : State) (off value : Nat) (r : Reg), s.hostLink = true → s.stagedOf 0 = none → s.regAt 0 off = some (r, .whole) →
     r.kind.group.isSome = true → msixKey 0 off = none → msixPending 0 off = false →
     off % (if r.kind.wide then 8 else 4) = 0 → value < 2 ^ (if r.kind.wide then 64 else 32) →
     ∃ t, exec (.regWrite 0 off (if r.kind.wide then 8 else 4) value) s = .next t ∧
       t.shadowReg r = mergeBits (s.shadowReg r) (BitVec.ofNat 64 value) (r.kind.mask .rws) ∧
       (∀ q : Reg, q.key ≠ r.key → t.shadowReg q = s.shadowReg q) ∧
       t = { s with regs := { s.regs with shadow := t.regs.shadow } }) ∧
  (∀ (s : State) (func off size value : Nat), s.hostLink = true → s.stagedOf func = none →
     ((size ≠ 4 ∧ size ≠ 8) ∨ off % size ≠ 0 ∨
       (msixKey func off = none ∧ msixPending func off = false ∧ s.regAt func off = none) ∨
       (msixKey func off = none ∧ msixPending func off = false ∧
         ∃ r h, s.regAt func off = some (r, h) ∧ r.kind.writable = false ∧ s.inRetiredCore r = false)) →
     exec (.regWrite func off size value) s = .next (s.logFor 0x0001 func (funcRequester func) off)) ∧
  (∀ (s : State) (group : Nat) (values : List (Nat × Long)), s.mirror = true → s.pkg = .b →
     group ∈ [1, 2, 3, 4, 6, 8] →
     ∃ t, exec (.pairCommitForward group values) s = .next t ∧
       t = { s with regs := { s.regs with active := t.regs.active, shadow := t.regs.shadow } } ∧
       ∀ k, match ((values.filter (fun kv => match s.keyReg kv.1 with
             | some r => decide (r.kind.group = some group)
             | none => false)).reverse.find? (fun kv => kv.1 = k)) with
         | some kv => FMap.get regDefault t.regs.active k = kv.2 ∧ FMap.get regDefault t.regs.shadow k = kv.2
         | none => FMap.get regDefault t.regs.active k = FMap.get regDefault s.regs.active k ∧
             FMap.get regDefault t.regs.shadow k = FMap.get regDefault s.regs.shadow k)

/-- A COMMIT (R413, R513): checked, it waits for its boundaries with PENDING set, holding the snapshot of the named groups, in which a busy
idle-only field has its kept value; CODE 0x04 and the group tell of such a field, and its shadow is put back and logged
(R414). Refused by a check, or beaten by a contradicting order (R416, both orders logged), it leaves no commit waiting and
COMMIT_STATUS carries the code and the lowest group; while one waits, another is dropped. A staged half stays (Table 20.18).
Completion, under conditions on the state and the operands alone, is stated for: commit. -/
def Obligations.CommitIsOneChange : Prop :=
  ∀ (s : State) (func mask : Nat) (gs : List Nat) (m : FMap Long), s.hostLink = true →
    (func = 0 ∨ s.featuresConfirmed = true) → mask % 2 ^ 32 ≠ 0 → maskBits (mask % 2 ^ 32) = gs → s.snapshot func gs = m →
    ((s.pendCommit func).isSome = true →
      ∃ t, exec (.commit func mask none) s = .next t ∧ getBit (t.reg ⟨.commitStatus, func, 0⟩) 30 = true ∧
        s.onlyRegs t [⟨.commitStatus, func, 0⟩]) ∧
    (∀ code g, s.pendCommit func = none → s.commitCheck func gs m = some (code, g) →
      ∃ t, exec (.commit func mask none) s = .next t ∧ getBit (t.reg ⟨.commitStatus, func, 0⟩) 31 = false ∧
        getF (t.reg ⟨.commitStatus, func, 0⟩) 23 16 = g % 256 ∧ getF (t.reg ⟨.commitStatus, func, 0⟩) 7 0 = code % 256 ∧
        s.onlyRegs t [⟨.commitStatus, func, 0⟩]) ∧
    (s.pendCommit func = none → s.commitCheck func gs m = none → s.commitBusy func gs = [] →
      ∃ t, exec (.commit func mask none) s = .next t ∧ t.pendCommit func = some { groups := gs, snap := m } ∧
        getBit (t.reg ⟨.commitStatus, func, 0⟩) 31 = true ∧ getF (t.reg ⟨.commitStatus, func, 0⟩) 23 16 = 0xFF ∧
        getF (t.reg ⟨.commitStatus, func, 0⟩) 7 0 = 0 ∧
        (∀ r : Reg, r.key ≠ Reg.key ⟨.commitStatus, func, 0⟩ → t.reg r = s.reg r) ∧
        t = { s with regs := { s.regs with active := t.regs.active, commits := t.regs.commits } }) ∧
    (∀ b bs, s.pendCommit func = none → s.commitCheck func gs m = none → s.commitBusy func gs = b :: bs →
      ∃ t, exec (.commit func mask none) s = .next t ∧ t.pendCommit func = some { groups := gs, snap := m } ∧
        getBit (t.reg ⟨.commitStatus, func, 0⟩) 31 = true ∧ getF (t.reg ⟨.commitStatus, func, 0⟩) 23 16 = b.1 % 256 ∧
        getF (t.reg ⟨.commitStatus, func, 0⟩) 7 0 = 4 ∧ t.log = ((b :: bs).foldl (fun (v : State) x => v.keepBusy func x) s).log ∧
        t.shadowReg = ((b :: bs).foldl (fun (v : State) x => v.keepBusy func x) s).shadowReg) ∧
    (∀ o, s.pendCommit func = none → s.commitCheck func gs m = none → beatenBy (s.commitOrder func gs m) (some o) = none →
      ∃ t, exec (.commit func mask (some o)) s = .next t ∧ t.pendCommit func = some { groups := gs, snap := m } ∧
        getBit (t.reg ⟨.commitStatus, func, 0⟩) 31 = true) ∧
    (∀ o w, s.pendCommit func = none → s.commitCheck func gs m = none → beatenBy (s.commitOrder func gs m) (some o) = some w →
      ∃ t, exec (.commit func mask (some o)) s = .next t ∧ t.pendCommit func = none ∧
        getBit (t.reg ⟨.commitStatus, func, 0⟩) 31 = false ∧ getF (t.reg ⟨.commitStatus, func, 0⟩) 7 0 = 5 ∧
        getF (t.reg ⟨.commitStatus, func, 0⟩) 23 16 = gs.headD 0xFF % 256 ∧
        t.log = (s.logOrders func (s.commitOrder func gs m) (some o)).log)

/-- Bits 2 and 7 conflict (R412): a set of offered bits that accepts both is refused with KIND 0b10, and FIRST_BAD names bit 7.
Completion, under conditions on the state and the operands alone, is stated for: featuresEvaluate. -/
def Obligations.ConflictingFeaturesAreRefused : Prop :=
  ∀ (s : State) (ws : List Nat), s.host.features = some ws → featureBit ws 2 = true → featureBit ws 7 = true →
    (∀ b, b < 256 → featureBit ws b = true → (offeredFeatures s.part).testBit b = true) →
    ∃ t, exec .featuresEvaluate s = .next t ∧
      getF (t.reg ⟨.featuresCtl, 0, 0⟩) 17 16 = 2 ∧ getF (t.reg ⟨.featuresCtl, 0, 0⟩) 15 8 = 7 ∧
      getBit (t.reg ⟨.featuresCtl, 0, 0⟩) 0 = false ∧ getBit (t.reg ⟨.featuresCtl, 0, 0⟩) 1 = true ∧
      t.featuresConfirmed = false

/-- Negotiation (R411): the write of FEATURES_OK clears DONE and takes the set as it stands; its evaluation confirms a set of
offered bits without a conflict, and DRV_FEATURES then reads that set.
Writes of 1 to clear (Table 11.9, R312, R366, R434, R401): HALTED, DIR, CAUSE and the error address of a DMA channel clear and its
HALT_COUNT stands; ISOLATED of a port clears; a release
of the cap waits for the next window; HALTED of a submission ring clears. The
debug window is closed in the production state, and an access to it is logged (R397).
Completion, under conditions on the state and the operands alone, is stated for: featuresOk, featuresEvaluate,
dmaHaltedClear, isolatedClear, ilunyCapRelease, sqHaltedClear, debugWindowAccess. -/
def Obligations.FeaturesAndLatches : Prop :=
  ((∀ s : State, s.hostLink = true → s.stagedOf 0 = none → s.featuresConfirmed = false →
     ∃ t, exec .featuresOk s = .next t ∧ t.host.features = some s.drvFeatures ∧
       getBit (t.reg ⟨.featuresCtl, 0, 0⟩) 0 = true ∧ getBit (t.reg ⟨.featuresCtl, 0, 0⟩) 1 = false ∧
       (∀ r : Reg, r.key ≠ Reg.key ⟨.featuresCtl, 0, 0⟩ → t.reg r = s.reg r) ∧ t.shadowReg = s.shadowReg) ∧
   (∀ s : State, s.hostLink = true → s.stagedOf 0 = none → s.featuresConfirmed = true →
     exec .featuresOk s = .next (s.logFor 0x0005 0 (funcRequester 0) 0x140)) ∧
   (∀ (s : State) (ws : List Nat), s.host.features = some ws → featureFault s.part ws = none →
     ∃ t, exec .featuresEvaluate s = .next t ∧ t.featuresConfirmed = true ∧ t.host.features = none ∧
       (∀ i, i < 8 → t.reg ⟨.drvFeatures, i, 0⟩ = BitVec.ofNat 64 (ws.getD i 0)) ∧
       t.tensors = s.tensors ∧ t.courses = s.courses)) ∧
  (∀ s : State, s.hostLink = true →
     (∀ (sys : Bool) (unit ch : Nat), s.stagedOf 0 = none →
       ∃ t, exec (.dmaHaltedClear sys unit ch none) s = .next t ∧
         getBit (t.reg (dmaRegs sys unit ch).1) 31 = false ∧ getBit (t.reg (dmaRegs sys unit ch).1) 30 = false ∧
         getF (t.reg (dmaRegs sys unit ch).1) 27 24 = 0 ∧
         getF (t.reg (dmaRegs sys unit ch).1) 15 0 = getF (s.reg (dmaRegs sys unit ch).1) 15 0 ∧
         t.reg (dmaRegs sys unit ch).2 = 0 ∧
         s.onlyRegs t [(dmaRegs sys unit ch).1, (dmaRegs sys unit ch).2]) ∧
     (∀ port, s.stagedOf 0 = none →
       ∃ t, exec (.isolatedClear port) s = .next t ∧ getBit (t.reg ⟨.portStat, port, 0⟩) 31 = false ∧
         (∀ i, i ≠ 31 → getBit (t.reg ⟨.portStat, port, 0⟩) i = getBit (s.reg ⟨.portStat, port, 0⟩) i) ∧
         s.onlyRegs { t with net := s.net } [⟨.portStat, port, 0⟩] ∧ t.net = { s.net with fresh := t.net.fresh } ∧
         (getBit (s.reg ⟨.portStat, port, 0⟩) 31 = true → port ∈ t.net.fresh)) ∧
     (s.stagedOf 0 = none →
       exec .ilunyCapRelease s
         = .next { s with power := { s.power with iluny := { s.power.iluny with release := true } } }) ∧
     (∀ ring, s.stagedOf (s.ringFunc ring) = none →
       ∃ t, exec (.sqHaltedClear ring) s = .next t ∧ t.sq ring = { s.sq ring with halted := false } ∧ s.onlySq t ring) ∧
     (∀ (write : Bool) (off : Nat), s.secure.lifecycle = 2 →
       exec (.debugWindowAccess write off) s = .next (s.logFor 0x0001 0 (funcRequester 0) off)) ∧
     (∀ (write : Bool) (off : Nat), s.secure.lifecycle ≠ 2 → exec (.debugWindowAccess write off) s = .next s))

/-! ## Tensors, courses and queries -/

/-- TENSOR_DEFINE (R33, Table 2.10, R299, R320): the first failing check completes it with DESC_INVALID, the check's code and the
tensor id; a denied view with VIEW_DENIED and its reason; a home that the stacks cannot hold with NOSPACE; each without
another change. Accepted, the tensor exists with its description, every element zero, in the place that was chosen, with the
state of a pending resume record that it matches (R471), and the descriptor completes with OK.
Completion, under conditions on the state and the operands alone, is stated for: tensorDefine. -/
def Obligations.TensorDefineChecksThenReserves : Prop :=
  ∀ (s : State) (ring base id : Nat) (ids : List Nat) (d : Desc) (td : TensorDesc) (view : Option ViewRec),
    s.dueDesc ring 0x02 = some d → s.stacksReady = true → leAt (d.block 0) 0 3 = id →
    parseDesc (d.block 0) (d.field 24 4) = td →
    (if d.field 64 8 = 0 then none else some (parseView (d.block 1))) = view →
    (∀ b code, (s.descChecks d.func (d.block 0) td).find? (fun c => c.1) = some (b, code) →
      exec (.tensorDefine ring ids base) s = .next (s.completeStatus d 0x0002 code id)) ∧
    ((s.descChecks d.func (d.block 0) td).all (fun c => !c.1) = true →
      (∀ v r, view = some v → s.viewDenied d.func td v = some r →
        exec (.tensorDefine ring ids base) s = .next (s.completeStatus d 0x0007 r id)) ∧
      ((∀ v, view = some v → s.viewDenied d.func td v = none) →
        (s.freeBytes < s.homeOf td ids view.isSome →
          exec (.tensorDefine ring ids base) s = .next (s.completeStatus d 0x0005 0 id)) ∧
        (∀ bytes t, s.homeOf td ids view.isSome = bytes → bytes ≤ s.freeBytes →
          newTensor d.func td view (if bytes = 0 then [] else ids) base bytes = t → s.placeOk t = true →
          (bytes = 0 ∨ s.sysChannelsHalted = false) →
          ∃ u : State, u.tensor id = some (match s.pendingRec id td.crc with
              | none => t
              | some r => { t with genNo := r.genNo, scale := r.scale, dry := r.dry, fired := r.fired }) ∧
            (∀ j, j ≠ id → u.tensor j = s.tensor j) ∧ (t.desc.polder = 0 → u.log = s.log) ∧
            u = { s with tensors := u.tensors, stackTab := u.stackTab, log := u.log, logTotal := u.logTotal, free := u.free,
                         regs := { s.regs with active := u.regs.active },
                         resume := { s.resume with pending := u.resume.pending } } ∧
            exec (.tensorDefine ring ids base) s = .next (u.completeStatus d 0x0000))))

/-- TENSOR_RELEASE (R79): of a tensor that a running or held course names it is deferred, writes no record yet, and a course
submitted later that names the tensor, in a stream or in a station's parameters, fails check 0x15; the deferred release takes effect and is recorded once no course
names it; of an id that is not defined for the function it completes with DESC_INVALID, check 0x15, with the id, and
changes no state.
A deferred TENSOR_RELEASE (R79) waits while a course names the tensor or a view of it is defined, then removes the tensor and
completes with OK.
Completion, under conditions on the state and the operands alone, is stated for: tensorRelease, tensorReleaseDeferred. -/
def Obligations.TensorReleaseIsDeferred : Prop :=
  (∀ (s : State) (ring id : Nat) (d : Desc), s.dueDesc ring 0x03 = some d → d.field 16 3 = id →
     (∀ t, s.usable d.func id = some t → s.namedByCourse id = true →
       ∃ u : State, exec (.tensorRelease ring) s = .next u ∧ u.out = s.out ∧ u.cq = s.cq ∧
         u.tensor id = some { t with releasing := some d } ∧ (∀ j, j ≠ id → u.tensor j = s.tensor j) ∧
         (∀ (c : Course) (x : Stream), x ∈ c.streams → x.tensor = id → (u.check15 d.func c).isSome = true) ∧
         (∀ (c : Course) (q : Station), q ∈ c.stations → id ∈ stationNames q → (u.check15 d.func c).isSome = true) ∧
         u = { s with tensors := u.tensors, host := { s.host with inflight := u.host.inflight } }) ∧
     (s.usable d.func id = none →
       exec (.tensorRelease ring) s = .next (s.completeStatus d 0x0002 0x15 id)) ∧
     (∀ t, s.usable d.func id = some t → s.releaseHeld id = false →
       ∃ u : State, u.tensor id = none ∧ (∀ j, j ≠ id → u.tensor j = s.tensor j) ∧
         u = { s with tensors := u.tensors, stackTab := u.stackTab } ∧
         exec (.tensorRelease ring) s = .next (u.completeStatus d 0x0000))) ∧
  (∀ (s : State) (id : Nat) (t : Tensor) (d : Desc), s.tensor id = some t → t.releasing = some d →
     (s.releaseHeld id = true → exec (.tensorReleaseDeferred id) s = .next s) ∧
     (s.releaseHeld id = false →
       ∃ u : State, u.tensor id = none ∧ (∀ j, j ≠ id → u.tensor j = s.tensor j) ∧
         u = { s with tensors := u.tensors, stackTab := u.stackTab } ∧
         exec (.tensorReleaseDeferred id) s = .next (u.completeStatus d 0x0000)))

/-- COURSE_SUBMIT (R80, R130, R306, R84, R406): a refused course leaves one record, with the status, the detail, the id and the
course, and nothing else; an accepted one gets an interim record, written at once where its completion ring takes one, and
stands among the courses, with its stations as submitted, each in its first place: its pinned core, or the first core in service (R82, R83; the model's choice, log entry
105). One that a contradicting order beats completes with SUPERSEDED and the winner's requester id (R416).
COURSE_RELEASE_HELD (R60, R81): a held course takes its contexts if they are free, and starts once nothing holds it, with the epoch
of the course and the generation of the tensor on each stream; a step course of a failed step completes with NOT_PERMITTED
(Table 17.2).
Completion, under conditions on the state and the operands alone, is stated for: courseSubmit, courseReleaseHeld. -/
def Obligations.CoursesAreAcceptedAndStart : Prop :=
  (∀ (s : State) (ring : Nat) (d : Desc), s.dueDesc ring 0x01 = some d →
     (s.countsBad (fitBytes 64 (d.block 0)) = true →
       exec (.courseSubmit { ring := ring }) s
         = .next (s.complete d { d.record 0x0002 0x10 with course := leAt (fitBytes 64 (d.block 0)) 0 4 })) ∧
     (∀ st detail item, s.countsBad (fitBytes 64 (d.block 0)) = false →
       s.refusal d.func (readCourse d) = some (st, detail, item) →
       exec (.courseSubmit { ring := ring }) s = .next (s.complete d { d.record st detail item with course := (readCourse d).course.id })) ∧
     (s.countsBad (fitBytes 64 (d.block 0)) = false → s.refusal d.func (readCourse d) = none →
       ((readCourse d).course.stepMode = true → (s.stepM d.func).state ≠ .failed) →
       ∃ t c, exec (.courseSubmit { ring := ring }) s = .next t ∧ t.course (readCourse d).course.id = some c ∧
         c.stations = (readCourse d).course.stations.map (fun q =>
           { q with place := { q.place with core := q.pin.getD s.firstCore } }) ∧ c.desc = { d with acted := true } ∧
         c.ship = getF (t.reg ⟨.expertCtl, 0, 0⟩) 7 0 ∧ (c.started = true → c.ctx = true) ∧
         (s.ringOpen ring = true → d.forwarded = false → ∃ pre, t.out = s.out ++ pre
           ++ s.recordOuts { d.record 0x0000 with interim := true, course := (readCourse d).course.id }) ∧
         t.tensors = s.tensors ∧ t.stackTab = s.stackTab ∧
         (∀ e, e ∈ s.courses → e ∈ t.courses)) ∧
     (∀ o w v, beatenBy (d.order false (s.localRing d.func ring)) (some o) = some w →
       s.logOrders d.func (d.order false (s.localRing d.func ring)) (some o) = v →
       exec (.courseSubmit { ring := ring, against := some o }) s = .next (v.completeStatus d 0x0004 w))) ∧
  (∀ (s : State) (id : Nat) (c : Course), s.course id = some c → c.started = false →
     ∃ c' u, s.grantCtx c = c' ∧ s.setCourse c' = u ∧
     (u.mayStart c' false = false → u.failsAtOnce c' = false → exec (.courseReleaseHeld id) s = .next u) ∧
     (u.mayStart c' false = true → (c.stepMode = false ∨ (s.stepM c.desc.func).state ≠ .failed) →
       ∃ t e, exec (.courseReleaseHeld id) s = .next t ∧ t.course id = some e ∧ e.started = true ∧
         e.streams = c'.streams.map (fun x =>
           { x with state := .opened, epoch := c.epoch, gen := s.genOf x.tensor }) ∧
         (c.stepMode = true → (t.stepM c.desc.func).state ≠ .idle) ∧
         t = { s with courses := t.courses, steps := t.steps }) ∧
     ((u.mayStart c' false = true ∨ u.failsAtOnce c' = true) → c.stepMode = true → (s.stepM c.desc.func).state = .failed →
       exec (.courseReleaseHeld id) s
         = .next ({ u with courses := u.courses.filter (fun e => e.id ≠ id) }.complete c.desc
             { c.desc.record 0x0003 with course := id })))

/-- QUERY (R410, R457): the structure of each kind goes to the buffer, all of it or as many bytes as fit, rounded down to 64, and the
record carries its full size.
PLACEMENT_REPORT (R86): of a running or held course of the function it waits for the course's next tile boundary; the snapshot
at a boundary of one of its stations writes the report that waits, its length within the buffer and its full size in the record. A VF's that names another function's course
completes with NOT_PERMITTED (R392), and one of no course with its id and a free STATUS (log entry 26).
Completion, under conditions on the state and the operands alone, is stated for: queryIdentity, queryCapacity,
queryErrorLog, placementReport, placementSnapshot. -/
def Obligations.QueriesAndReportsAnswer : Prop :=
  (∀ (s : State) (ring : Nat) (d : Desc), s.dueDesc ring 0x09 = some d →
     (∀ whole part : List Byte,
       part = (if whole.length ≤ d.field 32 4 then whole else whole.take (d.field 32 4 / 64 * 64)) →
       (whole = s.identity → d.field 16 1 = 0 →
         exec (.queryIdentity ring) s
           = .next ((s.emit (.hostWrite d.func (d.field 24 8) part)).completeStatus d 0x0000 whole.length)) ∧
       (whole = s.capacity d.func → d.field 16 1 = 1 →
         exec (.queryCapacity ring) s
           = .next ((s.emit (.hostWrite d.func (d.field 24 8) part)).completeStatus d 0x0000 whole.length)) ∧
       (whole = s.errorLog d.func → d.field 16 1 = 2 →
         exec (.queryErrorLog ring) s
           = .next ((s.emit (.hostWrite d.func (d.field 24 8) part)).completeStatus d 0x0000 whole.length))) ∧
     s.identity.length = 64 ∧ (s.capacity d.func).length = 64 ∧
     (s.errorLog d.func).length = 64 + 32 * (s.logOf d.func).length) ∧
  ((∀ (s : State) (ring id : Nat) (d : Desc), s.dueDesc ring 0x0A = some d → d.field 16 4 = id →
     (∀ c, s.course id = some c → d.func = 0 ∨ d.func = c.desc.func →
       ∃ t, exec (.placementReport ring) s = .next t ∧
         t.course id = some { c with reports := c.reports ++ [d] } ∧
         t = { s with courses := t.courses, host := { s.host with inflight := t.host.inflight } } ∧
         t.host.inflight.map (·.seq) = s.host.inflight.map (·.seq)) ∧
     (∀ c, s.course id = some c → d.func ≠ 0 → d.func ≠ c.desc.func →
       exec (.placementReport ring) s = .next (s.complete d { d.record 0x0003 with course := id })) ∧
     (s.course id = none →
       ∃ st, exec (.placementReport ring) s
         = .next ({ s with free := s.free + 1 }.complete d { d.record st with course := id }))) ∧
   (∀ (s : State) (id station : Nat) (c : Course) (st : Station) (d : Desc), s.course id = some c → c.started = true →
     c.station station = some st → s.atBoundary c st = true → c.reports = [d] → 64 ≤ d.field 32 4 →
     ∃ t u bytes, exec (.placementSnapshot id station) s = .next t ∧ u = s.setCourse { c with reports := [] } ∧
       t = (u.emit (.hostWrite d.func (d.field 24 8) bytes)).complete d
         { d.record 0x0000 (64 + 16 * (c.stations.length + c.names.length + c.warnings.length)) with course := id } ∧
       bytes.length ≤ d.field 32 4 ∧ leAt bytes 0 4 = id % 2 ^ 32))

/-! ## Steps and configuration -/

/-- STEP_COMMIT (R446 to R448, Table 17.2): of a step that is not open, or FAILED, it completes with NOT_PERMITTED; it is held while an
earlier step course of the step has not completed. Of a COMPLETE step, outside mirror mode, every map, generation number and scale record of the
function's tensors turn together; of a VETOED one what the step wrote is discarded and only the scale records turn. Both
record LAST_COMMIT and return the machine to IDLE, and leave every other function's tensors and step alone.
Completion, under conditions on the state and the operands alone, is stated for: stepCommit. -/
def Obligations.StepCommitTurnsGenerations : Prop :=
  ∀ (s : State) (ring step f : Nat) (d : Desc) (peer : PairDigests), s.dueDesc ring 0x04 = some d → d.field 16 8 = step →
    d.func = f → FMap.wf (fun _ => (none : Option Tensor)) s.tensors = true →
    ((s.stepIs f step = false ∨ (s.stepM f).state = .failed) →
      exec (.stepCommit ring none peer) s = .next (s.completeStatus d 0x0003)) ∧
    (s.stepIs f step = true → (s.stepM f).state ≠ .failed → s.stepWaits d step = true →
      exec (.stepCommit ring none peer) s = .next s) ∧
    (s.stepIs f step = true → s.stepWaits d step = false → s.mirror = false → (s.stepM f).state = .complete →
      ∃ t, exec (.stepCommit ring none peer) s = .next t ∧ (t.stepM f).state = .idle ∧ (t.stepM f).lastValid = true ∧
        (t.stepM f).lastStep = step ∧ (t.stepM f).lastSeed = (s.stepM f).seed ∧ step ∈ (t.stepM f).past ∧
        (∀ g, g ≠ f → t.stepM g = s.stepM g) ∧ t.courses = s.courses ∧ t.stackTab = s.stackTab ∧
        (∀ id x, s.tensor id = some x → x.func ≠ f → t.tensor id = some x) ∧
        (∀ id x, s.tensor id = some x → x.func = f →
          ∃ y : Tensor, t.tensor id = some y ∧ y.written = [] ∧ y.scale = x.scaleNext.getD x.scale ∧ y.scaleNext = none ∧
            y.half0 = x.half0 ∧ y.half1 = x.half1 ∧
            (x.desc.sparse = true → y.building = false ∧ y.flag = (x.flag ^^ x.building)) ∧
            (x.desc.sparse = false → ∀ k, FMap.get (fun _ => false) y.map k
              = (FMap.get (fun _ => false) x.map k ^^ x.isWritten k)) ∧
            y.genNo = if (if x.desc.sparse then x.building else !x.written.isEmpty) then (x.genNo + 1) % 2 ^ 64
              else x.genNo)) ∧
    (s.stepIs f step = true → s.stepWaits d step = false → (s.stepM f).state = .vetoed →
      ∃ t, exec (.stepCommit ring none peer) s = .next t ∧ (t.stepM f).state = .idle ∧ (t.stepM f).lastValid = true ∧
        (t.stepM f).lastStep = step ∧ (t.stepM f).lastSeed = (s.stepM f).seed ∧ step ∈ (t.stepM f).past ∧
        (∀ g, g ≠ f → t.stepM g = s.stepM g) ∧
        (∀ id x, s.tensor id = some x → x.func ≠ f → t.tensor id = some x) ∧
        (∀ id x, s.tensor id = some x → x.func = f →
          ∃ y : Tensor, t.tensor id = some y ∧ y.written = [] ∧ y.building = false ∧ y.scale = x.scaleNext.getD x.scale ∧
            y.map = x.map ∧ y.flag = x.flag ∧ y.genNo = x.genNo ∧ y.dry = x.dry))

/-- STEP_ABORT (R446, R451): of a step that is not open it completes OK and changes nothing more; of the open step it discards what
the step wrote, with the scale records of the generation written, and returns the machine to IDLE without a commit.
COURSE_COMPLETE (R406, R63, R360): a course that was cancelled or halted leaves once its tasks in flight have come
to their tile boundaries; a plain course whose stations have all closed completes; a step
course of a mesh of one completes too, and with it, as the last of its step, the step turns COMPLETE (Table 17.2). The course
has left the courses and its descriptor has left flight.
Completion, under conditions on the state and the operands alone, is stated for: stepAbort, courseComplete. -/
def Obligations.AbortsDiscardAndCoursesComplete : Prop :=
  (∀ (s : State) (ring step f : Nat) (d : Desc), s.dueDesc ring 0x05 = some d → d.field 16 8 = step → d.func = f →
     (s.stepIs f step = false → exec (.stepAbort ring none) s = .next (s.completeStatus d 0x0000)) ∧
     (s.stepIs f step = true → ∃ t, exec (.stepAbort ring none) s = .next t ∧ (t.stepM f).state = .idle ∧
       step ∈ (t.stepM f).past ∧ ∀ id y, t.tensor id = some y → y.func = f →
         y.written = [] ∧ y.building = false ∧ y.scaleNext = none) ∧
     (s.stepIs f step = true → s.stepWaits d step = false →
       ∃ u : State, (u.stepM f).state = .idle ∧ (u.stepM f).lastValid = (s.stepM f).lastValid ∧
         (u.stepM f).lastStep = (s.stepM f).lastStep ∧ (∀ g, g ≠ f → u.stepM g = s.stepM g) ∧
         (∀ id x, s.tensor id = some x → x.func ≠ f → u.tensor id = some x) ∧
         (∀ id x, s.tensor id = some x → x.func = f →
           ∃ y : Tensor, u.tensor id = some y ∧ y.written = [] ∧ y.building = false ∧ y.scale = x.scale ∧ y.map = x.map ∧
             y.flag = x.flag ∧ y.genNo = x.genNo) ∧
         u = { s with tensors := u.tensors, steps := u.steps, copies := u.copies } ∧
         exec (.stepAbort ring none) s = .next (u.completeStatus d 0x0000))) ∧
  (∀ (s u : State) (id : Nat) (c : Course), s.closeUp id = u → u.course id = some c → c.started = true → u.issuing = true →
     ((c.cancelled.isSome = true ∨ c.halt.isSome = true) → u.tasksEnd c = true →
       ∃ t, exec (.courseComplete id) s = .next t ∧ t.course id = none ∧ ∀ e ∈ t.host.inflight, e.seq ≠ c.desc.seq) ∧
     ((c.cancelled.isSome = true ∨ c.halt.isSome = true) → u.tasksEnd c = false → exec (.courseComplete id) s = .next u) ∧
     (c.cancelled = none → c.halt = none → c.allClosed = false → exec (.courseComplete id) s = .next u) ∧
     (c.cancelled = none → c.halt = none → c.allClosed = true → c.joined = false →
       (∀ n ∈ c.writes, ∀ x, u.tensor n = some x → x.desc.sparse = false) →
       (c.stepMode = false →
         ∃ t, exec (.courseComplete id) s = .next t ∧ t.course id = none ∧ (∀ e ∈ t.host.inflight, e.seq ≠ c.desc.seq) ∧
           t.steps = s.steps ∧ ∀ n, n ≠ id → t.course n = s.course n) ∧
       (c.stepMode = true → u.peers = [] → c.veto = false → (u.stepM c.desc.func).state = .opened →
         (u.stepM c.desc.func).step = c.step → (u.stepM c.desc.func).vetoed = false →
         (∀ e ∈ u.courses, e.stepMode = true → e.desc.func = c.desc.func → e.step = c.step → e.id = id) →
         ∃ t, exec (.courseComplete id) s = .next t ∧ t.course id = none ∧ (∀ e ∈ t.host.inflight, e.seq ≠ c.desc.seq) ∧
           (t.stepM c.desc.func).state = .complete ∧ (∃ e ∈ t.copies, e.id = id) ∧
           ∀ g, g ≠ c.desc.func → t.stepM g = s.stepM g)))

/-- STEP_TIMEOUT (R361, R362), of a course that awaits a contribution of another device: a plain course stops with TIMEOUT and the wait is logged, and nothing is repeated; a step course below
attempt 3 runs again from its start at the next attempt, which REPEATS counts; in attempt 3 it ends with TIMEOUT.
Step rounds (R360 to R362, R417): STEP_DONE is kept by its sender; REPEAT of a newer attempt of the open step reruns its course
from the start at that attempt, with no probe value left of it and, unless its mask stations rewrote blocks, with the
tensors as they stand, and one that a contradicting order beats is logged with that order and reruns nothing;
GIVE_UP ends the course, running or completed in the open step.
Completion, under conditions on the state and the operands alone, is stated for: stepTimeout, netStepDone, netRepeat,
netGiveUp. -/
def Obligations.TimeoutsAndRoundsRepeatSteps : Prop :=
  (∀ (s : State) (id : Nat) (c : Course), s.course id = some c → c.active = true → s.issuing = true →
     (s.awaits c = false → exec (.stepTimeout id) s = .next s) ∧
     (s.awaits c = true → c.stepMode = false →
       exec (.stepTimeout id) s
         = .next ((s.logFor 0x0045 c.desc.func id 0).setCourse { c with halt := some { status := 0x0017 } })) ∧
     (s.awaits c = true → c.stepMode = true → c.attempt < 3 →
       ∃ t e, exec (.stepTimeout id) s = .next t ∧ t.course id = some e ∧ e.attempt = c.attempt + 1 ∧ e.started = true ∧
         e.halt = none ∧ (∀ st ∈ e.stations, st.done = [] ∧ st.closed = false) ∧
         (∀ x ∈ e.streams, x.state = .opened ∧ x.tiles = [] ∧ x.waiting = []) ∧ (t.stepM c.desc.func).state = .repeating ∧
         (t.stepM c.desc.func).attempt = c.attempt + 1 ∧
         t.regF .netXstat 0 31 16 = min 65535 (s.regF .netXstat 0 31 16 + 1) ∧
         (∀ j x, FMap.get (fun _ => none) t.journal j = some x → x.course ≠ id)) ∧
     (s.awaits c = true → c.stepMode = true → 3 ≤ c.attempt →
       ∃ t, exec (.stepTimeout id) s = .next t ∧ t.course id = none ∧ ∀ e ∈ t.host.inflight, e.seq ≠ c.desc.seq)) ∧
  ((∀ (s : State) (port peer : Nat) (h : DnHdr) (m : StepRound) (quiet : Bool), s.passes port peer h (.stepDone m) = true →
     s.inTurn peer h = true →
     ∃ t, exec (.netStepDone port peer h m quiet) s = .next t ∧ s.advanced t peer ∧ (peer, m) ∈ t.net.rounds ∧
       (∀ r ∈ s.net.rounds, r.1 ≠ peer → r ∈ t.net.rounds) ∧ s.wire t { s.net with rounds := t.net.rounds }) ∧
   (∀ (s : State) (port peer : Nat) (h : DnHdr) (n : StepName) (quiet : Bool) (c : Course),
     s.passes port peer h (.repeatStep n) = true → s.inTurn peer h = true → s.stepIs n.func n.step = true →
     (s.stepM n.func).state ≠ .failed → s.stepCourse n = some c → c.attempt < n.attempt → n.attempt ≤ 3 →
     ∃ t e, exec (.netRepeat port peer h n quiet none) s = .next t ∧ s.advanced t peer ∧ t.course n.course = some e ∧
       e.attempt = n.attempt ∧ e.started = true ∧ e.halt = none ∧ (∀ st ∈ e.stations, st.done = [] ∧ st.closed = false) ∧
       (t.stepM n.func).state = .repeating ∧ (t.stepM n.func).attempt = n.attempt ∧
       (c.undo = [] → ∀ id, (t.tensor id).map (fun x => { x with weir := {} }) = (s.tensor id).map (fun x => { x with weir := {} })) ∧
       (∀ id y, t.tensor id = some y → y.weir.probeBy = n.course → y.weir.probe = none)) ∧
   (∀ (s : State) (port peer : Nat) (h : DnHdr) (n : StepName) (quiet : Bool) (o : Order) (w : Nat),
     s.passes port peer h .frag = true → s.inTurn peer h = true → beatenBy (peerOrder false peer) (some o) = some w →
     ∃ t, exec (.netRepeat port peer h n quiet (some o)) s = .next t ∧ s.advanced t peer ∧ t.courses = s.courses ∧
       t.steps = s.steps ∧ t.logTotal = s.logTotal + 2) ∧
   (∀ (s : State) (port peer : Nat) (h : DnHdr) (n : StepName) (quiet : Bool) (c : Course),
     s.passes port peer h (.giveUp n) = true → s.inTurn peer h = true → s.stepIs n.func n.step = true →
     (s.stepM n.func).state ≠ .failed → s.stepCourse n = some c →
     ∃ t, exec (.netGiveUp port peer h n quiet) s = .next t ∧ t.course n.course = none ∧
       ∀ e ∈ t.host.inflight, e.seq ≠ c.desc.seq))

/-- CONFIG_APPLY (R408): the first failing item refuses the whole list, which then changes nothing, with its index and reason in
DETAIL. Each kind of item, alone in an accepted list: MESH sets the mesh and leaves no session open (R341), MACSEC_SA
installs or removes its association (R339), ROCE_QP binds or unbinds its queue pair (R348), CANCEL_BATCH advances the
epoch of its course, which stops (R386).
Completion, under conditions on the state and the operands alone, is stated for: mesh, macsecSa, roceQp, cancelBatch. -/
def Obligations.ConfigItemsTakeEffect : Prop :=
  ∀ (s : State) (ring : Nat) (d : Desc), s.dueDesc ring 0x07 = some d →
    (∀ i st r, s.itemsCheck d.func 0 d.items = some (i, st, r) →
      (d.forKind 0x0001 = true → exec (.mesh ring) s = .next (s.completeStatus d st (i * 256 + r))) ∧
      (d.forKind 0x0002 = true → exec (.macsecSa ring) s = .next (s.completeStatus d st (i * 256 + r))) ∧
      (d.forKind 0x0003 = true → exec (.roceQp ring) s = .next (s.completeStatus d st (i * 256 + r))) ∧
      (d.forKind 0x0004 = true → exec (.cancelBatch ring none) s = .next (s.completeStatus d st (i * 256 + r))) ∧
      (d.forKind 0x0010 = true → exec (.polderCreate ring) s = .next (s.completeStatus d st (i * 256 + r))) ∧
      (d.forKind 0x0011 = true → exec (.polderDestroy ring) s = .next (s.completeStatus d st (i * 256 + r)))) ∧
    (∀ it, d.items = [it] → s.itemCheck d.func it = none →
      (it.kind = 0x0001 →
        ∃ u : State, u.mesh = some (parseMesh it.body) ∧ u.tensors = s.tensors ∧ u.courses = s.courses ∧ u.regs.shadow = s.regs.shadow ∧
          (∀ q ∈ u.net.sessions, q.2.isOpen = false) ∧ exec (.mesh ring) s = .next (u.completeStatus d 0x0000)) ∧
      (it.kind = 0x0002 →
        ∃ u : State, u = { s with net := { s.net with sas := u.net.sas } } ∧
          (∀ x, ¬ (parseSa it.body).samePlace x → (x ∈ u.net.sas ↔ x ∈ s.net.sas)) ∧
          ((parseSa it.body) ∈ u.net.sas ↔ (leAt it.body 2 1).testBit 1 = true) ∧
          exec (.macsecSa ring) s = .next (u.completeStatus d 0x0000)) ∧
      (it.kind = 0x0003 →
        ∃ u : State, u = { s with net := { s.net with qps := u.net.qps } } ∧
          (∀ x : RoceQp, x.qp ≠ (parseQp it.body).qp → (x ∈ u.net.qps ↔ x ∈ s.net.qps)) ∧
          ((parseQp it.body) ∈ u.net.qps ↔ (leAt it.body 2 1).testBit 0 = true) ∧
          exec (.roceQp ring) s = .next (u.completeStatus d 0x0000)) ∧
      (∀ c, it.kind = 0x0004 → s.runningCourse (leAt it.body 0 4) = some c →
        ∃ (u : State) (e : Course), u.course c.id = some e ∧ e.cancelled = some ((c.epoch + 1) % 2 ^ 16) ∧ e.epoch = (c.epoch + 1) % 2 ^ 16 ∧
          (∀ x ∈ e.streams, x.epoch = (c.epoch + 1) % 2 ^ 16) ∧ u.tensors = s.tensors ∧
          exec (.cancelBatch ring none) s = .next (u.completeStatus d 0x0000)))

/-- POLDER_CREATE and POLDER_DESTROY (R474, R476): the created polder exists with the next create count, its key stands in its slot of
every stack, and POLDER_FUNCS is bit 0; the destroyed one is gone, its key slots empty and its POLDER_FUNCS 0.
Completion, under conditions on the state and the operands alone, is stated for: polderCreate, polderDestroy. -/
def Obligations.PoldersComeAndGo : Prop :=
  ∀ (s : State) (ring p : Nat) (d : Desc) (it : Item), s.dueDesc ring 0x07 = some d → d.items = [it] →
    s.itemCheck d.func it = none → leAt it.body 0 1 = p →
    (it.kind = 0x0010 →
      ∃ (u : State) (q : Polder), u.polder p = some q ∧ q.body = it.body ∧ q.count = s.secure.creates + 1 ∧ u.secure.creates = s.secure.creates + 1 ∧
        (∀ j, j ≠ p → u.polder j = s.polder j) ∧
        (∀ n, n < s.part.stackCount → FMap.get (fun _ => []) (u.stack n).keys p = fitBytes 64 (Config.polderKey q.count) ∧
          ∀ j, j ≠ p → FMap.get (fun _ => []) (u.stack n).keys j = FMap.get (fun _ => []) (s.stack n).keys j) ∧
        u.reg ⟨.polderFuncs, p, 0⟩ = 1 ∧ u.shadowReg ⟨.polderFuncs, p, 0⟩ = 1 ∧
        getBit (u.reg ⟨.polderStat, p, 0⟩) 31 = true ∧ u.tensors = s.tensors ∧ u.courses = s.courses ∧
        exec (.polderCreate ring) s = .next (u.completeStatus d 0x0000)) ∧
    (it.kind = 0x0011 → s.polderExists p = true →
      ∃ u : State, u.polder p = none ∧ (∀ j, j ≠ p → u.polder j = s.polder j) ∧ u.secure.creates = s.secure.creates ∧
        (∀ n, n < s.part.stackCount → FMap.get (fun _ => []) (u.stack n).keys p = []) ∧
        u.reg ⟨.polderFuncs, p, 0⟩ = 0 ∧ u.shadowReg ⟨.polderFuncs, p, 0⟩ = 0 ∧ u.reg ⟨.polderStat, p, 0⟩ = 0 ∧
        (∀ n, n < s.part.cores → (u.core n).allot ≠ p) ∧
        exec (.polderDestroy ring) s = .next (u.completeStatus d 0x0000))

/-! ## Stacks -/

/-- Start-up of a stack (R318, R320): training sets the bin reached, and one that failed at bin C retires its stack, logged; zeroing
leaves every line zero data with valid check bytes and the poison directory empty.
Temperatures of a stack (R321, R426): a reading is shown in STACK_STAT with the refresh multiple and sets the rate that its
temperature allows; after the fourth missing one in a row the stack counts as at its limit, and that is logged.
Completion, under conditions on the state and the operands alone, is stated for: stackTrainingDone, stackZeroingDone,
stackTempRead, stackTempMissing. -/
def Obligations.StacksTrainZeroAndRefresh : Prop :=
  (∀ (s : State) (n : Nat), n < s.part.stackCount →
     (∀ bin, (s.stack n).trained = false → bin < 3 →
       ∃ t, exec (.stackTrainingDone n bin) s = .next t ∧ t.stack n = { s.stack n with trained := true } ∧
         t.regF .stackStat n 30 29 = bin ∧ t.stackRetired n = s.stackRetired n ∧ t.log = s.log ∧
         (∀ r : Reg, r.key ≠ Reg.key ⟨.stackStat, n, 0⟩ → t.reg r = s.reg r) ∧
         (∀ m, m ≠ n → t.stack m = s.stack m)) ∧
     ((s.stack n).trained = false →
       ∃ t u : State, exec (.stackTrainingDone n 3) s = .next t ∧ t = u.logEntry 0x0026 (n / 8) n deviceWide n 0 ∧
         u.stack n = { s.stack n with trained := true } ∧ u.regF .stackStat n 30 29 = 3 ∧ u.stackRetired n = true ∧
         (∀ m, m ≠ n → u.stack m = s.stack m)) ∧
     (s.stackRetired n = false → (s.stack n).trained = true → (s.stack n).zeroed = false →
       ∃ t, exec (.stackZeroingDone n) s = .next t ∧ (t.stack n).zeroed = true ∧
         (∀ l, (t.stack n).line l = {}) ∧ (t.stack n).dir = [] ∧ (t.stack n).heals = [] ∧
         (t.stack n).keys = (s.stack n).keys ∧ (∀ m, m ≠ n → t.stack m = s.stack m) ∧
         t = { s with stackTab := t.stackTab })) ∧
  (∀ (s : State) (n : Nat), s.stackOn n = true →
     (∀ temp mult, mult ≤ 2 →
       ∃ t, exec (.stackTempRead n temp mult) s = .next t ∧ t.regF .stackStat n 23 16 = min 255 temp ∧
         t.regF .stackStat n 15 14 = mult ∧
         t.stack n = { s.stack n with
           missing := 0
           rate := if s.stackLimit + 10 ≤ temp then 4 else if s.stackLimit ≤ temp then 2 else 1 } ∧
         (∀ r : Reg, r.key ≠ Reg.key ⟨.stackStat, n, 0⟩ → t.reg r = s.reg r) ∧
         (∀ m, m ≠ n → t.stack m = s.stack m) ∧
         t = { s with stackTab := t.stackTab, regs := { s.regs with active := t.regs.active } }) ∧
     ((s.stack n).missing < 3 →
       ∃ t, exec (.stackTempMissing n) s = .next t ∧ t.stack n = { s.stack n with missing := (s.stack n).missing + 1 } ∧
         (∀ m, m ≠ n → t.stack m = s.stack m) ∧ t = { s with stackTab := t.stackTab }) ∧
     ((s.stack n).missing = 3 →
       ∃ t u : State, exec (.stackTempMissing n) s = .next t ∧ t = u.logEntry 0x0050 (n / 8) n deviceWide n 1 ∧
         u.stack n = { s.stack n with missing := 4, rate := 2 } ∧ (∀ m, m ≠ n → u.stack m = s.stack m) ∧
         u = { s with stackTab := u.stackTab }))

/-- A line that a client writes (R319, R325, R326): fresh data is stored, encrypted for a polder, with valid check bytes, leaves the
poison directory and drops a queued heal write of the line; with the poison mark the check bytes are inverted and the line
enters the directory while there is room. No other line of any stack changes.
Heal writes and the patrol scrub (R327, R328): the oldest heal write rewrites its line unless the line is listed as poisoned; a
scrub read of a line that decodes clean only moves on to the next line and, at the end of a pass, takes the stack's own
counter into ODECC; a corrected line is rewritten corrected.
Completion, under conditions on the state and the operands alone, is stated for: stackWrite, healWrite, scrubRead. -/
def Obligations.StackLinesAreWrittenAndHealed : Prop :=
  (∀ (s : State) (n l : Nat) (data : List Byte), s.lineOk n l = true → s.lineKey n l ≠ some none →
     ∃ bytes, bytes = cipher true ((s.lineKey n l).getD none) n l (fitBytes 64 data) ∧
     (∃ t, exec (.stackWrite n l data false) s = .next t ∧ (t.stack n).line l = goodLine bytes ∧
       (t.stack n).dir.contains l = false ∧ (t.stack n).heals.all (fun h => h.1 ≠ l) = true ∧
       (∀ k, k ≠ l → (t.stack n).line k = (s.stack n).line k) ∧ (∀ m, m ≠ n → t.stack m = s.stack m) ∧
       t = { s with stackTab := t.stackTab, tensors := t.tensors }) ∧
     (∃ t, exec (.stackWrite n l data true) s = .next t ∧ (t.stack n).line l = markedLine bytes ∧
       ((s.stack n).dir.length < 4096 → (t.stack n).dir.contains l = true) ∧
       (∀ k, k ≠ l → (t.stack n).line k = (s.stack n).line k) ∧ (∀ m, m ≠ n → t.stack m = s.stack m) ∧
       t.courses = s.courses ∧ t.steps = s.steps ∧ t.regs.shadow = s.regs.shadow)) ∧
  ((∀ (s : State) (n l : Nat) (w : Line) (rest : List (Nat × Line)), (s.stack n).heals = (l, w) :: rest →
     ∃ t, exec (.healWrite n) s = .next t ∧ (t.stack n).heals = rest ∧
       (t.stack n).line l
         = (if s.stackOn n = true ∧ (s.stack n).dir.contains l = false then w else (s.stack n).line l) ∧
       (∀ k, k ≠ l → (t.stack n).line k = (s.stack n).line k) ∧ (∀ m, m ≠ n → t.stack m = s.stack m) ∧
       t = { s with stackTab := t.stackTab }) ∧
   (∀ (s : State) (n l odecc : Nat), (s.stack n).scrub = l → s.lineOk n l = true → s.regF .stackCtl n 7 0 ≠ 0 →
     s.scrubChannel n = true →
     (s.stack n).dir.contains l = false →
     (decodeLine (s.eccMode n) ((s.stack n).line l) = .clean →
       ∃ t, exec (.scrubRead n [] odecc) s = .next t ∧
         t.stack n = { s.stack n with scrub := (l + 1) % stackLines } ∧ (∀ m, m ≠ n → t.stack m = s.stack m) ∧
         t.regF .memErr n 15 0 = (if l + 1 = stackLines then min 65535 odecc else s.regF .memErr n 15 0) ∧
         t.log = s.log ∧ t.tensors = s.tensors) ∧
     (∀ w k, decodeLine (s.eccMode n) ((s.stack n).line l) = .corrected w k →
       ∃ t, exec (.scrubRead n [] odecc) s = .next t ∧ (t.stack n).line l = w ∧
         (∀ j, j ≠ l → (t.stack n).line j = (s.stack n).line j) ∧ (t.stack n).scrub = (l + 1) % stackLines ∧
         (∀ m, m ≠ n → t.stack m = s.stack m))))

/-- A line read (R324): a listed line is delivered poisoned and counted in POISON_READS, whatever its bytes; a codeword is delivered as
read; the mark is delivered poisoned; a corrected line is delivered corrected and counted in CE, with a heal write queued
from the third byte on, and what stands in the stack stays as it is; any other is delivered poisoned, counted in UE, and its
address latched; both are logged.
Completion, under conditions on the state and the operands alone, is stated for: stackReadReturn. -/
def Obligations.StackReadFollowsTheOrder : Prop :=
  ∀ (s : State) (n l : Nat), s.lineOk n l = true → s.lineKey n l ≠ some none →
    ∃ t, exec (.stackReadReturn n l [] none) s = .next t ∧ (t.stack n).line l = (s.stack n).line l ∧
      (∀ m, m ≠ n → t.stack m = s.stack m) ∧
      ((s.stack n).dir.contains l = true →
        (t.stack n).delivered
          = some (cipher false ((s.lineKey n l).getD none) n l (s.dataOf n l ((s.stack n).line l)), true) ∧
        t.regF .memErr n 31 16 = min 65535 (s.regF .memErr n 31 16 + 1)) ∧
      ((s.stack n).dir.contains l = false →
        (decodeLine (s.eccMode n) ((s.stack n).line l) = .clean →
          (t.stack n).delivered
            = some (cipher false ((s.lineKey n l).getD none) n l (s.dataOf n l ((s.stack n).line l)), false) ∧
          t.regs = s.regs ∧ t.log = s.log) ∧
        (decodeLine (s.eccMode n) ((s.stack n).line l) = .mark →
          (∃ b, (t.stack n).delivered = some (b, true)) ∧
          t.regF .memErr n 31 16 = min 65535 (s.regF .memErr n 31 16 + 1) ∧ t.log = s.log) ∧
        (∀ w k, decodeLine (s.eccMode n) ((s.stack n).line l) = .corrected w k →
          (t.stack n).delivered = some (cipher false ((s.lineKey n l).getD none) n l (s.dataOf n l w), false) ∧
          t.regF .memErr n 63 48 = min 65535 (s.regF .memErr n 63 48 + 1) ∧ t.logTotal = s.logTotal + 1 ∧
          (3 ≤ k → (l, w) ∈ (t.stack n).heals) ∧ (k < 3 → (t.stack n).heals = (s.stack n).heals)) ∧
        (decodeLine (s.eccMode n) ((s.stack n).line l) = .bad →
          (∃ b, (t.stack n).delivered = some (b, true)) ∧
          t.regF .memErr n 47 32 = min 65535 (s.regF .memErr n 47 32 + 1) ∧ t.logTotal = s.logTotal + 1 ∧
          (getBit (s.reg ⟨.memUeAddr, n, 0⟩) 63 = false →
            getBit (t.reg ⟨.memUeAddr, n, 0⟩) 63 = true ∧ getF (t.reg ⟨.memUeAddr, n, 0⟩) 35 0 = 64 * l % 2 ^ 36)))

/-! ## The levee -/

/-- The window of the levee (R422, R425, R430, Table 16.6): DIE_TEMP shows the readings; k stands between 0.75 and 1.50 and LEVEE_STAT
shows it with the measured energy; each core with a reading takes the class and cap of its temperature; each core's account
closes.
The shares of the allowance (R430): with some projection that is not 0, the allowances of a window add up to no more than A.
Voltages (R427 to R429): the voltage of every step supports the step; an acknowledged voltage stands, and the cores of the die that
waited for it take their step, and no other; after a failed raise none is requested for 100 windows and the die's cores
keep steps that its voltage supports, and the third fault in a row locks the rail.
Completion, under conditions on the state and the operands alone, is stated for: leveeWindow, voltageAck, railFault. -/
def Obligations.TheLeveeBudgetsCoresAndVoltages : Prop :=
  (∀ (s : State) (core ncore : Nat) (temps : List (Nat × Nat)), s.hostLink = true →
     ∃ t, exec (.leveeWindow (some (core, ncore)) temps []) s = .next t ∧
       (∀ d, d < s.part.dies → t.reg ⟨.dieTemp, d, 0⟩ = BitVec.ofNat 64 (dieTempWord temps d)) ∧
       96 ≤ t.power.levee.calib ∧ t.power.levee.calib ≤ 192 ∧ t.power.levee.nonCore = ncore ∧
       t.power.levee.missing = false ∧ t.regF .leveeStat 0 39 32 = t.power.levee.calib ∧
       t.regF .leveeStat 0 31 0 = min (2 ^ 32 - 1) (core + ncore) ∧
       (∀ c, c < s.part.cores → s.coreRetired c = false →
         (t.core c).last = (s.core c).charged ∧ (t.core c).energy = [] ∧
         ∀ x, readingOf temps (coreSensor c) = some x →
           (t.core c).thermal = ((s.core c).classed x t.throttleC t.holdC).thermal ∧
           (t.core c).cap = ((s.core c).classed x t.throttleC t.holdC).cap) ∧
       t.steps = s.steps ∧ t.journal = s.journal ∧
       ((∀ c ∈ s.courses, ∀ x ∈ c.streams, x.queued = false) → t.tensors = s.tensors ∧ t.stackTab = s.stackTab)) ∧
  (∀ (s : State) (projs : List (Nat × Nat)) (a : Nat), (projs.map (fun q => q.1)).Nodup →
     (projs.map (fun q => q.2)).foldl (· + ·) 0 ≠ 0 →
     ((projs.map (fun q => ((s.setAllowances projs a).core q.1).allow)).foldl (· + ·) 0 ≤ a) ∧
     (∀ q ∈ projs, ((s.setAllowances projs a).core q.1).allow
       = a * q.2 / (projs.map (fun q => q.2)).foldl (· + ·) 0)) ∧
  ((∀ n, n ≤ topStep → n ≤ stepAt (stepMv n) ∧ stepMv (stepAt (stepMv n)) ≤ stepMv n) ∧
   (∀ (s : State) (die mv : Nat), (s.rail die).request = some mv → s.power.phase = .run →
     ∃ t, exec (.voltageAck die mv) s = .next t ∧
       t.rail die = { s.rail die with mv := mv, request := none, low := none, faults := 0 } ∧
       (∀ d, d ≠ die → t.rail d = s.rail d) ∧
       (∀ c, c / coresPerDie ≠ die → t.core c = s.core c) ∧
       (∀ c w, c / coresPerDie = die → (s.core c).wanted = some w → stepMv w ≤ mv →
         t.core c = { s.core c with step := w, wanted := none }) ∧
       (∀ c, (s.core c).wanted = none → t.core c = s.core c) ∧
       t = { s with cores := t.cores, power := { s.power with
         levee := { s.power.levee with rails := t.power.levee.rails }
         iluny := { s.power.iluny with railTries := t.power.iluny.railTries } } }) ∧
   (∀ (s : State) (die mv : Nat), (s.rail die).request = some mv → s.power.phase = .run → s.power.exiting = none →
     ∃ t, exec (.railFault die) s = .next t ∧ (t.rail die).request = none ∧ (t.rail die).mv = (s.rail die).mv ∧
       (t.rail die).faults = (s.rail die).faults + 1 ∧
       (2 ≤ (s.rail die).faults → (t.rail die).locked = true) ∧
       ((s.rail die).sure < mv → (t.rail die).noRaise = 100 ∧
         ∀ c, c / coresPerDie = die →
           (t.core c).wanted = none ∧ (t.core c).step = min (s.core c).step (stepAt (s.rail die).sure)) ∧
       (mv ≤ (s.rail die).sure → t.cores = s.cores) ∧ (∀ d, d ≠ die → t.rail d = s.rail d)))

/-- Missing readings and the over-power guard (R45, R434): a sensor silent for ten windows is taken at its throttle limit, and missing
telemetry raises the window's estimates by one quarter, both logged; the second reading in a row above the level in force by
more than 5 % caps the level at the next lower index, sets ILUNY_CAP and is logged. With the reading comes the air-side temperature (R535; log entry 136, the model's choice): its
rise above 45 °C is logged once.
Completion, under conditions on the state and the operands alone, is stated for: sensorMissing, telemetryMissing,
ilunyPowerRead. -/
def Obligations.MissingReadingsAndTheCap : Prop :=
  (∀ (s : State) (n : Nat), 10 ≤ FMap.get (fun _ => 0) s.power.levee.silent n → n < 8 * s.part.dies →
    n ∉ s.power.levee.limited →
    ∃ t u : State, exec (.sensorMissing n) s = .next t ∧ t.sensorTemp n = t.throttleC ∧
      u = s.logEntry 0x0050 (n / 8) noUnit deviceWide (n % 8) 0 ∧
      t = { u with power := { u.power with levee := { u.power.levee with limited := t.power.levee.limited } } } ∧
      ∀ m, m ≠ n → (m ∈ t.power.levee.limited ↔ m ∈ s.power.levee.limited)) ∧
  (∀ s : State, s.hostLink = true →
    ∃ t, exec .telemetryMissing s = .next t ∧ (∀ pj, t.calibrated pj = pj * 5 / 4) ∧
      t = { s.logFor 0x0051 deviceWide 0 0 with
        power := { s.power with levee := { s.power.levee with missing := true } } }) ∧
  (∀ (r : State) (watts air : Nat), r.power.phase = .run → r.power.iluny.ready = true →
    let s := r.noteAir air
    ((air ≤ 45 ∨ r.power.iluny.airHot = true) → s = r.setIluny (fun (i : Iluny) => { i with airHot := decide (45 < air) })) ∧
    (45 < air → r.power.iluny.airHot = false →
      s = (r.setIluny (fun (i : Iluny) => { i with airHot := true })).logFor (Config.openClass 7).toNat deviceWide air 0) ∧
    s.levelEff = r.levelEff ∧
    (s.overLevel watts = false →
      exec (.ilunyPowerRead ⟨watts, air⟩) r
        = .next { s with power := { s.power with iluny := { s.power.iluny with reading := watts, overReads := 0 } } }) ∧
    (s.overLevel watts = true → s.power.iluny.overReads = 0 →
      exec (.ilunyPowerRead ⟨watts, air⟩) r
        = .next { s with power := { s.power with iluny := { s.power.iluny with reading := watts, overReads := 1 } } }) ∧
    (s.overLevel watts = true → s.power.iluny.overReads ≠ 0 → s.power.iluny.overvolt = false →
      ∃ t u : State, exec (.ilunyPowerRead ⟨watts, air⟩) r = .next t ∧ u.power.iluny.reading = watts ∧ t = u.logFor 0x0053 deviceWide (s.levelEff - 1) 0 ∧
        u.power.iluny.cap = some (s.levelEff - 1) ∧ u.levelEff = s.levelEff - 1 ∧
        getBit (u.reg ⟨.leveeStat, 0, 0⟩) 63 = true ∧
        (∀ q : Reg, q.key ≠ Reg.key ⟨.leveeStat, 0, 0⟩ → u.reg q = s.reg q)))

/-! ## Power, the module and the pair -/

/-- Power states (R436 to R440): a core with nothing to run gates its clock and runs again when a task is ready; after the hold time
the deepest state is chosen that MAX_STATE allows and whose exit latency is within the smallest wake tolerance; entry into
the chosen state keeps the stacks, and DEEP saves the freeboard and loses the journal; a reserved code enters nothing and is
logged; the exit returns to RUN and PWR_STAT shows its source and the state left; an exit that takes too long is a device
fault.
Completion, under conditions on the state and the operands alone, is stated for: coreIdleGEnter, coreIdleGExit,
idleHoldExpire, powerStateEnter, powerStateExitDone, powerExitTimeout. -/
def Obligations.PowerStatesEnterAndExit : Prop :=
  (∀ (s : State) (c : Nat), s.hostUp = true → s.maxState ≠ 0 → c < s.part.cores → s.coreRetired c = false →
    s.runningOn c = [] → s.readyOn c = false →
    ∃ t, exec (.coreIdleGEnter c) s = .next t ∧ t.core c = { s.core c with idle := true } ∧ s.onlyCore t c) ∧
  (∀ (s : State) (c : Nat), s.hostUp = true → (s.core c).idle = true → s.readyOn c = true →
    ∃ t, exec (.coreIdleGExit c) s = .next t ∧ t.core c = { s.core c with idle := false } ∧ s.onlyCore t c) ∧
  (∀ s : State, s.hostUp = true → s.deviceIdle = true →
    ∃ n, exec .idleHoldExpire s = .next { s with power := { s.power with chosen := n } } ∧ n ≤ 4 ∧
      (n ≠ 0 → n ≤ s.maxState ∧ exitLatency s.keepMode n ≤ s.tolerance) ∧
      ∀ m, n < m → m ≤ 4 → s.maxState < m ∨ s.tolerance < exitLatency s.keepMode m) ∧
  (∀ (s : State) (n : Nat), s.hostUp = true → s.power.cluster = .first ∨ s.power.cluster = .mirror →
    s.power.chosen = n → 1 ≤ n → n ≤ 4 → s.deviceIdle = true →
    (∃ t, exec (.powerStateEnter n false none) s = .next t ∧ t.power.state = n ∧ t.stackTab = s.stackTab ∧
      t.tensors = s.tensors ∧ (n = 4 → t.journal = [] ∧ t.resume.sram.isSome = true) ∧
      (n = 4 → t.power.image = true) ∧
      (2 ≤ n → s.moduleReach = true → ∀ d, d < s.part.dies → (s.rail d).locked = false →
        (t.rail d).mv = stateMv n ∨ (t.rail d).request = some (stateMv n))) ∧
    exec (.powerStateEnter n true none) s
      = .next { s with power := { s.power with target := n, keep := s.keepMode } }) ∧
  (∀ (s : State) (n : Nat) (pending : Bool) (cut : Option Nat), s.hostUp = true → s.power.cluster = .first →
    4 < n → n < 8 →
    ∃ (t : State) (cls : Nat), exec (.powerStateEnter n pending cut) s = .next t ∧
      t = ({ s with power := { s.power with target := n, keep := s.keepMode } }).logFor cls deviceWide n 0) ∧
  (∀ (s : State) (src : Nat), s.power.exiting = some src → s.railsUp = true →
    ∃ t, exec .powerStateExitDone s = .next t ∧ t.power.state = 0 ∧ t.power.exiting = none ∧
      t.regF .pwrStat 0 6 4 = src % 8 ∧ t.regF .pwrStat 0 2 0 = s.power.state % 8 ∧
      (2 ≤ s.power.state → t.regF .pwrStat 0 31 16 = min 65535 (s.regF .pwrStat 0 31 16 + 1)) ∧
      t.tensors = s.tensors ∧ t.stackTab = s.stackTab) ∧
  (∀ s : State, s.power.exiting.isSome = true → s.host.deviceFault = none →
    ∃ t, exec .powerExitTimeout s = .next t ∧ t.host.deviceFault = some 4)

/-- Wakes and the control cluster (R27, R29, R441, R459): an enabled wake source starts the exit under its code, and of two in one
cycle the lower code stands; a heartbeat is recorded; a missed one starts the takeover by the mirror where there is one and is
a device fault where there is none; the takeover ends with the mirror in charge and no
task left issued in the journal; and a device fault ends every course and
every descriptor in flight but a QUERY.
Completion, under conditions on the state and the operands alone, is stated for: wakeTlp, wakePin, wakeMacFrame,
wakeFrame, heartbeatWrite, heartbeatMissed, takeoverComplete, hostEngineFault, controlClusterFault. -/
def Obligations.WakesAndTheControlCluster : Prop :=
  (∀ (s : State) (same : Bool) (port : Nat) (payload : List Byte), s.power.phase = .run → s.power.state ≠ 0 →
    (s.power.exiting = none →
      (s.wakeEnabled 0 = true → ∃ t, exec (.wakeTlp same) s = .next t ∧ t.power.exiting = some 1 ∧ t.power.state = s.power.state ∧
        (2 ≤ s.power.state → s.moduleReach = true → ∀ d, d < s.part.dies → (s.rail d).locked = false →
          (t.rail d).mv = s.neededMv d ∨ (t.rail d).request = some (s.neededMv d))) ∧
      (s.wakeEnabled 1 = true → ∃ t, exec (.wakePin same) s = .next t ∧ t.power.exiting = some 2) ∧
      (s.wakeEnabled 2 = true → s.mesh.isSome = true → s.frameHeard port = true →
        ∃ t, exec (.wakeMacFrame port same) s = .next t ∧ t.power.exiting = some 3) ∧
      (s.wakeEnabled 3 = true → s.frameHeard port = true → payload.take 16 = s.wakePattern →
        ∃ t, exec (.wakeFrame port true payload same) s = .next t ∧ t.power.exiting = some 4)) ∧
    (∀ old, s.power.exiting = some old → s.wakeEnabled 1 = true →
      exec (.wakePin true) s = .next { s with power := { s.power with exiting := some (min old 2) } } ∧
      exec (.wakePin false) s = .next s) ∧
    (∀ old, s.power.exiting = some old → s.wakeEnabled 0 = true →
      exec (.wakeTlp true) s = .next { s with power := { s.power with exiting := some (min old 1) } })) ∧
  (∀ s : State, s.hostUp = true →
    (s.power.cluster = .first ∨ s.power.cluster = .mirror →
      exec .heartbeatWrite s = .next { s with power := { s.power with iluny := { s.power.iluny with beat := true } } }) ∧
    (s.power.cluster = .first → 2 ≤ s.part.dies →
      ∃ u, exec .heartbeatMissed s = .next (u.logEntry 0x0054 1 noUnit deviceWide 0 0) ∧
        u = { s with power := { s.power with cluster := .taking, iluny := { s.power.iluny with beat := false } } }) ∧
    (s.power.cluster = .first → s.part.dies = 1 → s.host.deviceFault = none →
      ∃ t, exec .heartbeatMissed s = .next t ∧ t.power.cluster = .failed ∧ t.host.deviceFault = some 1)) ∧
  (∀ s : State, s.power.cluster = .taking → FMap.wf (fun _ => (none : Option JEntry)) s.journal = true →
    ∃ t, exec .takeoverComplete s = .next t ∧ t.power.cluster = .mirror ∧
      (∀ j e, t.entry j = some e → e.state ≠ .issued) ∧
      (∀ j e, s.entry j = some e → e.state = .issued → ∃ x, t.entry j = some x ∧ x.state = .abandoned) ∧
      (∀ j e, s.entry j = some e → e.state ≠ .issued → t.entry j = some e)) ∧
  (∀ s : State, s.power.phase = .run → s.host.deviceFault = none →
    (∃ t, exec .hostEngineFault s = .next t ∧ t.host.deviceFault = some 2 ∧ t.courses = [] ∧
      (∀ e ∈ t.host.inflight, e.ty = 0x09) ∧ t.issuing = false) ∧
    (s.part.dies = 1 →
      ∃ t, exec .controlClusterFault s = .next t ∧ t.power.cluster = .failed ∧ t.host.deviceFault = some 1 ∧
        t.courses = [] ∧ ∀ e ∈ t.host.inflight, e.ty = 0x09))

/-- Sag, trips and the freeboard (R435, R465 to R468, R524, R528): on a sag or a trip of a running package issue stops and the
control tables as they stand are drawn up as a valid image with the next save count; the finished save puts it into the SRAM
and releases the rails, and one cut short leaves no valid image; without main power the image goes to the older NOR slot, and package B reports and copies through Iluny A
while their management link is up (R30);
the loss of the auxiliary supply saves nothing and loses the SRAM.
Completion, under conditions on the state and the operands alone, is stated for: sagDetect, thermalTrip, ref25mLoss,
freeboardSaveDone, auxSupplyLoss, norCopy. -/
def Obligations.SagSavesTheControlTables : Prop :=
  (∀ (s : State) (stack : Bool) (unit temp : Nat), s.power.phase = .run →
    (∃ (t : State) (m : FreeImage), exec .sagDetect s = .next t ∧ t.power.phase = .saving ∧ t.power.iluny.input = false ∧ t.issuing = false ∧
      t.resume.draft = some m ∧ m.valid = true ∧ m.consumed = false ∧ m.count = s.resume.saves + 1 ∧
      m.tensors = s.savedTensors.take tensorRoom ∧ m.steps = s.savedSteps ∧ m.polders = s.savedPolders ∧
      m.lifecycle = s.secure.lifecycle ∧ m.log = t.log ∧ t.out = s.out ∧ t.tensors = s.tensors ∧ t.stackTab = s.stackTab) ∧
    ((if stack then 105 else 120) ≤ temp → unit < (if stack then s.part.stackCount else 8 * s.part.dies) →
      ∃ (t : State) (m : FreeImage), exec (.thermalTrip stack unit temp) s = .next t ∧ t.power.phase = .saving ∧
        t.power.iluny.stopped = true ∧ t.issuing = false ∧ t.resume.draft = some m ∧ m.valid = true ∧
        m.count = s.resume.saves + 1 ∧ m.tensors = s.savedTensors.take tensorRoom ∧ m.steps = s.savedSteps ∧
        m.polders = s.savedPolders ∧ t.tensors = s.tensors ∧
        t.out = s.out ++ (if s.pkg = .a then [.mctp 1 unit] else if s.power.mgmt then [.mgmt 1 1 unit] else [])) ∧
    (∃ (t : State) (m : FreeImage), exec .ref25mLoss s = .next t ∧ t.power.phase = .saving ∧ t.power.iluny.stopped = true ∧
      t.issuing = false ∧ t.resume.draft = some m ∧ m.valid = true ∧ m.count = s.resume.saves + 1 ∧
      m.tensors = s.savedTensors.take tensorRoom ∧ m.steps = s.savedSteps ∧ m.polders = s.savedPolders ∧
      t.out = s.out ++ (if s.pkg = .a then [.mctp 1 0xFFFF] else if s.power.mgmt then [.mgmt 1 1 0xFFFF] else []))) ∧
  (∀ (s : State) (m : FreeImage), s.power.phase = .saving → s.resume.draft = some m →
    (∃ t, exec (.freeboardSaveDone true) s = .next t ∧ t.power.phase = .off ∧ t.resume.sram = some m ∧ t.resume.draft = none ∧
      t.resume.nor0 = s.resume.nor0 ∧ t.resume.nor1 = s.resume.nor1 ∧ t.tensors = [] ∧ t.stackTab = [] ∧ t.courses = [] ∧
      ∀ d, d < s.part.dies → (t.rail d).mv = 0) ∧
    (∃ t, exec (.freeboardSaveDone false) s = .next t ∧ t.power.phase = .off ∧ t.resume.sram = none) ∧
    (∃ (t : State) (n : FreeImage), exec .ref25mLoss s = .next t ∧ t.power.phase = .saving ∧ t.resume.draft = some n ∧ n.log = t.log)) ∧
  (∀ s : State,
    ∃ t, exec .auxSupplyLoss s = .next t ∧ t.power.phase = .off ∧ t.resume.sram = none ∧ t.resume.found = none ∧
      t.resume.nor0 = s.resume.nor0 ∧ t.resume.nor1 = s.resume.nor1 ∧ t.power.iluny.ready = false ∧ t.tensors = [] ∧
      t.secure.lifecycle = s.secure.lifecycle) ∧
  (∀ (s : State) (m : FreeImage) (whole : Bool), s.power.phase = .off → s.power.iluny.input = false →
    s.resume.sram = some m → m.valid = true → m.consumed = false →
    (s.moduleReach = false → exec (.norCopy whole) s = .next s) ∧
    (s.moduleReach = true → exec (.norCopy whole) s = .next { s with resume := { s.resume with
      nor0 := if slotCount s.resume.nor0 ≤ slotCount s.resume.nor1 then some { m with valid := whole } else s.resume.nor0
      nor1 := if slotCount s.resume.nor0 ≤ slotCount s.resume.nor1 then s.resume.nor1 else some { m with valid := whole } } }))

/-- Power-up (R469, R470, R519, R529, R530, Table 21.11, R523): Iluny, once ready, has searched for an image and shows where it found
it; the return of the input or a restart over MCTP ends a stop; the enable of main power brings the package into reset with
its rails ordered to 700 mV, and the deassertion of PERST# with the rails up releases it; an overvoltage of the input caps
the level to index 0; a live mating leaves Iluny unready and whatever stands in the image places; a private JTAG instruction acts as
BYPASS in PRODUCTION.
Completion, under conditions on the state and the operands alone, is stated for: ilunyReady, mainInputReturn,
mainEnable, mctpRestart, inputOvervoltage, perstDeassert, moduleMateLive, jtagInstruction. -/
def Obligations.PowerUpReleasesThePackage : Prop :=
  (∀ s : State, s.power.iluny.ready = false →
    ∃ t, exec .ilunyReady s = .next t ∧ t.power.iluny.ready = true ∧ t.power.iluny.searched = true ∧
      t.resume.found = s.searchable.search ∧ t.cores = freshCores s.power.iluny.retired ∧
      (s.searchable.search = some 0 → t.regF .resumeStat 0 30 29 = 1) ∧
      (s.searchable.search = some 1 ∨ s.searchable.search = some 2 → t.regF .resumeStat 0 30 29 = 2) ∧
      (s.searchable.search = none → t.regF .resumeStat 0 30 29 = 0 ∧ t.logTotal ≠ s.logTotal)) ∧
  (∀ s : State, s.power.iluny.input = false →
    exec .mainInputReturn s
      = .next { s with power := { s.power with iluny := { s.power.iluny with input := true, stopped := false } } }) ∧
  (∀ s : State, s.power.phase = .off → s.power.iluny.ready = true → s.power.iluny.mated = true →
    s.power.iluny.input = true → s.power.iluny.stopped = false →
    (s.moduleReach = true → ∃ t, exec .mainEnable s = .next t ∧ t.power.phase = .held ∧
      ∀ d, d < s.part.dies → (s.rail d).locked = false → (t.rail d).mv = 700 ∨ (t.rail d).request = some 700) ∧
    (s.moduleReach = false → exec .mainEnable s = .next s)) ∧
  (∀ s : State, s.power.iluny.stopped = true →
    exec (.mctpRestart false) s
      = .next { s with power := { s.power with iluny := { s.power.iluny with stopped := false } } } ∧
    exec (.mctpRestart true) s = .next (s.logFor 0x0004 deviceWide 0 0)) ∧
  (∀ s : State,
    (s.power.iluny.overvolt = false →
      ∃ t, exec (.inputOvervoltage true) s = .next t ∧ t.levelEff = 0 ∧ t.power.iluny.overvolt = true ∧
        t.logTotal = s.logTotal + 1) ∧
    (s.power.iluny.overvolt = true →
      exec (.inputOvervoltage false) s
        = .next { s with power := { s.power with iluny := { s.power.iluny with overvolt := false } } })) ∧
  (∀ (s : State) (early : Bool) (width : Nat) (pairUp : Bool), s.power.perst = true → s.power.phase = .held →
    ∃ t, exec (.perstDeassert early width pairUp) s = .next t ∧ t.power.perst = false ∧
      (s.railsUp = true → t.power.phase = .run) ∧ (s.railsUp = false → t.power.phase = .held) ∧
      (pairUp = true → s.part = .cn4p64 → getBit (t.reg ⟨.pairStat, 0, 0⟩) 28 = true)) ∧
  (∀ (s : State) (seen main : Bool),
    ∃ t, exec (.moduleMateLive seen main) s = .next t ∧ t.power.phase = .off ∧ t.power.iluny.ready = false ∧
      t.power.iluny.mateLive = seen ∧ t.power.iluny.input = main ∧ t.free = s.free + 1 ∧
      t.resume.sram = Config.mateImage s.free 0 ∧ t.resume.nor0 = Config.mateImage s.free 1 ∧
      t.resume.nor1 = Config.mateImage s.free 2 ∧ t.secure.lifecycle = s.secure.lifecycle) ∧
  (∀ (s : State) (ir : JtagIr),
    exec (.jtagInstruction ir) s = .next { s with power := { s.power with iluny := { s.power.iluny with
      jtag := if ir = .vendor ∧ s.secure.lifecycle = 2 then .bypass else ir } } })

/-- Resets of the package (R517, R531): PERST# of at least 100 µs and a hot reset stop every course without a record and clear tensors,
stacks, rings and log, but keep the freeboard, the fuses, LOST, MISMATCHES and the fence; a shorter PERST#, or one during a
save, changes nothing.
Function-level resets (R393): an FLR of a VF stops its courses and releases its tensors without a record, disables its rings and
returns its step machine to IDLE, and leaves the tensors of every other function; an FLR of the PF does so for every function,
closes the mesh and every session, clears the feature set, and leaves the stacks' retirement and the freeboard.
Completion, under conditions on the state and the operands alone, is stated for: perstAssert, hotReset, flrVf, flrPf. -/
def Obligations.ResetsKeepTheirRecords : Prop :=
  (∀ s : State,
     (∀ us, us < 100 → exec (.perstAssert us) s = .next s) ∧
     (∀ us, s.power.phase = .saving → exec (.perstAssert us) s = .next s) ∧
     (∀ us, 100 ≤ us → s.power.phase = .run ∨ s.power.phase = .held →
       ∃ t, exec (.perstAssert us) s = .next t ∧ t.power.perst = true ∧ t.power.phase = .held ∧ t.courses = [] ∧
         t.tensors = [] ∧ t.stackTab = [] ∧ t.log = [] ∧ t.host.inflight = [] ∧ t.steps = [] ∧ t.mesh = none ∧
         t.resume.sram = s.resume.sram ∧ t.resume.nor0 = s.resume.nor0 ∧ t.resume.nor1 = s.resume.nor1 ∧
         t.secure.lifecycle = s.secure.lifecycle ∧ t.secure.sealed = s.secure.sealed ∧ t.secure.creates = s.secure.creates ∧
         t.secure.polders = [] ∧ t.fenced = s.fenced ∧ t.mirror = false ∧
         (∀ n, t.sq n = {} ∧ t.cq n = {}) ∧ (∃ more, t.out = s.out ++ more ∧ ∀ f a b, Out.hostWrite f a b ∉ more) ∧
         t.regF .errlogStat 0 31 16 = s.regF .errlogStat 0 31 16 ∧ t.regF .pairStat 0 15 0 = s.regF .pairStat 0 15 0 ∧
         t.reg ⟨.powerCtl, 0, 0⟩ = 0x00320400 ∧ t.power.iluny = s.power.iluny) ∧
     (s.power.phase = .run →
       ∃ t, exec .hotReset s = .next t ∧ t.courses = [] ∧ t.tensors = [] ∧ t.stackTab = [] ∧ t.host.inflight = [] ∧
         t.log = [] ∧ (∀ n, t.sq n = {} ∧ t.cq n = {}) ∧
         (∃ more, t.out = s.out ++ more ∧ ∀ f a b, Out.hostWrite f a b ∉ more) ∧
         t.fenced = s.fenced ∧ t.resume.sram = s.resume.sram ∧ t.resume.nor0 = s.resume.nor0 ∧ t.resume.nor1 = s.resume.nor1 ∧
         t.secure.lifecycle = s.secure.lifecycle ∧ t.secure.sealed = s.secure.sealed ∧ t.secure.creates = s.secure.creates ∧
         t.regF .errlogStat 0 31 16 = s.regF .errlogStat 0 31 16 ∧ t.regF .pairStat 0 15 0 = s.regF .pairStat 0 15 0 ∧ (t.power.phase = .run ∨ t.power.phase = .held))) ∧
  ((∀ (s : State) (v : Nat), s.hostLink = true → 1 ≤ v → v < 64 → FMap.wf (fun _ => (none : Option Tensor)) s.tensors = true →
     ∃ t, exec (.flrVf v) s = .next t ∧ t.out = s.out ∧ (∀ c ∈ t.courses, c.desc.func ≠ v) ∧
       (∀ id x, t.tensor id = some x → x.func ≠ v) ∧ (∀ d ∈ t.host.inflight, d.func ≠ v) ∧ t.stepM v = {} ∧
       (∀ n, n < 4096 → s.ringFunc n = v → t.sqEnabled n = false ∧ t.cqEnabled n = false ∧ t.sq n = {} ∧ t.cq n = {}) ∧
       (∀ f, f ≠ v → t.stepM f = s.stepM f) ∧
       (∀ id x, s.tensor id = some x → x.func ≠ v →
         ∃ y : Tensor, t.tensor id = some y ∧ y.desc = x.desc ∧ y.genNo = x.genNo ∧ y.half0 = x.half0 ∧ y.half1 = x.half1 ∧
           y.map = x.map)) ∧
   (∀ s : State, s.hostLink = true →
     ∃ t, exec .flrPf s = .next t ∧ (∀ c ∈ t.courses, 64 ≤ c.desc.func) ∧ (∀ id x, t.tensor id = some x → 64 ≤ x.func) ∧
       (∀ d ∈ t.host.inflight, 64 ≤ d.func) ∧ t.mesh = none ∧ t.net.sessions = [] ∧ t.featuresConfirmed = false ∧
       t.host.features = none ∧ (∀ f, f < 64 → t.stepM f = {}) ∧ t.resume = s.resume ∧
       (∀ n, n < 4096 → t.sqEnabled n = false ∧ t.cqEnabled n = false) ∧
       (∀ n, n < s.part.stackCount → t.stackRetired n = s.stackRetired n) ∧
       (∃ more, t.out = s.out ++ more ∧ ∀ f a b, Out.hostWrite f a b ∉ more) ∧
       t.reg ⟨.leveeCtl, 0, 0⟩ = 0xEB695F55 ∧ t.shadowReg ⟨.leveeCtl, 0, 0⟩ = 0xEB695F55))

/-- Resume (R471): RESTORE brings back LAST_COMMIT of the functions in the image, holds its tensor states for their definitions, and uses
up every copy of the image, in the SRAM and, where the package reaches them (R30), in the NOR slots; DISCARD uses them up and brings nothing back. AVAIL and
FAULT_CTL.RESUME clear.
The redundant pair (R391, R460, R464): mirror mode is entered on a CN4-P64 with its feature while neither package is fenced and no
course runs; a descriptor forwarded to package B waits there to act; the loss of either link fences package B, which package
A goes on without, and B stops with a device fault; without the management link B reaches no regulator, NOR slot or MCTP
(R30).
Completion, under conditions on the state and the operands alone, is stated for: resumeRestore, resumeDiscard,
mirrorModeEnter, pairDescForward, pairLinkLoss, mgmtLinkLoss. -/
def Obligations.ResumeAndThePair : Prop :=
  (∀ (s : State) (m : FreeImage), s.offeredImage = some m →
     (s.regF .faultCtl 0 2 1 = 1 → (m.steps.map (fun e => e.func)).Nodup →
       ∃ t, exec .resumeRestore s = .next t ∧ t.resume.pending = m.tensors ∧ t.resume.found = none ∧
         (∀ x, t.resume.sram = some x → x.count = m.count → x.consumed = true) ∧
         (s.moduleReach = true → ∀ x, t.resume.nor0 = some x ∨ t.resume.nor1 = some x → x.count = m.count → x.consumed = true) ∧
         getBit (t.reg ⟨.resumeStat, 0, 0⟩) 31 = false ∧ getBit (t.reg ⟨.resumeStat, 0, 0⟩) 28 = true ∧
         t.regF .faultCtl 0 2 1 = 0 ∧ getF (t.shadowReg ⟨.faultCtl, 0, 0⟩) 2 1 = 0 ∧
         (∀ e ∈ m.steps, (t.stepM e.func).lastValid = e.lastValid ∧ (t.stepM e.func).lastStep = e.lastStep ∧
           (t.stepM e.func).lastSeed = e.seed ∧
           (t.stepM e.func).state = (s.stepM e.func).state) ∧ t.tensors = s.tensors) ∧
     (s.regF .faultCtl 0 2 1 = 2 →
       ∃ t, exec .resumeDiscard s = .next t ∧ t.resume.pending = s.resume.pending ∧ t.resume.found = none ∧
         (∀ x, t.resume.sram = some x → x.count = m.count → x.consumed = true) ∧
         (s.moduleReach = true → ∀ x, t.resume.nor0 = some x ∨ t.resume.nor1 = some x → x.count = m.count → x.consumed = true) ∧
         getF (t.shadowReg ⟨.faultCtl, 0, 0⟩) 2 1 = 0 ∧
         getBit (t.reg ⟨.resumeStat, 0, 0⟩) 31 = false ∧ t.regF .faultCtl 0 2 1 = 0 ∧ t.steps = s.steps ∧
         t.secure = s.secure ∧ t.tensors = s.tensors)) ∧
  (∀ s : State, s.part = .cn4p64 →
     (s.hostUp = true → s.pkg = .b ∨ getBit (s.reg ⟨.faultCtl, 0, 0⟩) 0 = true → s.feature 2 = true →
       s.regF .pairStat 0 30 29 = 0 → s.courseRuns = false →
       ∃ t, exec .mirrorModeEnter s = .next t ∧ t.mirror = true ∧ t.fenced = s.fenced ∧ s.onlyRegs t [⟨.pairStat, 0, 0⟩]) ∧
     (∀ (func ring : Nat) (bytes : List Byte) (blocks : List (List Byte)) (d : Desc), s.pkg = .b → s.mirror = true →
       s.hostUp = true →
       ({ seq := s.host.nextSeq, func := func, ring := ring, bytes := fitBytes 128 bytes, blocks := blocks, forwarded := true }
         : Desc) = d →
       s.malformed d = none → s.host.deviceFault = none →
       exec (.pairDescForward func ring bytes blocks) s
         = .next { s with host := { s.host with nextSeq := s.host.nextSeq + 1, inflight := s.host.inflight ++ [d] } }) ∧
     (s.power.phase = .run → s.regF .pairStat 0 30 29 = 0 →
       (s.pkg = .a →
         (∃ t, exec .pairLinkLoss s = .next t ∧ getBit (t.reg ⟨.pairStat, 0, 0⟩) 28 = false ∧
           getBit (t.reg ⟨.pairStat, 0, 0⟩) 30 = true ∧ t.mirror = false ∧ t.fenced = false ∧
           t.host.deviceFault = s.host.deviceFault ∧ t.courses = s.courses) ∧
         (∃ t, exec .mgmtLinkLoss s = .next t ∧ getBit (t.reg ⟨.pairStat, 0, 0⟩) 30 = true ∧ t.mirror = false ∧ t.power.mgmt = false ∧
           t.host.deviceFault = s.host.deviceFault ∧ t.courses = s.courses)) ∧
       (s.pkg = .b → s.host.deviceFault = none →
         (∃ t, exec .pairLinkLoss s = .next t ∧ t.fenced = true ∧ t.mirror = false ∧ t.host.deviceFault = some 6 ∧
           t.courses = []) ∧
         (∃ t, exec .mgmtLinkLoss s = .next t ∧ t.power.mgmt = false ∧ t.moduleReach = false ∧ t.fenced = true ∧ t.mirror = false ∧ t.host.deviceFault = some 6 ∧
           t.courses = []))))

/-! ## Security -/

/-- SPDM requests outside a session (R487, R488): in their order on a connection each is answered, one before its turn with
UnexpectedRequest, a slot without a chain or another set of algorithms with InvalidRequest, and a request outside the subset
with UnsupportedRequest. Nothing but the negotiation of the connection changes.
Completion, under conditions on the state and the operands alone, is stated for: getVersion, getCapabilities,
negotiateAlgorithms, getDigests, getCertificate, spdmChallenge, getMeasurements, spdmUnsupported. -/
def Obligations.SpdmNegotiatesInOrder : Prop :=
  ∀ (s : State) (c slot index : Nat) (signed : Bool), s.connUp c = true →
    (∃ t, exec (.getVersion c) s = .next t ∧ t.spdmPhase c = 1 ∧ t.out = s.out ++ [.spdm c .version] ∧
      (∀ d, d ≠ c → t.spdmPhase d = s.spdmPhase d) ∧
      t = { s with out := t.out, secure := { s.secure with phases := t.secure.phases } }) ∧
    (∃ t, exec (.getCapabilities c) s = .next t ∧
      (s.spdmPhase c < 1 → t = s.emit (.spdm c (.error .unexpectedRequest))) ∧
      (1 ≤ s.spdmPhase c → t.spdmPhase c = max 2 (s.spdmPhase c) ∧ t.out = s.out ++ [.spdm c .capabilities] ∧
        (∀ d, d ≠ c → t.spdmPhase d = s.spdmPhase d) ∧
        t = { s with out := t.out, secure := { s.secure with phases := t.secure.phases } })) ∧
    (∃ t, exec (.negotiateAlgorithms c true) s = .next t ∧
      (s.spdmPhase c < 2 → t = s.emit (.spdm c (.error .unexpectedRequest))) ∧
      (2 ≤ s.spdmPhase c → t.spdmPhase c = 3 ∧ t.out = s.out ++ [.spdm c .algorithms] ∧
        (∀ d, d ≠ c → t.spdmPhase d = s.spdmPhase d) ∧
        t = { s with out := t.out, secure := { s.secure with phases := t.secure.phases } })) ∧
    (2 ≤ s.spdmPhase c →
      exec (.negotiateAlgorithms c false) s = .next (s.emit (.spdm c (.error .invalidRequest)))) ∧
    (s.spdmPhase c < 3 →
      exec (.getDigests c) s = .next (s.emit (.spdm c (.error .unexpectedRequest))) ∧
      exec (.getCertificate c slot) s = .next (s.emit (.spdm c (.error .unexpectedRequest))) ∧
      exec (.spdmChallenge c slot) s = .next (s.emit (.spdm c (.error .unexpectedRequest))) ∧
      exec (.getMeasurements c index signed) s = .next (s.emit (.spdm c (.error .unexpectedRequest)))) ∧
    (3 ≤ s.spdmPhase c →
      exec (.getDigests c) s = .next (s.emit (.spdm c (.digests [0, 1]))) ∧
      (slot < 2 → exec (.getCertificate c slot) s = .next (s.emit (.spdm c (.certificate slot (Config.certChain slot))))) ∧
      (2 ≤ slot → exec (.getCertificate c slot) s = .next (s.emit (.spdm c (.error .invalidRequest))) ∧
        exec (.spdmChallenge c slot) s = .next (s.emit (.spdm c (.error .invalidRequest)))) ∧
      (slot < 2 → exec (.spdmChallenge c slot) s = .next (s.emit (.spdm c (.challengeAuth slot)))) ∧
      exec (.getMeasurements c index signed) s
        = .next (s.emit (.spdm c (.measurements (s.measurementBlocks index) signed)))) ∧
    exec (.spdmUnsupported c) s = .next (s.emit (.spdm c (.error .unsupportedRequest)))

/-- SPDM sessions and IDE (R487, R489): KEY_EXCHANGE opens the lowest free of four sessions and then answers SessionLimitExceeded;
FINISH establishes one, and only an established one is kept alive, updated, ended, or keys an IDE stream, over the DOE mailbox
and with the feature; a stream that fails protects nothing.
Completion, under conditions on the state and the operands alone, is stated for: keyExchange, spdmFinish,
spdmHeartbeat, keyUpdate, endSession, ideKm, ideStreamFailure. -/
def Obligations.SpdmSessionsAndIde : Prop :=
  (∀ (s : State) (c : Nat), s.connUp c = true → 3 ≤ s.spdmPhase c →
    (∀ n, n < 4 → s.spdm n = none → (∀ m, m < n → (s.spdm m).isSome = true) →
      ∃ t, exec (.keyExchange c) s = .next t ∧ t.spdm n = some { conn := c } ∧ (∀ m, m ≠ n → t.spdm m = s.spdm m) ∧
        t.out = s.out ++ [.spdm c (.keyExchange n)]) ∧
    ((∀ m, m < 4 → (s.spdm m).isSome = true) →
      exec (.keyExchange c) s = .next (s.emit (.spdm c (.error .sessionLimitExceeded))))) ∧
  (∀ (s : State) (n stream : Nat) (ranges : List (Nat × Nat)) (q : Session), s.spdm n = some q → s.connUp q.conn = true →
    (q.finished = false →
      (∃ t, exec (.spdmFinish n) s = .next t ∧ t.spdm n = some { q with finished := true } ∧
        (∀ m, m ≠ n → t.spdm m = s.spdm m) ∧ t.out = s.out ++ [.spdm q.conn .finish]) ∧
      exec (.spdmHeartbeat n) s = .next (s.emit (.spdm q.conn (.error .unexpectedRequest))) ∧
      exec (.keyUpdate n) s = .next (s.emit (.spdm q.conn (.error .unexpectedRequest))) ∧
      exec (.endSession n) s = .next (s.emit (.spdm q.conn (.error .unexpectedRequest))) ∧
      exec (.ideKm n stream ranges) s = .next (s.emit (.spdm q.conn (.error .unexpectedRequest)))) ∧
    (q.finished = true →
      exec (.spdmHeartbeat n) s = .next (s.emit (.spdm q.conn .heartbeat)) ∧
      (∃ t, exec (.keyUpdate n) s = .next t ∧ t.spdm n = some { q with updates := q.updates + 1 } ∧
        (∀ m, m ≠ n → t.spdm m = s.spdm m) ∧ t.out = s.out ++ [.spdm q.conn .keyUpdate]) ∧
      (∃ t, exec (.endSession n) s = .next t ∧ t.spdm n = none ∧ (∀ m, m ≠ n → t.spdm m = s.spdm m) ∧
        t.out = s.out ++ [.spdm q.conn .endSession]) ∧
      (q.conn = 1 → stream < 4 → s.feature 8 = true →
        ∃ t, exec (.ideKm n stream ranges) s = .next t ∧
          FMap.get (fun _ => ({} : IdeStream)) t.secure.ide stream = { up := true, ranges := ranges } ∧
          (∀ m, m ≠ stream → FMap.get (fun _ => ({} : IdeStream)) t.secure.ide m
            = FMap.get (fun _ => ({} : IdeStream)) s.secure.ide m) ∧ t.out = s.out ++ [.spdm 1 (.ideKm stream)]) ∧
      (q.conn ≠ 1 ∨ 4 ≤ stream ∨ s.feature 8 = false →
        exec (.ideKm n stream ranges) s = .next (s.emit (.spdm q.conn (.error .invalidRequest)))))) ∧
  (∀ (s : State) (n : Nat) (x : IdeStream), FMap.get (fun _ => ({} : IdeStream)) s.secure.ide n = x → x.up = true →
    ∃ t, exec (.ideStreamFailure n) s = .next t ∧
      FMap.get (fun _ => ({} : IdeStream)) t.secure.ide n = { x with up := false } ∧
      (∀ m, m ≠ n → FMap.get (fun _ => ({} : IdeStream)) t.secure.ide m = FMap.get (fun _ => ({} : IdeStream)) s.secure.ide m) ∧
      t = { s with secure := { s.secure with ide := t.secure.ide } })

/-- The transition to RETURNED (R491) needs a genuine token that names this package, in an SPDM session over MCTP, while no polder exists: otherwise it
is answered with InvalidRequest and changes nothing. Accepted, the sealing key is gone, so that no saved handle is unwrapped,
every NOR slot is erased, the fuse is blown and the package is reset; RETURNED is final.
Completion, under conditions on the state and the operands alone, is stated for: lifecycleTransition. -/
def Obligations.LifecycleTransitionIsFinal : Prop :=
  ∀ (s : State) (n : Nat) (q : Session), s.spdm n = some q → q.finished = true → s.connUp q.conn = true →
    s.power.phase = .run ∨ s.power.phase = .held →
    (q.conn = 0 → s.secure.lifecycle = 2 → s.secure.polders = [] →
      ∃ t, exec (.lifecycleTransition n true true) s = .next t ∧ t.secure.lifecycle = 3 ∧ t.secure.sealed = false ∧
        (∀ e, t.restorePolder e = t) ∧ t.resume.nor0 = none ∧ t.resume.nor1 = none ∧ t.courses = [] ∧ t.tensors = [] ∧
        t.stackTab = [] ∧ t.host.inflight = [] ∧ (∃ o, t.out = o ++ [.spdm 0 .tokenAccepted]) ∧
        ∀ m g w, exec (.lifecycleTransition m g w) t = .next t ∨
          ∃ c e, exec (.lifecycleTransition m g w) t = .next (t.emit (.spdm c (.error e)))) ∧
    (∀ g w, q.conn ≠ 0 ∨ g = false ∨ w = false ∨ s.secure.lifecycle ≠ 2 ∨ s.secure.polders ≠ [] →
      exec (.lifecycleTransition n g w) s = .next (s.emit (.spdm q.conn (.error .invalidRequest))))

/-! ## The network -/

/-- DATA (R345, R346, R354, R382): a packet that passes and is next in order takes effect once and advances the PSN. A contribution
of the running attempt is kept for its instance; a block, row or answer tile joins its expert's request or work, one of a
lower attempt brings nothing (R361); a packet that does not end its tile brings nothing yet.
Completion, under conditions on the state and the operands alone, is stated for: dnData. -/
def Obligations.DataTakesEffectInOrder : Prop :=
  ∀ (s : State) (port peer : Nat) (h : DnHdr) (m : NetMsg) (quiet : Bool), s.passes port peer h m = true →
    s.inTurn peer h = true →
    (m = .frag → ∃ t, exec (.dnData port peer h m quiet) s = .next t ∧ s.advanced t peer ∧ s.wire t s.net) ∧
    (∀ c st p veto x k, m = .part c st p veto x → s.course c = some k → staleEpoch k.epoch h.epoch = false →
      h.attempt = k.attempt →
      ∃ t, exec (.dnData port peer h m quiet) s = .next t ∧ s.advanced t peer ∧
        s.wire t { s.net with inbox := s.net.inbox ++
          [{ device := peer, key := { step := k.step, course := c, station := st, port := p }, leg := h.leg, veto := veto || h.veto
             load := x }] }) ∧
    (∀ k x r, m = .block k x → s.answerStale k h = false → (∀ c, s.course k.course = some c → h.attempt = c.attempt) →
      s.request k = some r → r.owner = peer → r.done = false →
      ∃ t, exec (.dnData port peer h m quiet) s = .next t ∧ s.advanced t peer ∧
        t.request k = some (if r.shipped then r else { r with blocks := r.blocks ++ [x] }) ∧
        s.wire t { s.net with requests := t.net.requests, cache := t.net.cache }) ∧
    (∀ k x r, m = .answer k x → s.answerStale k h = false → (∀ c, s.course k.course = some c → h.attempt = c.attempt) →
      s.request k = some r → r.owner = peer → r.done = false →
      ∃ t, exec (.dnData port peer h m quiet) s = .next t ∧ s.advanced t peer ∧
        t.request k = some (if r.shipped then { r with answers := r.answers ++ [x] } else r) ∧
        s.wire t { s.net with requests := t.net.requests }) ∧
    (∀ k x, m = .rows k x → (∀ w ∈ s.net.served, s.course w.key.course = none) →
      (∀ c, s.knownCourse k.course = some c → staleEpoch c.epoch h.epoch = false → h.attempt = c.attempt) →
      ∃ t, exec (.dnData port peer h m quiet) s = .next t ∧ s.advanced t peer ∧
        s.wire t { s.net with served := s.net.served.map (fun (w : Served) =>
          if w.peer = peer ∧ w.key = k then { w with rows := w.rows ++ [x] } else w) }) ∧
    (∀ k x c, m = .block k x → s.knownCourse k.course = some c → staleEpoch c.epoch h.epoch = false → h.attempt < c.attempt →
      ∃ t, exec (.dnData port peer h m quiet) s = .next t ∧ s.advanced t peer ∧ s.wire t s.net) ∧
    (∀ k x, m = .block k x → s.answerStale k h = true → s.knownCourse k.course = s.course k.course →
      ∃ t, exec (.dnData port peer h m quiet) s = .next t ∧ s.advanced t peer ∧ t.net.requests = s.net.requests ∧
        t.net.cache = s.net.cache ∧ t.logTotal = s.logTotal + 1 ∧
        t.regF .expertStat 0 63 32 = min (2 ^ 32 - 1) (s.regF .expertStat 0 63 32 + 1))

/-- Duplicates and gaps (R345): a packet whose PSN came before is dropped, its credit with it, and acknowledged again where the port
sends; one that is ahead of its turn waits in its session and brings nothing yet.
Timers (R345): 64 µs after its last transmission a packet goes again, and with the eighth attempt its session closes, which is
logged, and OPEN goes out for another; 2 µs after a packet its acknowledgement goes by itself; a gap of 8 µs is answered with NAK of the PSN that is
missing.
Completion, under conditions on the state and the operands alone, is stated for: retransmitTimeout, ackTimer,
nakTimer. -/
def Obligations.DuplicatesGapsAndTimers : Prop :=
  (∀ (s : State) (port peer : Nat) (h : DnHdr) (x : Tile) (k : ExpertKey) (quiet : Bool),
     s.passes port peer h (.rows k x) = true →
     (psnBefore h.psn (s.session peer).rxNext = true →
       (s.portSends port = false → exec (.dnData port peer h (.rows k x) quiet) s = .next s) ∧
       (s.portSends port = true →
         ∃ t h', exec (.dnData port peer h (.rows k x) quiet) s = .next t ∧ s.wire t s.net ∧
           (t.session peer).rxNext = (s.session peer).rxNext ∧ (t.session peer).room = (s.session peer).room ∧
           (t.session peer).unacked = (s.session peer).unacked ∧ h'.ackPsn = (s.session peer).rxNext ∧
           t.out = s.out ++ [.packet peer port h' .ack (s.frame peer h' .ack [])])) ∧
     (psnBefore h.psn (s.session peer).rxNext = false → h.psn ≠ (s.session peer).rxNext →
       (∀ y ∈ (s.session peer).held, y.1.psn ≠ h.psn ∧ y.1.psn ≠ (s.session peer).rxNext) →
       ∃ t, exec (.dnData port peer h (.rows k x) quiet) s = .next t ∧ s.wire t s.net ∧
         (t.session peer).rxNext = (s.session peer).rxNext ∧
         (t.session peer).held = (s.session peer).held ++ [(h, .rows k x)])) ∧
  (∀ (s : State) (peer psn dst : Nat), s.hostUp = true →
     (∀ p, (s.session peer).unacked.find? (fun x => decide (x.hdr.psn = psn)) = some p →
       (p.retries < 7 → s.sendPort (s.guardedMsg p.msg) (some p.port) = some dst →
         ∃ t, exec (.retransmitTimeout peer psn) s = .next t ∧ s.wire t s.net ∧
           t.out = s.out ++ [.packet peer dst { p.hdr with retx := true, ackPsn := (s.session peer).rxNext } p.msg
             (s.frame peer { p.hdr with retx := true, ackPsn := (s.session peer).rxNext } p.msg p.data)]) ∧
       (7 ≤ p.retries →
         ∃ t, exec (.retransmitTimeout peer psn) s = .next t ∧ (t.session peer).closed = true ∧
           (t.session peer).isOpen = false ∧ (t.session peer).unacked = [] ∧ t.logTotal = s.logTotal + 1 ∧
           t.courses = s.courses ∧
           (s.mute = false → s.sendPort false none = some dst →
             ∃ hdr, t.out = s.out ++ [.packet peer dst hdr (.openReq s.offeredVersion)
               (s.frame peer hdr (.openReq s.offeredVersion) (toLe 1 s.offeredVersion))]))) ∧
     (s.sendPort false none = some dst → s.mute = false →
       (0 < (s.session peer).sinceAck →
         ∃ t hdr, exec (.ackTimer peer) s = .next t ∧ s.wire t s.net ∧ (t.session peer).sinceAck = 0 ∧
           t.out = s.out ++ [.packet peer dst hdr .ack (s.frame peer hdr .ack [])] ∧ hdr.ackPsn = (s.session peer).rxNext) ∧
       ((s.session peer).held ≠ [] →
         ∃ t hdr, exec (.nakTimer peer) s = .next t ∧ s.wire t s.net ∧
           t.out = s.out ++ [.packet peer dst hdr (.nak (s.session peer).rxNext)
             (s.frame peer hdr (.nak (s.session peer).rxNext) (toLe 4 (s.session peer).rxNext))])) ∧
     ((s.session peer).sinceAck = 0 → exec (.ackTimer peer) s = .next s) ∧
     ((s.session peer).held = [] → exec (.nakTimer peer) s = .next s))

/-- Packets without a PSN (R344 to R346, R364): an acknowledgement removes what it covers and its credit adds room; CREDIT may name
an exchange instance; NAK sends the packet again with RETX; OPEN opens the session at the lower version and is
answered with an id and 64 units of credit; OPEN_ACK opens the other direction; CLOSE closes it; a REPLY is logged.
Completion, under conditions on the state and the operands alone, is stated for: dnAck, dnCredit, dnNak, dnOpen,
dnOpenAck, dnClose, dnReply. -/
def Obligations.SessionsOpenAcknowledgeAndClose : Prop :=
  ∀ (s : State) (port peer : Nat) (h : DnHdr) (quiet : Bool) (q : DnSession), s.session peer = q → q.queue = [] →
    (s.passes port peer h .ack = true →
      ∃ t, exec (.dnAck port peer h quiet) s = .next t ∧ s.wire t s.net ∧ t.out = s.out ∧
        t.session peer = { q with
          unacked := q.unacked.filter (fun (x : TxPacket) => !psnBefore x.hdr.psn h.ackPsn)
          room := q.room + 4096 * h.credit }) ∧
    (∀ i, s.passes port peer h (.credit (some i)) = true →
      ∃ t, exec (.dnCredit port peer h (some i) quiet) s = .next t ∧ s.wire t s.net ∧ t.out = s.out ∧
        (i.1, i.2.1, i.2.2, h.attempt) ∈ (t.session peer).grants ∧
        (∀ g ∈ q.grants, g ∈ (t.session peer).grants) ∧ (t.session peer).room = q.room + 4096 * h.credit) ∧
    (s.passes port peer h (.credit none) = true →
      ∃ t, exec (.dnCredit port peer h none quiet) s = .next t ∧ s.wire t s.net ∧ t.out = s.out ∧
        (t.session peer).grants = q.grants ∧ (t.session peer).room = q.room + 4096 * h.credit) ∧
    (∀ psn p dst, s.passes port peer h (.nak psn) = true →
      (q.unacked.filter (fun (x : TxPacket) => !psnBefore x.hdr.psn h.ackPsn)).find? (fun x => decide (x.hdr.psn = psn))
        = some p → p.retries < 7 → s.sendPort (s.guardedMsg p.msg) (some p.port) = some dst →
      ∃ t, exec (.dnNak port peer h psn quiet) s = .next t ∧ s.wire t s.net ∧
        t.out = s.out ++ [.packet peer dst { p.hdr with retx := true, ackPsn := q.rxNext } p.msg
          (s.frame peer { p.hdr with retx := true, ackPsn := q.rxNext } p.msg p.data)] ∧
        { p with port := dst, retries := p.retries + 1, hdr := { p.hdr with retx := true, ackPsn := q.rxNext } }
          ∈ (t.session peer).unacked) ∧
    (∀ v, s.passes port peer h (.openReq v) = true → peer ∈ s.peers →
      ∃ t hdr, exec (.dnOpen port peer h v quiet) s = .next t ∧ s.wire t { s.net with nextId := s.net.nextId + 1 } ∧
        (t.session peer).closed = false ∧ (t.session peer).version = min v s.offeredVersion ∧
        (t.session peer).rxId = s.net.nextId ∧ (t.session peer).rxNext = 0 ∧
        (t.session peer).granted = (if s.portSends port = true then 64 * 4096 else 0) ∧
        t.out = s.out ++ (if s.portSends port = true then [.packet peer port hdr (.openAck (min v s.offeredVersion))
          (s.frame peer hdr (.openAck (min v s.offeredVersion)) (toLe 1 (min v s.offeredVersion)))] else []) ∧
        hdr.session = s.net.nextId ∧ hdr.credit = 64) ∧
    (∀ v, s.passes port peer h (.openAck v) = true → peer ∈ s.peers → q.isOpen = false →
      ∃ t, exec (.dnOpenAck port peer h v quiet) s = .next t ∧ s.wire t s.net ∧
        t.session peer = { q with isOpen := true, closed := false, version := v, txId := h.session, room := 4096 * h.credit }) ∧
    (s.passes port peer h .closeReq = true →
      ∃ t, exec (.dnClose port peer h quiet) s = .next t ∧ s.wire t s.net ∧ (t.session peer).isOpen = false ∧
        (t.session peer).closed = true ∧ (t.session peer).rxId = 0 ∧ (t.session peer).unacked = [] ∧
        (t.session peer).held = []) ∧
    (∀ code psn, s.passes port peer h (.reply code psn) = true →
      exec (.dnReply port peer h code psn quiet) s = .next (s.logPort 0x0042 port peer (0x100 + code + 2 ^ 32 * psn)))

/-- Expert traffic (R381, R384, R387): an owner that can read the expert answers FETCH with its blocks of the generation read and ANSWER_END, or with DENY where
its warden refuses, each behind what its session holds; SHIP opens work that waits for rows; ANSWER_END completes the
request; CANCEL drops queued work of older epochs and what of its answers waits; DENY of a shipped expert turns to a fetch, and a second one halts the
station's stream with POLICY_DENIED; one behind the answer of the rows is dropped (Table 14.9).
Completion, under conditions on the state and the operands alone, is stated for: exFetch, exShip, exAnswerEnd,
exCancel, exDeny. -/
def Obligations.ExpertTrafficIsAnswered : Prop :=
  ∀ (s : State) (port peer : Nat) (h : DnHdr) (k : ExpertKey) (quiet : Bool), s.inTurn peer h = true →
    (∀ t E, s.passes port peer h (.fetch k) = true → s.tensor k.operand = some t → s.cancelledWork peer k.course h.epoch = false →
      (s.session peer).isOpen = false →
      expertCount (((s.courses ++ s.copies).find? (fun (c : Course) => c.id = k.course)).bind
        (fun (c : Course) => (c.expertOf k.operand).head?)) = E →
      (∀ cause, s.sendRefused [k.operand] = none →
        t.unreadable ((expertTiles t.desc E k.expert).filter (s.holds t.desc)) = some cause →
        ∃ u, exec (.exFetch port peer h k quiet) s = .next u ∧ s.advanced u peer ∧ u.tensors = s.tensors ∧
          (u.session peer).queue = (s.session peer).queue) ∧
      (s.sendRefused [k.operand] = none →
        t.unreadable ((expertTiles t.desc E k.expert).filter (s.holds t.desc)) = none →
        ∃ u, exec (.exFetch port peer h k quiet) s = .next u ∧ s.advanced u peer ∧ s.wire u s.net ∧
          (u.session peer).queue = (s.session peer).queue
            ++ ((expertTiles t.desc E k.expert).filter (s.holds t.desc)).map (fun i =>
              let x : Tile := { t.current k.operand i with
                hdr := { (t.current k.operand i).hdr with gen := t.genNo % 2 ^ 16 } }
              ({ s.expertHdr k h.epoch h.attempt with len := s.payloadBytes x }, .block k x))
            ++ [({ s.expertHdr k h.epoch h.attempt with device := true, len := 17 }, .answerEnd k)]) ∧
      (∀ d, s.sendRefused [k.operand] = some d →
        ∃ u, exec (.exFetch port peer h k quiet) s = .next u ∧ s.advanced u peer ∧ u.regs = (s.countDenial d.1 d.2).regs ∧
          (u.session peer).queue = (s.session peer).queue
            ++ [({ s.expertHdr k h.epoch h.attempt with device := true, len := 17 }, .deny k)])) ∧
    (s.passes port peer h (.ship k) = true → s.cancelledWork peer k.course h.epoch = false →
      ∃ u, exec (.exShip port peer h k quiet) s = .next u ∧ s.advanced u peer ∧
        ({ peer := peer, key := k, epoch := h.epoch, attempt := h.attempt } : Served) ∈ u.net.served ∧
        (∀ w ∈ s.net.served, w.peer ≠ peer ∨ w.key ≠ k → w ∈ u.net.served) ∧
        s.wire u { s.net with served := u.net.served }) ∧
    (∀ r, s.passes port peer h (.answerEnd k) = true → s.answerStale k h = false →
      (∀ c, s.course k.course = some c → c.attempt ≤ h.attempt) → s.request k = some r → r.owner = peer →
      r.done = false →
      ∃ u, exec (.exAnswerEnd port peer h k quiet) s = .next u ∧ s.advanced u peer ∧
        u.request k = some { r with done := true } ∧ u.tensors = s.tensors ∧ u.steps = s.steps ∧
        u.courses.map (·.id) = s.courses.map (·.id)) ∧
    (s.passes port peer h (.cancel k) = true →
      ∃ u, exec (.exCancel port peer h k quiet) s = .next u ∧ s.advanced u peer ∧
        (∀ x ∈ (u.session peer).queue, ∀ j, answerOf x.2 = some j → j.course = k.course →
          staleEpoch h.epoch x.1.epoch = false) ∧
        s.wire u { s.net with
          cancels := s.net.cancels.filter (fun (q : Cancelled) => !(decide (q.peer = peer ∧ q.course = k.course)))
            ++ [{ peer := peer, course := k.course, epoch := h.epoch }]
          served := s.net.served.filter (fun (w : Served) =>
            !(decide (w.peer = peer ∧ w.key.course = k.course) && staleEpoch h.epoch w.epoch)) }) ∧
    (∀ r c st g, s.passes port peer h (.deny k) = true → s.answerStale k h = false → s.request k = some r → r.owner = peer →
      r.done = false → s.course k.course = some c → c.attempt ≤ h.attempt → c.station k.station = some st → r.shipped = true →
      c.groupOf st = some g →
      (r.answers ≠ [] →
        ∃ u, exec (.exDeny port peer h k quiet) s = .next u ∧ s.advanced u peer ∧ u.request k = some r ∧ u.courses = s.courses ∧
          u.log = s.log) ∧
      (r.answers = [] → r.denied.contains false = false →
        ∃ u, exec (.exDeny port peer h k quiet) s = .next u ∧ s.advanced u peer ∧
          u.request k = some { r with shipped := false, sent := true, denied := true :: r.denied, blocks := [], answers := [] } ∧
          u.courses = s.courses ∧ u.log = s.log) ∧
      (r.answers = [] → r.denied.contains false = true → c.halt = none →
        ∃ u e, exec (.exDeny port peer h k quiet) s = .next u ∧ s.advanced u peer ∧ u.course k.course = some e ∧
          (∃ x, e.halt = some { status := 0x0014, detail := 0, id := x, stream := true }) ∧ u.logTotal = s.logTotal + 1))

/-- Violations (R364 to R366): a packet that breaks a check of Table 13.7 is dropped, counted in its class's field of PORT_VIOL and logged;
it is answered with its class unless it is a REPLY, the rate of replies is used up or the port sends nothing (R409); a port over
VIOL_LIMIT in its window isolates and answers with code 6. The window's end lets every port count afresh under the limit in force. A
frame that fails MACsec's checks, a packet number that has been passed among them, counts in PORT_CNT (R339), and so do the FEC
codewords that the port met.
Completion, under conditions on the state and the operands alone, is stated for: dunnathViolation, violWindow,
ethFrameDropped. -/
def Obligations.ViolationsAreCountedAndIsolate : Prop :=
  (∀ (s : State) (port peer cls psn : Nat) (h : DnHdr) (m : NetMsg) (raw : List Byte) (answered : Bool), s.hostUp = true →
    s.portTakes port = true → port < s.part.ports → s.mute = false → 1 ≤ cls → cls ≤ 5 →
    (raw ≠ [] ∧ malformedBytes raw = true ∧ cls = 1 ∧ psn = leAt raw 8 4 ∧ answered = (s.portSends port && leAt raw 0 1 % 16 != 9) ∨
      raw = [] ∧ s.brokenBy peer h m = some cls ∧ psn = h.psn ∧ answered = (s.portSends port && !isReply m)) →
    ∃ n, n = (if s.net.fresh.contains port = true then 0 else FMap.get (fun _ => 0) s.net.window port + 1) ∧
      (n ≤ s.net.limit → ∀ quiet,
        ∃ t, exec (.dunnathViolation port peer h m raw quiet) s = .next t ∧
          t.regF .portViol port (violField cls).1 (violField cls).2
            = min 4095 (s.regF .portViol port (violField cls).1 (violField cls).2 + 1) ∧
          FMap.get (fun _ => 0) t.net.window port = n ∧ t.logTotal = s.logTotal + 1 ∧ t.portUp port = true ∧
          t.net.inbox = s.net.inbox ∧ t.courses = s.courses ∧ t.tensors = s.tensors ∧
          ((quiet = true ∨ answered = false) → t.out = s.out) ∧
          (quiet = false → answered = true → ∃ hdr, t.out = s.out ++ [.packet peer port hdr (.reply cls psn)
            (s.frame peer hdr (.reply cls psn) (toLe 1 cls ++ toLe 4 psn))])) ∧
      (s.net.limit < n → ∀ quiet,
        ∃ t hdr, exec (.dunnathViolation port peer h m raw quiet) s = .next t ∧ t.portUp port = false ∧
          getBit (t.reg ⟨.portStat, port, 0⟩) 31 = true ∧ t.logTotal = s.logTotal + 2 ∧
          t.out = s.out ++ (if s.portSends port = true then [.packet peer port hdr (.reply 6 0)
            (s.frame peer hdr (.reply 6 0) (toLe 1 6 ++ toLe 4 0))] else []) ∧ t.courses = s.courses ∧ t.tensors = s.tensors)) ∧
  (∀ s : State, exec .violWindow s
    = .next { s with net := { s.net with window := [], fresh := [], limit := s.regF .netCtl 0 47 32 } }) ∧
  (∀ (s : State) (port : Nat), s.portUp port = true →
    (s.macsecReq port = false → exec (.ethFrameDropped port {}) s = .next s) ∧
    (∀ sub tag, (tag = none ∧ s.macsecReq port = true ∨ ∃ g, tag = some g ∧ ∀ a, s.macsecSa port sub g = some a →
        g.intact = false ∨ g.pn < a.pn) →
      ∃ t, exec (.ethFrameDropped port { sub := sub, tag := tag }) s = .next t ∧
        t.regF .portCnt port 19 0 = min (2 ^ 20 - 1) (s.regF .portCnt port 19 0 + 1) ∧ s.onlyRegs t [⟨.portCnt, port, 0⟩]) ∧
    (∀ sub g a, s.macsecSa port sub g = some a → g.intact = true → a.pn ≤ g.pn →
      exec (.ethFrameDropped port { sub := sub, tag := some g }) s = .next { s with net := { s.net with
        sas := s.net.sas.map (fun x => if x = a then { x with pn := g.pn + 1 } else x) } }) ∧
    (s.macsecReq port = false → ∀ a b, ∃ t, exec (.ethFrameDropped port { corrected := a, uncorrected := b }) s = .next t ∧
      t.regF .portCnt port 63 40 = min (2 ^ 24 - 1) (s.regF .portCnt port 63 40 + a) ∧
      t.regF .portCnt port 39 20 = min (2 ^ 20 - 1) (s.regF .portCnt port 39 20 + b) ∧
      t.regF .portCnt port 19 0 = s.regF .portCnt port 19 0 ∧ s.onlyRegs t [⟨.portCnt, port, 0⟩]))

/-- Links (R337, R345, R524) and commits of groups (R413): a sub-port that trains shows in PORT_STAT; one that goes down is logged and,
with the last link of the port, its unacknowledged packets go out again elsewhere; the loss of a die's Ethernet clock takes the
links of its ports. A committed group whose boundary falls becomes active at once, register by register, and PENDING
clears with the last group; a port switched off by group NET has no link.
Completion, under conditions on the state and the operands alone, is stated for: portLinkUp, portLinkDown,
ethRefclkLoss, commitGroupApply. -/
def Obligations.LinksAndGroupsAtTheirBoundary : Prop :=
  (∀ (s : State) (port sub : Nat), port < s.part.ports → sub < modeSubPorts (s.regF .portCtl port 7 4) →
    getBit (s.reg ⟨.portCtl, port, 0⟩) 0 = true → s.net.noRefclk.contains (port / 4) = false → s.hostUp = true →
    ∃ t, exec (.portLinkUp port sub) s = .next t ∧
      t.regF .portStat port 7 0 = s.regF .portStat port 7 0 ||| 2 ^ sub ∧
      (∀ r : Reg, r.key ≠ Reg.key ⟨.portStat, port, 0⟩ → t.reg r = s.reg r) ∧
      t = { s with regs := { s.regs with active := t.regs.active }, net := { s.net with sessions := t.net.sessions, sas := t.net.sas }
                   out := t.out }) ∧
  (∀ (s : State) (port sub old : Nat), port < s.part.ports → sub < 8 → s.regF .portStat port 7 0 = old →
    old.testBit sub = true →
    ∃ u : State, u.regF .portStat port 7 0 = old - 2 ^ sub ∧ s.onlyRegs u [⟨.portStat, port, 0⟩] ∧
      ((old ≠ 2 ^ sub ∨ ∀ q ∈ s.net.sessions, ∀ p ∈ q.2.unacked, p.port ≠ port) →
        exec (.portLinkDown port sub) s = .next (u.logPort 0x0040 port (old - 2 ^ sub) 0)) ∧
      (∀ peer q p dst, old = 2 ^ sub → s.net.sessions = [(peer, q)] → q.unacked = [p] → p.port = port → p.retries < 7 →
        u.sendPort (u.guardedMsg p.msg) (some port) = some dst →
        ∃ t, exec (.portLinkDown port sub) s = .next t ∧ t.regF .portStat port 7 0 = 0 ∧
          t.out = s.out ++ [.packet peer dst { p.hdr with retx := true, ackPsn := q.rxNext } p.msg
            (s.frame peer { p.hdr with retx := true, ackPsn := q.rxNext } p.msg p.data)])) ∧
  (∀ (s : State) (die : Nat), die < s.part.dies →
    (∃ t, exec (.ethRefclkLoss die true) s = .next t ∧ die ∉ t.net.noRefclk ∧
      t = { s with net := { s.net with noRefclk := t.net.noRefclk } }) ∧
    ((∀ q ∈ s.net.sessions, q.2.unacked = []) →
      ∃ t, exec (.ethRefclkLoss die false) s = .next t ∧ die ∈ t.net.noRefclk ∧
        (∀ i, i < 4 → t.regF .portStat (4 * die + i) 7 0 = 0 ∧ t.portUp (4 * die + i) = false) ∧
        t.net.sessions = s.net.sessions ∧ t.courses = s.courses)) ∧
  (∀ (s : State) (func group : Nat) (p : PendCommit), func < 64 → s.pendCommit func = some p → p.groups.contains group = true →
    eventGroup group = false → (group = 7 → s.mirror = false) → (group = 5 → ∀ q ∈ s.net.sessions, q.2.unacked = []) →
    ∃ t, exec (.commitGroupApply func group) s = .next t ∧
      (∀ r : Reg, s.keyReg r.key = some r → r.kind.group = some group → r.kind ≠ .portStat →
        (match r.kind with
          | .sqBase | .cqBase | .sqCtl | .cqCtl => s.ringFunc r.i = func
          | _ => func = 0) →
        t.reg r = s.keptValue r (FMap.get regDefault p.snap r.key)) ∧
      (∀ r : Reg, s.keyReg r.key = some r → r.kind.group ≠ some group → r.kind ≠ .portStat →
        r.key ≠ Reg.key ⟨.commitStatus, func, 0⟩ → (r.kind ≠ .errlogStat ∨ s.lateBusy func group p.snap = []) →
        t.reg r = s.reg r) ∧
      (p.groups.filter (fun g => g ≠ group) = [] → t.pendCommit func = none ∧
        getBit (t.reg ⟨.commitStatus, func, 0⟩) 31 = false) ∧
      (p.groups.filter (fun g => g ≠ group) ≠ [] →
        t.pendCommit func = some { p with groups := p.groups.filter (fun g => g ≠ group) }) ∧
      (group = 5 → ∀ n, n < s.part.ports → getBit (t.reg ⟨.portCtl, n, 0⟩) 0 = false → t.regF .portStat n 7 0 = 0) ∧
      (s.lateBusy func group p.snap = [] → t.regs.shadow = s.regs.shadow) ∧
      (s.lateBusy func group p.snap ≠ [] → getF (t.reg ⟨.commitStatus, func, 0⟩) 7 0 = 4 ∧
        getF (t.reg ⟨.commitStatus, func, 0⟩) 23 16 ≤ group))

/-- RoCEv2 (R348, R364): a WRITE or SEND packet with the next PSN of its queue pair, whose bytes fit the landing tensor, changes the
tiles that its bytes meet and no others, and is acknowledged, a marked one with a congestion notification too; a
packet that came before is acknowledged again; a request outside the subset is refused and counts as a malformed header. None of
the others changes a tensor.
Completion, under conditions on the state and the operands alone, is stated for: roceWrite, roceSend,
rocev2MalformedRequest. -/
def Obligations.RoceRequestsLandInTheirTensor : Prop :=
  ∀ (s : State) (port peer qp psn part key offset b : Nat) (bytes : List Byte) (ecn write : Bool) (q : RoceQp) (x : Tensor),
    s.hostUp = true → s.portTakes port = true → s.portSends port = true → port < s.part.ports → s.roceQp qp = some q →
    q.psn < 2 ^ 24 → psn < 2 ^ 24 → s.tensor q.tensor = some x →
    (psn = q.psn → s.mayLand q.tensor = true → b + bytes.length ≤ s.halfBytes x.desc → bytes.length ≤ 4096 →
      s.polder x.desc.polder = none →
      (match rocePart part with
        | .first | .only => q.message = none ∧ (if write = true then key = q.key ∧ b = offset else b = 0)
        | .middle | .last => q.message = some write ∧ b = q.next) →
      ∃ (t : State) (y : Tensor),
        (if write = true then exec (.roceWrite port peer qp psn part key offset bytes ecn) s = .next t
          else exec (.roceSend port peer qp psn part bytes ecn) s = .next t) ∧ t.tensor q.tensor = some y ∧ y.desc = x.desc ∧ y.genNo = x.genNo ∧
        (∀ k ∈ s.heldTiles x.desc, y.current q.tensor k
          = if s.imageMeets x.desc false k b bytes.length = true then
              s.patchTile x q.tensor (x.curHalf k) k (b + if x.curHalf k = true then s.halfBytes x.desc else 0) false bytes
            else x.current q.tensor k) ∧
        (∀ j z, j ≠ q.tensor → s.tensor j = some z →
          ∃ w : Tensor, t.tensor j = some w ∧ w.half0 = z.half0 ∧ w.half1 = z.half1 ∧ w.desc = z.desc) ∧
        t.roceQp qp = some { q with psn := (psn + 1) % 2 ^ 24, next := b + bytes.length
                                    message := if part = 0 ∨ part = 1 then some write else none } ∧
        (∀ n, n ≠ qp → t.roceQp n = s.roceQp n) ∧
        t.out = s.out ++ (if ecn = true then [.congestion port q.remote] else []) ++ [.roceReply port q.remote false psn] ∧
        t = { s with tensors := t.tensors, stackTab := t.stackTab, net := { s.net with qps := t.net.qps, sas := t.net.sas }, out := t.out,
                     log := t.log, logTotal := t.logTotal, free := t.free, regs := { s.regs with active := t.regs.active } }) ∧
    ((q.psn + 2 ^ 24 - psn) % 2 ^ 24 ≤ 2 ^ 23 → psn ≠ q.psn →
      exec (.roceWrite port peer qp psn part key offset bytes ecn) s
        = .next ((s.sealFrame port).emit (.roceReply port q.remote false psn)) ∧
      exec (.roceSend port peer qp psn part bytes ecn) s
        = .next ((s.sealFrame port).emit (.roceReply port q.remote false psn))) ∧
    (FMap.get (fun _ => 0) s.net.window port < s.net.limit →
      ∃ t, exec (.rocev2MalformedRequest port peer qp psn) s = .next t ∧ t.tensors = s.tensors ∧
        t.out = s.out ++ [.roceReply port q.remote true psn] ∧ t.logTotal = s.logTotal + 1 ∧
        t.regF .portViol port 11 0 = min 4095 (s.regF .portViol port 11 0 + 1) ∧
        (psn = q.psn → key ≠ q.key → rocePart part = .only →
          exec (.roceWrite port peer qp psn part key offset bytes ecn) s = .next t))

/-! ## The life of a task -/

/-- TASK_ISSUE, STATION_MOVE, STATION_THERMAL_MOVE (R21, R82, R86, R430, R432, R452, R479): a task whose conditions hold gets its
journal entry, its core is charged the estimate and allotted to the task's polder, and its station's place names the core; one
that may not issue changes nothing; a poisoned journal word halts the stream, a corrupt context halts it and abandons the task.
A station at a tile boundary takes the place that the placer gives it, and a stream the buffer that it may have; a core that is
hot for 100 windows sends its station to the coolest core that may take it, and its count of windows starts afresh.
Completion, under conditions on the state and the operands alone, is stated for: taskIssue, stationMove,
stationThermalMove. -/
def Obligations.TasksIssueAndStationsMove : Prop :=
  (∀ (s : State) (o : TaskOrder) (c : Course) (st : Station) (e : JEntry), s.course o.course = some c →
    c.station o.station = some st → s.entryOf c st o = e →
    (s.mayIssue ⟨looseKey, e, c, st⟩ o = false → exec (.taskIssue o) s = .next s) ∧
    (s.mayIssue ⟨looseKey, e, c, st⟩ o = true → o.ce = 0 → o.ue = 0 → o.context = none → o.journal = false →
      ∃ u k q, exec (.taskIssue o) s = .next u ∧ u.entry (journalKey o.core o.slot) = some e ∧ e.state = .issued ∧
        (∀ i, i ≠ journalKey o.core o.slot → u.entry i = s.entry i) ∧ (u.core o.core).allot = s.taskPolder c st ∧
        FMap.get (fun _ => 0) (u.core o.core).energy (chargeKey c.id st.id)
          = FMap.get (fun _ => 0) (s.core o.core).energy (chargeKey c.id st.id) + s.estimate o.core o.counts ∧
        ((s.core o.core).allot ≠ s.taskPolder c st → (u.core o.core).queues = []) ∧
        (∀ n, n ≠ o.core → u.core n = s.core n) ∧ u.course c.id = some k ∧ k.station st.id = some q ∧ (o.reachCount = 0 → q.place.core = o.core) ∧
        ((s.core o.core).allot = s.taskPolder c st →
          u = { s with cores := u.cores, dm := u.dm, journal := u.journal, courses := u.courses })) ∧
    (s.mayIssue ⟨looseKey, e, c, st⟩ o = true → o.ue = 0 → o.context = none → o.journal = false →
      ∃ u, exec (.taskIssue o) s = .next u ∧ u.entry (journalKey o.core o.slot) = some e) ∧
    (s.mayIssue ⟨looseKey, e, c, st⟩ o = true → o.ce = 0 → o.ue = 0 → o.context = none → o.journal = true →
      ∃ u k, exec (.taskIssue o) s = .next u ∧ u.entry (journalKey o.core o.slot) = none ∧ u.course c.id = some k ∧
        k.halt = some { status := 0x0012, detail := 0, id := c.haltStream st.id (.output 0), stream := true } ∧
        ((s.core o.core).allot = s.taskPolder c st → u.logTotal = s.logTotal + 1 ∧
          getF (u.reg ⟨.sramErr, o.core / coresPerDie, 0⟩) 31 16
            = min 65535 (getF (s.reg ⟨.sramErr, o.core / coresPerDie, 0⟩) 31 16 + 1))) ∧
    (∀ x, s.mayIssue ⟨looseKey, e, c, st⟩ o = true → o.ce = 0 → o.ue = 0 → o.context = some x → o.journal = false →
      (∃ y ∈ c.streams, y.id = x) →
      ∃ u k, exec (.taskIssue o) s = .next u ∧ u.course c.id = some k ∧
        u.entry (journalKey o.core o.slot) = some { e with state := .abandoned, finished := false, flags := 0, sums := [] } ∧
        k.halt = some { status := 0x0012, detail := 0, id := x, stream := true } ∧
        (∀ y ∈ k.streams, y.id = x → y.state = .corrupt) ∧
        ((s.core o.core).allot = s.taskPolder c st → u.logTotal = s.logTotal + 1 ∧
          getF (u.reg ⟨.sramErr, o.core / coresPerDie, 0⟩) 31 16
            = min 65535 (getF (s.reg ⟨.sramErr, o.core / coresPerDie, 0⟩) 31 16 + 1)))) ∧
  (∀ (s : State) (course station core me ve mu ports : Nat) (split : Bool) (c : Course) (st : Station),
    s.course course = some c → c.station station = some st → c.active = true → s.issuing = true →
    (c.livePin st = none ∨ c.livePin st = some core) → s.coreOpen core = true → s.atBoundary c st = true →
    c.queuesFit st core = true →
    ∃ u k q, exec (.stationMove course station core me ve mu ports split []) s = .next u ∧ u.course c.id = some k ∧
      k.station station = some q ∧
      q = { st with place := { core := core, me := me, ve := ve % 16, ue := ve.testBit 4, mu := mu, ports := ports, split := split } } ∧
      u = { s with courses := u.courses } ∧
      (∀ (x : Stream) (kind unit n : Nat), k.stream x.id = some x → u.bufferFits k x (bufferOf kind unit n) = true →
        ∃ v g y, exec (.stationMove course station core me ve mu ports split [(x.id, kind, unit, n)]) s = .next v ∧
          v.course c.id = some g ∧ g.stream x.id = some y ∧ y.buffer = bufferOf kind unit n ∧
          y.locator = (bufferOf kind unit n).locator ∧
          (x.queued = false →
            y = { x with buffer := bufferOf kind unit n, locator := (bufferOf kind unit n).locator } ∧
            v = { s with courses := v.courses }))) ∧
  (∀ (s : State) (core target course station : Nat) (c : Course) (st : Station), s.issuing = true →
    100 ≤ (s.core core).hotWindows → 100 ≤ (s.core core).moveWindows →
    (∃ n, (s.core core).energy = [(chargeKey course station, n)]) → station < 2 ^ 20 → s.course course = some c →
    c.station station = some st → c.livePin st = none → s.atBoundary c st = true → c.active = true →
    c.queuesFit st target = true → st.place.core ≠ target → s.moveTarget st core target = true →
    (∀ n, n < s.part.cores → s.moveTarget st core n = true →
      s.sensorTemp (coreSensor target) ≤ s.sensorTemp (coreSensor n)) →
    ∃ u k q, exec (.stationThermalMove core target) s = .next u ∧ u.course c.id = some k ∧ k.station station = some q ∧
      q.place.core = target ∧ (u.core core).moveWindows = 0 ∧ (∀ n, n ≠ core → u.core n = s.core n) ∧
      u = { s with courses := u.courses, cores := u.cores })

/-- TASK_RETIRE, JOURNAL_ENTRY_RETIRE, TASK_REPLAY, ENGINE_HANG (R112, R23, R43, R44, R453 to R455): a finished task whose event line
has a count and whose transfer has given its pulse takes it, merges its flags into its engine and its course, and its entry is DONE; one with a poisoned output is
abandoned and leaves no flag; a DONE entry is freed once nothing needs its tiles; an abandoned task is issued again with the
next ATTEMPT and charged anew (R430), which revives a corrupt context, and after the third replay its stream halts with POISON; a hang is logged,
abandons the tasks of the engine and resets the queues of its core.
Completion, under conditions on the state and the operands alone, is stated for: taskRetire, journalEntryRetire,
taskReplay, engineHang. -/
def Obligations.TasksRetireAndReplay : Prop :=
  (∀ (s : State) (j : Nat) (e : JEntry) (c : Course), s.entry j = some e → s.course e.course = some c → e.state = .issued →
    e.finished = true → s.pulseCome e = true → c.unsent e = false → c.running = true → s.issuing = true →
    (∃ u, exec (.taskRetire j) s = .next u ∧
      u.entry j = some (if e.poisoned = true then { e with state := .abandoned, finished := false, flags := 0, sums := [] }
        else { e with state := .done }) ∧ ∀ i, i ≠ j → u.entry i = s.entry i) ∧
    (s.net.served = [] → (∀ st ∈ c.stations, isProduct st.typ = false) →
      (∀ st ∈ c.stations, (s.core st.place.core).thermal ≠ .hold) →
      (e.poisoned = true → ∃ u, exec (.taskRetire j) s = .next u ∧ u.regs = s.regs ∧ u.courses = s.courses ∧
        ∀ l, e.line = some l → FMap.get (fun _ => 0) (u.core e.core).lines (l % 64) + 1
          = FMap.get (fun _ => 0) (s.core e.core).lines (l % 64)) ∧
      (e.poisoned = false → (∀ id ∈ c.writes, ∀ t, s.tensor id = some t → t.desc.sparse = false) →
        ∃ u k, exec (.taskRetire j) s = .next u ∧ u.course c.id = some k ∧ k.flags = (c.flags ||| e.flags) ∧
          (∀ r, e.flagReg = some r → u.reg r = (s.reg r ||| BitVec.ofNat 64 (e.flags % 32)) ∧
            ∀ q : Reg, q.key ≠ r.key → u.reg q = s.reg q) ∧
          (e.flagReg = none → u.regs = s.regs) ∧
          (∀ l, e.line = some l → FMap.get (fun _ => 0) (u.core e.core).lines (l % 64) + 1
            = FMap.get (fun _ => 0) (s.core e.core).lines (l % 64)) ∧
          (e.reachCount = 0 → ∀ st, k.station e.station = some st → e.tile ∈ st.done) ∧ u.tensors = s.tensors))) ∧
  (∀ (s : State) (j : Nat) (e : JEntry) (c : Course), s.entry j = some e → s.course e.course = some c → e.state = .done →
    ((∀ x ∈ c.streams, x.prod = e.station → x.completion = false →
        s.reached c x e.tile = true ∧ ∀ t ∈ x.tiles ++ x.waiting, s.reached c x t.hdr.index = true) →
      exec (.journalEntryRetire j) s = .next (s.setEntry j none)) ∧
    ((∃ x ∈ c.streams, x.prod = e.station ∧ x.completion = false ∧ x.prodPort = 0 ∧
        (∃ st, c.station e.station = some st ∧ st.typ ≠ stRoute ∧ st.typ ≠ stVec ∧ st.typ ≠ stAttend) ∧
        s.reached c x e.tile = false) →
      exec (.journalEntryRetire j) s = .next s)) ∧
  (∀ (s : State) (j engine core index : Nat) (e : JEntry) (c : Course) (st : Station), s.entry j = some e →
    s.course e.course = some c → c.station e.station = some st → e.state = .abandoned → c.revived.active = true →
    s.issuing = true → s.mayRerun c st e engine core index = true →
    (e.attempt < 3 → s.copyBroken c st e.tile = false →
      ∃ u k, exec (.taskReplay j engine core index) s = .next u ∧
        u.entry j = some { e with
          state := .issued, attempt := e.attempt + 1, engine := engine, core := core, index := index
          finished := false, flags := 0, poisoned := false, copies := [], landed := false, sums := []
          sys := (s.sysAgain e.sys).getD none } ∧
        ((s.core core).allot = s.taskPolder c st →
          FMap.get (fun _ => 0) (u.core core).energy (chargeKey c.id st.id)
            = FMap.get (fun _ => 0) (s.core core).energy (chargeKey c.id st.id) + s.estimate core e.counts) ∧
        (∀ i, i ≠ j → u.entry i = s.entry i) ∧ (u.core core).allot = s.taskPolder c st ∧
        (∀ n, n ≠ core → u.core n = s.core n) ∧ u.course c.id = some k ∧ k.halt = none ∧
        (c.corrupted = true → ∀ x ∈ k.streams, x.state ≠ .corrupt) ∧
        ((s.core core).allot = s.taskPolder c st →
          u = { s with cores := u.cores, dm := u.dm, journal := u.journal, courses := u.courses })) ∧
    (3 ≤ e.attempt →
      ∃ u k, exec (.taskReplay j engine core index) s = .next u ∧ u.entry j = none ∧ u.course c.id = some k ∧
        k.halt = some { status := 0x0012, detail := 0, id := c.haltStream st.id st.haltSide, stream := true } ∧
        u.logTotal = s.logTotal + 1 ∧ u.tensors = s.tensors)) ∧
  (∀ (s : State) (engine core index now : Nat), s.issuing = true → (s.core core).idle = false →
    (s.heldOn core).any (fun e => decide (e.engine = engine ∧ e.index = index)) = true →
    FMap.wf (fun _ => (none : Option JEntry)) s.journal = true → core < s.part.cores → s.coreRetired core = false →
    ∃ u, exec (.engineHang engine core index now) s = .next u ∧
      ((s.core core).hangs = [] → (u.core core).queues = [] ∧ (u.core core).hangs = [now] ∧ u.logTotal = s.logTotal + 1 ∧
        (∀ j e, s.entry j = some e → e.state = .issued → e.core = core → e.engine = engine → e.index = index →
          u.entry j = some { e with state := .abandoned, finished := false, flags := 0, sums := [] })) ∧
      ((s.core core).hangs = [] → (∀ c ∈ s.courses, ∀ x ∈ c.streams, ∀ q, x.buffer ≠ .queue core q) →
        u.courses = s.courses ∧ u.tensors = s.tensors ∧
        (∀ j e, s.entry j = some e → e.state ≠ .issued ∨ e.core ≠ core ∨ e.engine ≠ engine ∨ e.index ≠ index →
          u.entry j = some e)) ∧
      (∀ a b, (s.core core).hangs = [a, b] → now < a + 2 ^ 30 → now < b + 2 ^ 30 → (u.core core).retired = true))

/-- DMA events (R310 to R312) and the spillway (R33, R57, R315): the transfer of a task that has written its last byte pulses its event
line once; a bus error halts its channel, which latches the address, the direction and the cause, abandons the task without
replay, and halts the station's stream with BUS_ERROR; a displaced tile leaves CM and DM and is noted: one as its home has it
writes nothing, a written one of no home slot goes to its stream's space, encrypted for a polder and marked where poisoned, and one
for which there is no place stays; a word of the copy that cannot be corrected poisons the tile and is counted (R314), while
a task that reads the tile goes on with the copy it fetched (R34).
Completion, under conditions on the state and the operands alone, is stated for: dmaTransferDone, dmaBusError, spill. -/
def Obligations.TransfersPulseAndFail : Prop :=
  (∀ (s : State) (j now l : Nat) (e : JEntry), s.entry j = some e → e.line = some l → e.finished = true →
    e.landed = false → FMap.get (fun _ => 0) (s.core e.core).lines (l % 64) ≠ 65535 →
    ∃ u, exec (.dmaTransferDone j now) s = .next u ∧ u.entry j = some { e with landed := true } ∧
      FMap.get (fun _ => 0) (u.core e.core).lines (l % 64) = FMap.get (fun _ => 0) (s.core e.core).lines (l % 64) + 1 ∧
      (∀ i, i ≠ j → u.entry i = s.entry i) ∧ u = { s with cores := u.cores, journal := u.journal } ∧
      exec (.dmaTransferDone j now) u = .next u) ∧
  (∀ (s : State) (j unit ch addr cause : Nat) (sys write : Bool) (e : JEntry) (c : Course) (st : Station),
    s.entry j = some e → s.course e.course = some c → c.station e.station = some st → e.state = .issued →
    e.usesChannel sys unit ch = true → busCauseOk sys write cause = true → c.halt = none → addr < 2 ^ 64 →
    (dmaRegs sys unit ch).1.key ≠ (dmaRegs sys unit ch).2.key →
    (dmaRegs sys unit ch).1.key ≠ Reg.key ⟨.errlogStat, 0, 0⟩ → (dmaRegs sys unit ch).2.key ≠ Reg.key ⟨.errlogStat, 0, 0⟩ →
    ∃ u k, exec (.dmaBusError j sys unit ch addr write cause) s = .next u ∧ u.entry j = none ∧
      (∀ i, i ≠ j → u.entry i = s.entry i) ∧ u.course c.id = some k ∧
      k.halt = some { status := 0x0013, detail := cause, id := c.haltStream st.id st.haltSide, stream := true } ∧
      u.logTotal = s.logTotal + 1 ∧
      getBit (u.reg (dmaRegs sys unit ch).1) 31 = true ∧ getBit (u.reg (dmaRegs sys unit ch).1) 30 = write ∧
      getF (u.reg (dmaRegs sys unit ch).1) 27 24 = cause ∧
      getF (u.reg (dmaRegs sys unit ch).1) 15 0 = min 65535 (getF (s.reg (dmaRegs sys unit ch).1) 15 0 + 1) ∧
      u.reg (dmaRegs sys unit ch).2 = BitVec.ofNat 64 addr ∧ u.tensors = s.tensors) ∧
  (∀ (s : State) (course stream tile : Nat) (c : Course) (x : Stream) (t : Tile),
    s.course course = some c → c.stream stream = some x →
    (x.tiles ++ x.waiting).find? (fun y => decide (y.hdr.index = tile)) = some t → c.active = true → x.queued = false →
    x.spilled.contains tile = false → x.state ≠ .halted →
    (s.canSpill c x t = false → exec (.spill course stream tile {}) s = .next s) ∧
    (s.canSpill c x t = true → (s.sameAsHome t = true ∨ s.spillReady (s.slotAt course stream tile) = true) →
    FMap.wf (fun _ => ({} : Core)) s.cores = true →
    ∃ u k y, exec (.spill course stream tile {}) s = .next u ∧ u.course course = some k ∧ k.stream stream = some y ∧
      tile ∈ y.spilled ∧ y.tiles = x.tiles ∧ y.waiting = x.waiting ∧
      (s.sameAsHome t = true ∨ s.homeSlotFree c x t = false → u.tensors = s.tensors) ∧
      (∀ n, ∀ g ∈ (u.cm n).slots, g.course = course → g.stream = stream → g.tile = tile → g.written = false) ∧
      (s.sameAsHome t = true → u = { s with courses := u.courses, cores := u.cores, dm := u.dm }) ∧
      (s.sameAsHome t = false → s.homeSlotFree c x t = false →
        ∀ (p : Space) (q : Tensor) (bs : List Byte) (stack line : Nat → Nat), x.space = some p → p.stackIds ≠ [] →
          p.stackIds.Nodup → s.tensor x.tensor = some q → bs = t.headerBytes ++ q.desc.tilePayload t →
          (∀ i, p.home.homeByte (s.spaceByte c x tile + 64 * i) = (stack i, 64 * line i)) →
          (∀ n i, s.lineKey n i ≠ some none) →
          (∀ i, i < ceilDiv bs.length 64 →
            (u.stack (stack i)).line (line i) = (if t.hdr.poison = true then markedLine else goodLine)
              (cipher true ((s.lineKey (stack i) (line i)).getD none) (stack i) (line i) (fitBytes 64 ((bs.drop (64 * i)).take 64)))) ∧
          (∀ m j, (∀ i, i < ceilDiv bs.length 64 → m ≠ stack i ∨ j ≠ line i) → (u.stack m).line j = (s.stack m).line j)) ∧
      (∀ n die, s.sameAsHome t = false → s.slotAt course stream tile = some (false, die) → die < 4 → 0 < n →
        ∃ v k y, exec (.spill course stream tile { ue := n }) s = .next v ∧ v.course course = some k ∧
          k.stream stream = some y ∧ tile ∈ y.spilled ∧
          (∀ z ∈ y.tiles ++ y.waiting, z.hdr.index = tile → z.hdr.poison = true) ∧
          (∀ j e, s.entry j = some e → e.state = .issued → e.finished = false → e.course = c.id → e.station = x.cons →
            e.copies = [] → (∃ st, c.station x.cons = some st ∧ (x.consPort, tile) ∈ s.taskNeeds (taskOf c st e.tile)) →
            v.entry j = some { e with copies := [(x.consPort, t)] }) ∧
          getF (v.reg ⟨.sramErr, die, 0⟩) 31 16 = min 65535 (getF (s.reg ⟨.sramErr, die, 0⟩) 31 16 + n))))

/-- EXCHANGE, FENCE and probes (R59, R262, R352, R354, R363): an instance whose channel is free takes it, counts it and names itself; one
that runs on its channel and has every contribution emits its chunks and is done; a step between exchange steps
folds into the accumulator instead; a FENCE closes once its input streams are drained; the probe of a tensor that lies on one
device sets its outer scale from its own amax.
Completion, under conditions on the state and the operands alone, is stated for: exchangeInstance, exchangeAccumulate,
fenceStation, probeRun. -/
def Obligations.ExchangesFencesAndProbesComplete : Prop :=
  (∀ (s : State) (course station port die : Nat) (t : Task) (ps : List MeshEntry),
    s.looseTask course station stExchange = some t → s.exchangeDue t = true → t.st.done.contains port = false → port < t.st.inPorts →
    s.readStop t = none → s.exchangeBad t = none → s.participants (t.st.p 2 1) = ps → t.exchangeStep = true →
    (t.st.p 3 1 = 0 ∨ s.oldPeer ps = none) →
    (s.chan (t.st.p 5 1)).current = none → s.inChannelOrder t port = true → (s.heldTiles (s.descOf (t.inId port))).all (fun k => (t.tile? port k).isSome) = true →
    (s.poldersOf [t.inId port]).findSome? (fun p => (s.egressCause p false .portSend).map (fun c => (p, c))) = none →
    (s.startInstance t port ps).xReady t port ps = false →
    ∃ u, exec (.exchangeInstance course station port die) s = .next u ∧
      u.chan (t.st.p 5 1) = { count := (s.chan (t.st.p 5 1)).count + 1, current := some (t.xkey port) } ∧
      (∀ n, n ≠ t.st.p 5 1 → u.chan n = s.chan n) ∧ u.tensors = s.tensors ∧ u.net.inbox = s.net.inbox ∧ u.regs = s.regs) ∧
  (∀ (s : State) (course station port die : Nat) (t : Task) (ps : List MeshEntry) (outs : List (Nat × XOut)),
    s.looseTask course station stExchange = some t → s.exchangeDue t = true → t.st.done.contains port = false → port < t.st.inPorts →
    s.readStop t = none → s.exchangeBad t = none → s.participants (t.st.p 2 1) = ps → t.exchangeStep = true →
    (t.st.p 3 1 = 0 ∨ s.oldPeer ps = none) →
    t.st.id = station → (s.chan (t.st.p 5 1)).current = some (t.xkey port) → s.xReady t port ps = true →
    outs.map (·.1) = s.xChunks t port → (∀ o ∈ outs, s.xChunk t port o.1 ps = .ok o.2) →
    s.wardenTask t (if t.st.p 0 1 = 2 then none else some ps.length) (fun _ => false) = none →
    (∀ id, s.needsProbe t.c id = false) →
    ∃ u c st, exec (.exchangeInstance course station port die) s = .next u ∧ u.course t.c.id = some c ∧
      c.station station = some st ∧ port ∈ st.done ∧
      (∀ o ∈ outs, (∀ q ∈ outs, q.2.tile.hdr.index = o.2.tile.hdr.index → q = o) → u.carries t port o.2.tile) ∧
      (t.c.stepMode = true → (∃ o ∈ outs, o.2.veto = true) → c.veto = true)) ∧
  (∀ (s : State) (course station port die : Nat) (t : Task),
    s.looseTask course station stExchange = some t → s.exchangeDue t = true → t.st.done.contains port = false → port < t.st.inPorts →
    s.readStop t = none → s.exchangeBad t = none → t.exchangeStep = false →
    (t.st.p 3 1 = 0 ∨ s.oldPeer (s.participants (t.st.p 2 1)) = none) →
    (s.heldTiles (s.descOf (t.inId port))).all (fun k => (t.tile? port k).isSome) = true →
    s.wardenTask t none (fun _ => false) = none →
    ∃ u c st, exec (.exchangeAccumulate course station port die) s = .next u ∧ u.course t.c.id = some c ∧
      c.station station = some st ∧ port ∈ st.done ∧ u.net = s.net ∧ u.out = s.out ∧ u.journal = s.journal ∧
      (∀ a, s.tensor (t.st.p 12 3) = some a → a.view = none → ∀ id x, id ≠ t.st.p 12 3 → s.tensor id = some x →
        ∃ y : Tensor, u.tensor id = some y ∧ y.half0 = x.half0 ∧ y.half1 = x.half1 ∧ y.desc = x.desc)) ∧
  (∀ (s u : State) (course station : Nat) (t : Task) (c : Course) (st : Station),
    s.looseTask course station stFence = some t → s.closeUp course = u → u.course course = some c →
    c.station station = some st → st.id = station →
    (c.inputsDrained st = false → exec (.fenceStation course station) s = .next u) ∧
    (c.inputsDrained st = true →
      ∃ v k q, exec (.fenceStation course station) s = .next v ∧ v.course course = some k ∧ k.station station = some q ∧
        q.closed = true ∧ v = { s with courses := v.courses, cores := v.cores, dm := v.dm })) ∧
  (∀ (s : State) (course tensor : Nat) (c : Course) (t : Tensor), s.course course = some c → s.tensor tensor = some t →
    c.active = true → s.issuing = true → s.needsProbe c tensor = true → s.probeRan c tensor = true →
    (s.shardedAway tensor = false ∨ s.peers = [] →
      ∃ u, exec (.probeRun course tensor) s = .next u ∧
        u.tensor tensor = some { t with weir := { t.weir with
          seen := true, probe := some (powTwo (weirExp t.desc.elemCode t.weir.probeAmax)), probeBy := course } } ∧
        (∀ n, n ≠ tensor → u.tensor n = s.tensor n) ∧ u = { s with tensors := u.tensors } ∧ u.needsProbe c tensor = false) ∧
    (s.shardedAway tensor = true → s.peers ≠ [] → s.peerProbes c tensor = none → c.probeSent.contains tensor = false →
      ∃ u k, exec (.probeRun course tensor) s = .next u ∧ u.tensors = s.tensors ∧ u.course course = some k ∧
        tensor ∈ k.probeSent ∧ u.journal = s.journal))

/-! ## Station tasks -/

/-- LOAD and GATHER (R292 to R294, R308): a LOAD task emits its tile of SRC, plain or permuted, of a host image, or filled, and a GATHER
task the tile that its list entry names; a broken parameter of either halts the stream with FORMAT, an entry that names no held tile
with INDEX. No home changes.
Completion, under conditions on the state and the operands alone, is stated for: loadTask, gatherTask. -/
def Obligations.LoadsEmitTheirTiles : Prop :=
  ∀ (s : State) (t : Task) (image : List Byte) (part : Nat → Bool), s.runs t none part →
    (t.st.typ = stLoad → s.loadBad t = none → (s.loadTiles t.c t.st).contains t.e.tile = true →
      (∀ x, t.st.p 0 1 = 0 →
        (if t.st.permIsId (s.descOf (t.st.p 4 3)).rank = true then s.plainTile t (t.st.p 4 3) t.e.tile
          else s.permutedTile t (t.st.p 4 3) t.e.tile) = x →
        (∀ id, part id = (x.hdr.longSum && decide (t.outId 0 = id))) →
        ∃ u, exec (.loadTask t.j image) s = .next u ∧ s.ended u t x.hdr.poison 0 [(0, x)] ∧ s.inTasks u) ∧
      (∀ x, t.st.p 0 1 = 1 → s.ideCause (s.polderOf (t.outId 0)) (t.st.p 32 8) image.length = none →
        s.hostTile t (t.st.p 1 1) (s.loadTiles t.c t.st) t.e.tile image = .ok x →
        (∀ id, part id = (x.hdr.longSum && decide (t.outId 0 = id))) →
        ∃ u, exec (.loadTask t.j image) s = .next u ∧ s.ended u t false 0 [(0, x)] ∧ s.inTasks u) ∧
      (∀ v : Violation, t.st.p 0 1 = 1 → s.ideCause (s.polderOf (t.outId 0)) (t.st.p 32 8) image.length = none →
        s.hostTile t (t.st.p 1 1) (s.loadTiles t.c t.st) t.e.tile image = .error v →
        ∃ b, exec (.loadTask t.j image) s = .next (s.haltSparse t (.output 0) (t.outId 0) v.1 t.e.tile b)) ∧
      (∀ x, t.st.p 0 1 = 2 → s.fillTile t t.e.tile = x →
        (∀ id, part id = (x.1.hdr.longSum && decide (t.outId 0 = id))) →
        ∃ u, exec (.loadTask t.j image) s = .next u ∧ s.ended u t false x.2.1 [(0, x.1)] ∧ s.inTasks u)) ∧
    (∀ w, t.st.typ = stLoad → s.loadBad t = some w → exec (.loadTask t.j image) s = .next (s.haltFormat t w)) ∧
    (∀ w, t.st.typ = stGather → s.gatherBad t = some w → w ≠ 0x100 → exec (.gatherTask t.j) s = .next (s.haltFormat t w)) ∧
    (∀ n x, t.st.typ = stGather → s.gatherBad t = none → (s.descOf (t.inId 0)).dims.getD 0 0 = n →
      t.ready (listNeeds 0 n) = true → t.e.tile < n →
      (∀ i, i < n → entryBad (s.descOf (t.st.p 0 3)).tileCount (s.holds (s.descOf (t.st.p 0 3))) (t.listEntry 0 i) = true →
        (∀ k, k < i → entryBad (s.descOf (t.st.p 0 3)).tileCount (s.holds (s.descOf (t.st.p 0 3))) (t.listEntry 0 k) = false) →
        exec (.gatherTask t.j) s = .next (s.haltSparse t (.input 0) (t.inId 0) 0x13 (i / 64)
          (4 * orderOf (s.descOf (t.inId 0)).colOrder (i % 64) (if 256 ≤ (t.listEntry 0 i).2 then 1 else 0)))) ∧
      ((∀ i, i < n → entryBad (s.descOf (t.st.p 0 3)).tileCount (s.holds (s.descOf (t.st.p 0 3))) (t.listEntry 0 i) = false) →
        s.readTile (t.st.p 0 3) (coordOfEntry (t.listEntry 0 t.e.tile)) t.c.epoch = x → x.hdr.longSum = false →
        (∀ id, part id = false) →
        ∃ u y, exec (.gatherTask t.j) s = .next u ∧
          s.ended u t (x.hdr.poison || s.poisonedIn t (listNeeds 0 n)) 0 [(0, y)] ∧ s.inTasks u ∧ y.elems = x.elems ∧
          y.recs = x.recs ∧ y.scales = x.scales ∧ y.hdr.index = t.e.tile ∧ y.hdr.tensor = t.outId 0))

/-- STORE and SCATTER_ACC (R295, R296, R309): TENSOR mode writes the arrived tile into its home and nothing else; HOST mode sends a sparse
image whole with its last block, and of a dense one the runs of bytes that the tile completes; COMPARE mode notes whether the tile differs and writes its record with
the last comparison; SCATTER_ACC writes the folded or overwritten destination tile.
Completion, under conditions on the state and the operands alone, is stated for: storeTask, scatterAccTask. -/
def Obligations.StoresWriteTheirHome : Prop :=
  ∀ (s : State) (t : Task), s.runs t none (fun _ => false) →
    (∀ x y p, t.st.typ = stStore → s.storeBad t = none → t.tile? 0 t.e.tile = some x → s.copyHolds t = false →
      storeFits (s.descOf (t.inId 0)) x = true → ¬ (t.st.p 0 1 = 1 ∧ t.e.tile < t.st.p 16 8) →
      (s.poisons t.c x || t.e.poisoned) = p → s.storedTile t (t.inId 0) (x.poisoned p) = .ok y → y.lenient = false →
      (t.st.p 0 1 = 0 →
        ∃ u, exec (.storeTask t.j) s = .next u ∧ s.ended u t p y.flags [] ∧
          (∃ v, s.inTasks v ∧
            (v.storeTile t.c (t.inId 0) t.e.tile y.tile .other (s.descOf (t.inId 0)).bermOwned true).inTasks u) ∧
          (∀ a, s.tensor (t.inId 0) = some a → a.view = none →
            s.stored u t.c.stepMode a.desc.bermOwned (t.inId 0) t.e.tile y.tile)) ∧
      (t.st.p 0 1 = 1 → s.hostDenial t (t.inId 0) = none →
        ∃ u ws, exec (.storeTask t.j) s = .next u ∧ s.ended u t p y.flags [] ∧
          u.out = s.out ++ ws.map (fun w => .hostWrite t.c.desc.func (t.st.p 8 8 + w.1) w.2) ∧
          u = { s with courses := u.courses, journal := u.journal, cores := u.cores, out := u.out } ∧
          ((s.descOf (t.inId 0)).sparse = false →
            ws = (s.hostParts (s.descOf (t.inId 0)) (t.st.p 1 1)
              ((s.heldTiles (s.descOf (t.inId 0))).filter (fun k => decide (t.st.p 16 8 ≤ k)))
              (fun k => (t.tile? 0 k).getD {})).flatMap (fun q => q.writes (t.e.tile :: t.st.arrived) t.e.tile)) ∧
          ((s.descOf (t.inId 0)).sparse = true → s.lastStore t = false → ws = []) ∧
          ((s.descOf (t.inId 0)).sparse = true → s.lastStore t = true →
            ws = [(0, (s.descOf (t.inId 0)).generationBytes ((s.heldTiles (s.descOf (t.inId 0))).map (fun k =>
              ((insertTile y.tile t.st.kept).find? (fun z => z.hdr.index = k)).getD
                ((s.descOf (t.inId 0)).emptyBlock (t.inId 0) k))))])) ∧
      (t.st.p 0 1 = 2 → s.hostDenial t (t.inId 0) = none →
        ∃ (u : State) (diff : List Nat), exec (.storeTask t.j) s = .next u ∧ s.ended u t p y.flags [] ∧
          (t.e.tile ∈ diff ↔ s.tileDiffers t (t.inId 0) y.tile = true) ∧
          (∀ k, k ≠ t.e.tile → (k ∈ diff ↔ k ∈ t.st.differing)) ∧
          u.out = s.out ++ (if s.lastStore t = true then
            [.hostWrite t.c.desc.func (t.st.p 8 8) (toLe 8 diff.length ++ toLe 8 (diff.head?.getD (2 ^ 64 - 1)))] else []) ∧
          u = { s with courses := u.courses, journal := u.journal, cores := u.cores, out := u.out })) ∧
    (∀ did n js a, t.st.typ = stScatter → s.scatterBad t = none → t.st.p 2 3 = did → s.tensor did = some a →
      (s.descOf (t.inId 1)).dims.getD 0 0 = n → t.ready (t.scatterNeeds n) = true →
      (∀ i, i < n → entryBad a.desc.tileCount (fun _ => true) (t.listEntry 1 i) = false) → t.namedBy n t.e.tile = js → js ≠ [] →
      s.holds a.desc t.e.tile = true →
      (t.st.p 0 1 = 2 →
        ∃ u x, exec (.scatterAccTask t.j) s = .next u ∧ s.ended u t (s.poisonedIn t (t.scatterNeeds n)) 0 [] ∧
          x = (overwriteTile a.desc did t.e.tile (((js.getLast?).bind (t.tile? 0)).getD {})).poisoned
            (s.poisonedIn t (t.scatterNeeds n)) ∧
          s.wrote u t.c [(.other, [(did, t.e.tile, x)])] ∧
          (a.view = none → s.stored u t.c.stepMode false did t.e.tile x)) ∧
      (t.st.p 0 1 ≠ 2 →
        ∃ u p x, exec (.scatterAccTask t.j) s = .next u ∧
          x = s.convInto t did (t.st.p 1 1) t.e.tile (fun r c =>
            val32 (FMap.get (fun _ => 0) (s.scatterValues t did t.e.tile js).1 (64 * r + c))) ∧
          s.ended u t p ((s.scatterValues t did t.e.tile js).2 ||| x.2.1) [] ∧
          (s.poisonedIn t (t.scatterNeeds n) = true → p = true) ∧
          s.wrote u t.c [(.other, [(did, t.e.tile, x.1.poisoned p)])] ∧
          (a.view = none → s.stored u t.c.stepMode false did t.e.tile (x.1.poisoned p))))

/-- Row products (R121 to R125, R160, R194, R200, R205): a whole output tile of MATMUL, SPMM, SPMM_T or SPSP carries, element by element, the
sum of its windows in the reference order, converted into the output tensor, or its LONG_SUM partials, and the norms of R155 enter the
station's side output; a part of a split task keeps its reach sums, and the part that makes every reach present delivers the
tile that their owner folds (R131); a shipped expert's values are its owner's answer (R384); a broken condition
halts the stream with FORMAT; a parity failure of the MU that the task's blocks pass through abandons the task without a flag
(Table 7.6), and that of another MU changes nothing.
SDDMM (R202 to R204): port 0 carries the mask block with the sums at its positions, port 1 the candidates of the list that the mask lacks;
the sums of a shipped expert are its owner's answer (R384);
a candidate beyond the output halts the list's stream with INDEX.
Completion, under conditions on the state and the operands alone, is stated for: matmulTask, spmmTask, spmmTTask,
spspTask, sddmmTask. -/
def Obligations.ProductsEmitTheirTiles : Prop :=
  (∀ (s : State) (t : Task) (w : RowTask) (v : FMap Nat × Flags) (x : Tile × Flags × List WeirIn) (band : List Nat)
     (bad : Option Nat) (cmd : Option Nat → Instr) (poison : Bool),
     s.rowTask t = w → s.rowValues t w = v → s.rowTile t w v.1 = x →
     (s.poisonedIn t (s.rowNeeds t) || s.remotePoison t w) = poison →
     s.runs t none (fun id => x.1.hdr.longSum && decide (t.outId 0 = id)) →
     ((t.st.typ = stMatmul ∧ bad = s.matmulBad t ∧ cmd = fun _ => .matmulTask t.j) ∨
       (t.st.typ = stSpmm ∧ bad = s.spmmBad t ∧ cmd = .spmmTask t.j band) ∨
       (t.st.typ = stSpmmT ∧ bad = s.spmmBad t ∧ cmd = .spmmTTask t.j band) ∨
       (t.st.typ = stSpsp ∧ bad = s.spmmBad t ∧ cmd = .spspTask t.j band)) →
     (bad = none → t.ready (s.rowNeeds t) = true → s.answered t w = true → s.remoteBad (s.taskRequest t w) = none →
       s.shippedValues t w = none → s.bankReady t = true → t.e.reachCount = 0 →
       ∃ u, exec (cmd none) s = .next u ∧
         s.ended u t poison (v.2 ||| x.2.1 ||| orFlags ((s.normsOf t w v.1).map (fun n => n.2))) [(0, x.1)] ∧
         (w.p.norm ≠ 0 → u.sideOf t = some (s.sideStep t w (poison || t.e.poisoned) (s.normsOf t w v.1)).1) ∧ s.inTasks u) ∧
     (bad = none → t.ready (s.rowNeeds t) = true → s.answered t w = true → s.remoteBad (s.taskRequest t w) = none →
       ∀ (y : FMap Nat × Flags) (z : Tile × Flags × List WeirIn), s.shippedValues t w = some y → s.rowTile t w y.1 = z →
         s.wardenTask t none (fun id => z.1.hdr.longSum && decide (t.outId 0 = id)) = none →
         ∃ u, exec (cmd none) s = .next u ∧
           s.ended u t poison (y.2 ||| z.2.1 ||| orFlags ((s.normsOf t w y.1).map (fun n => n.2))) [(0, z.1)] ∧ s.inTasks u) ∧
     (bad = none → t.ready (s.rowNeeds t) = true → s.answered t w = true → s.remoteBad (s.taskRequest t w) = none →
       s.shippedValues t w = none → s.bankReady t = true → t.e.reachCount ≠ 0 →
       ∀ (y : FMap (FMap Nat) × Flags) (mine all : FMap Tile) (p : Task), s.partSums t w = y →
         s.reachTiles t (poison || t.e.poisoned) y.1 [] = mine → s.allSums t mine = all → p = { t with e := { t.e with sums := mine } } →
         (w.joined all = false →
           ∃ u, exec (cmd none) s = .next u ∧ s.ended u p poison y.2 [] ∧ s.inTasks u) ∧
         (w.joined all = true →
           ∀ (o : FMap Nat × Flags) (z : Tile × Flags × List WeirIn), s.ownerValues p w all w.reaches = o → s.rowTile p w o.1 = z →
             s.wardenTask p none (fun id => z.1.hdr.longSum && decide (p.outId 0 = id)) = none →
             ∃ u, exec (cmd none) s = .next u ∧ s.inTasks u ∧
               s.ended u p (poison || (s.partsOf t).any (fun e => e.poisoned))
                 (y.2 ||| o.2 ||| z.2.1 ||| orFlags ((s.normsOf p w o.1).map (fun n => n.2)))
                 [(0, z.1.tagged (all.flatMap (fun r => r.2.tags)))])) ∧
     (∀ b, bad = some b → exec (cmd none) s = .next (s.haltFormat t b)) ∧
     (∀ m, t.st.typ ≠ stMatmul → s.usesMu t m = false → exec (cmd (some m)) s = exec (cmd none) s) ∧
     (∀ m, t.st.typ ≠ stMatmul → s.usesMu t m = true →
       ∃ u, exec (cmd (some m)) s = .next u ∧ u.logTotal = s.logTotal + 1 ∧
         u.entry t.j = some { t.e with state := .abandoned, finished := false, flags := 0, sums := [] } ∧
         u.courses = s.courses ∧ u.tensors = s.tensors)) ∧
  (∀ (s : State) (t : Task) (o : TensorDesc) (m : Tensor) (mb : Tile) (vs cs : List Nat) (v : Nat → Nat × Flags)
     (x0 x1 : Tile × Flags × WeirIn) (part : Bool), s.runs t none (fun id =>
       (x0.1.hdr.longSum && decide (t.outId 0 = id)) || (decide (t.st.inPorts = 3) && (x1.1.hdr.longSum && decide (t.outId 1 = id)))) →
     t.st.typ = stSddmm → s.sddmmBad t = none → t.ready (s.sddmmNeeds t) = true → s.maskReady t = true →
     s.remoteBad (s.maskRequest t) = none →
     s.descOf (t.outId 0) = o → (if t.st.inPorts = 3 then listValues (t.tiles 2) else []) = vs → s.tensor (t.st.p 4 3) = some m →
     s.expertMask t m = mb → candidatesOf o t.e.tile mb.mask vs = cs → s.shardedDim (s.descOf (t.inId 0)) 0 = part →
     (match s.shippedMask t with
       | some y => ∀ p, v p = (FMap.get (fun _ => 0) y.elems p, 0)
       | none => s.bankReady t = true ∧ ∀ p, v p = if p ∈ mb.mask ++ cs then
           s.sddmmValue t (s.operand t 0) (s.operand t 1) part (64 * (o.tilePos t.e.tile).i + p / 64)
             (64 * (o.tilePos t.e.tile).j + p % 64)
         else (0, 0)) →
     s.sddmmTile t 0 (t.st.p 2 1) part mb.ownLayout (fun p => (v p).1) = x0 →
     s.sddmmTile t 1 (t.st.p 3 1) part
       { form := if cs.isEmpty then bfEmpty else bfE, pos := cs.map (fun p => (p, (false, false))) } (fun p => (v p).1) = x1 →
     ((∃ y ∈ vs, o.elemCount ≤ y) →
       ∃ k b, exec (.sddmmTask t.j) s = .next (s.haltSparse t (.input 2) (t.inId 2) 0x13 k b)) ∧
     ((∀ y ∈ vs, y < o.elemCount) →
       ∃ u fl, exec (.sddmmTask t.j) s = .next u ∧
         s.ended u t (s.poisonedIn t (s.sddmmNeeds t) || mb.hdr.poison) fl
           (if t.st.inPorts = 3 then [(0, x0.1), (1, x1.1)] else [(0, x0.1)]) ∧ s.inTasks u))

/-- A split inside one device never changes a bit or a flag (R131): the reach sums of a sum's windows, a plain C loaded only into
reach 0, folded in ascending reach order, give the long accumulator and the flags of the unsplit sum. -/
def Obligations.SplitsNeverChangeABit : Prop :=
  ∀ (L : Nat) (ws : List (Option (Nat × Flags))) (c cLong : Option Nat), 0 < L →
    (foldReaches cLong ((List.range (reachesOf L ws.length)).map (fun r => (reachSum L ws c r).1))).long
      = (sumWindows L ws c cLong).long ∧
    ((List.range (reachesOf L ws.length)).foldl (fun f r => f ||| (reachSum L ws c r).2)
        (foldReaches cLong ((List.range (reachesOf L ws.length)).map (fun r => (reachSum L ws c r).1))).flags)
      = (sumWindows L ws c cLong).flags

/-- VEC, ATTEND and REDUCE (R269, R281, R138): a VEC task emits what its program stored and leaves its VE's registers as the program
left them; an ATTEND task emits its row of output tiles, each row's values the softmax-weighted sums; a REDUCE task emits
the reduced tile, its partials where the dimension is sharded. A broken parameter halts the stream with FORMAT, and so does a mask
byte above 1 (R90).
Completion, under conditions on the state and the operands alone, is stated for: vecTask, attendTask, reduceTask. -/
def Obligations.VectorStationsEmitTheirTiles : Prop :=
  ∀ (s : State) (t : Task) (agg : Option Nat) (part : Nat → Bool), s.runs t agg part →
    (t.st.typ = stVec → agg = none →
      (∀ w, s.vecBad t = some w → exec (.vecTask t.j) s = .next (s.haltFormat t w)) ∧
      (∀ r, s.vecBad t = none → t.ready (s.vecNeeds t) = true → s.vecRun t = r →
        (∀ id, part id = r.outs.any (fun o => o.2.hdr.longSum && decide (t.outId o.1 = id))) →
        ∃ u v, exec (.vecTask t.j) s = .next u ∧ v = s.setVe t.e.core t.e.index r.v ∧
          s.ended u t (s.poisonedIn t (s.vecNeeds t)) (r.flags ||| r.v.flags) r.outs ∧ v.inTasks u)) ∧
    (t.st.typ = stAttend → agg = none → (∀ id, part id = false) →
      (∀ w, s.attendBad t = some w → exec (.attendTask t.j) s = .next (s.haltFormat t w)) ∧
      (∀ p, s.attendBad t = none → t.ready (s.attendNeeds t) = true → t.maskBad 3 (s.descOf (t.inId 3)).colOrder = some p →
        exec (.attendTask t.j) s = .next (s.haltInput t 3 p.1 p.2)) ∧
      (∀ a rows outs, s.attendBad t = none → t.ready (s.attendNeeds t) = true →
        t.maskBad 3 (s.descOf (t.inId 3)).colOrder = none → s.attendBanks t = true → s.attendTurns t = a → a.attendRows t = rows →
        (List.range (s.descOf (t.outId 0)).tileCols).map (fun c =>
          (0, (a.convTile t 0 (t.st.p 1 1) (t.e.tile + c) (fun r k =>
            val32 (((rows.getD r ([], 0, 0)).1).getD (64 * c + k) 0))).1)) = outs →
        ∃ u fl, exec (.attendTask t.j) s = .next u ∧ s.ended u t (s.poisonedIn t (s.attendNeeds t)) fl outs ∧ s.inTasks u)) ∧
    (t.st.typ = stReduce →
      (∀ w, s.reduceBad t = some w → exec (.reduceTask t.j) s = .next (s.haltFormat t w)) ∧
      (∀ p, s.reduceBad t = none → t.ready (s.reduceNeeds t) = true → (t.st.p 5 1).testBit 0 = true →
        t.maskBad 1 (s.descOf (t.inId 1)).colOrder = some p → exec (.reduceTask t.j) s = .next (s.haltInput t 1 p.1 p.2)) ∧
      (∀ shard xs x, s.reduceBad t = none → t.ready (s.reduceNeeds t) = true →
        ((t.st.p 5 1).testBit 0 = true → t.maskBad 1 (s.descOf (t.inId 1)).colOrder = none) →
        (decide (t.st.p 1 1 = 1 ∧ t.st.p 0 1 ≤ 1) && s.shardedDim (s.descOf (t.inId 0)) (s.reduceDim t)) = shard →
        s.reduceElems t shard = xs →
        (if shard = true then s.partTile t 0 t.e.tile (fun r c => FMap.get (fun _ => 0) (codesAt (xs.map (fun y => (y.1, y.2.1)))) (64 * r + c))
          else if t.st.p 0 1 = 7 ∨ t.st.p 0 1 = 8 then
            { hdr := (s.descOf (t.outId 0)).header (t.outId 0) t.e.tile (s.writeGenOf t.c (t.outId 0)) t.c.epoch
              elems := codesAt (xs.map (fun y => (y.1, y.2.1))) }
          else (s.convTile t 0 (t.st.p 4 1) t.e.tile (fun r c =>
            val32 (FMap.get (fun _ => 0) (codesAt (xs.map (fun y => (y.1, y.2.1)))) (64 * r + c)))).1) = x →
        agg = (if t.st.p 0 1 = 7 ∨ t.st.p 0 1 = 8 then if shard = true then reduceAgg (t.st.p 0 1) xs else none
          else reduceAgg (t.st.p 0 1) xs) →
        (∀ id, part id = (x.hdr.longSum && decide (t.outId 0 = id))) →
        ∃ u fl, exec (.reduceTask t.j) s = .next u ∧ s.ended u t (s.poisonedIn t (s.reduceNeeds t)) fl [(0, x)] ∧ s.inTasks u))

/-- ROUTE (R372 to R377): DISPATCH copies token rows into the dispatch layout, writes the routing record and counts its loads in the
station's record; COMBINE and REDISPATCH read the record back, which halts its stream where it breaks R375, and emit each
token's weighted sum, or the rows in the dispatch layout.
Completion, under conditions on the state and the operands alone, is stated for: routeDispatch, routeCombine,
routeRedispatch. -/
def Obligations.RoutesFollowTheirRecord : Prop :=
  ∀ (s : State) (t : Task), s.runs t none (fun _ => false) → t.st.typ = stRoute → t.ready (s.routeNeeds t) = true →
    s.routeBad t = none →
    (∀ d, t.st.p 0 1 = 0 → s.dispatch t t.st.route = d →
      ∃ u fl outs c st, exec (.routeDispatch t.j) s = .next u ∧ s.ended u t (s.poisonedIn t (s.routeNeeds t)) fl outs ∧
        s.inTasks u ∧
        (∀ k ∈ s.heldTiles (s.descOf (t.outId 0)), (0, s.copiedTile t 1 k d.source (s.poisonedIn t (s.routeNeeds t))) ∈ outs) ∧
        (∀ k ∈ s.heldTiles (s.descOf (t.outId 1)),
          (1, s.codeTile t 1 k (s.poisonedIn t (s.routeNeeds t)) (fun _ tok c => d.column tok c)) ∈ outs) ∧
        u.course t.c.id = some c ∧ c.station t.e.station = some st ∧ st.diag.loads = d.sel.loads ∧
        st.diag.tokens = d.scores.length ∧ st.diag.passed = d.sel.passed ∧ st.diag.fallbacks = d.sel.fallbacks) ∧
    (t.st.p 0 1 = 1 →
      (∀ c, s.readPicks t t.st.route (s.descOf (t.outId 0)) = .error c →
        exec (.routeCombine t.j) s = .next (s.haltSparse t (.input 1) (t.inId 1) 0x13 c.1 c.2)) ∧
      (∀ ps, s.readPicks t t.st.route (s.descOf (t.outId 0)) = .ok ps →
        (∀ o ∈ t.passRecord, o.2.hdr.longSum = false) →
        ∃ u fl outs, exec (.routeCombine t.j) s = .next u ∧ s.ended u t (s.poisonedIn t (s.routeNeeds t)) fl outs ∧
          s.inTasks u ∧ (∀ o ∈ t.passRecord, o ∈ outs) ∧
          ∀ k ∈ s.heldTiles (s.descOf (t.outId 0)),
            (0, (s.convTile t 0 (t.st.p 6 1) k (fun r c =>
              val32 (s.combinedAt t (2 ^ t.c.reachLog2)
                (((ps.find? (fun p => p.1 = 64 * ((s.descOf (t.outId 0)).tilePos k).i + r)).map (fun p => p.2)).getD [])
                (64 * ((s.descOf (t.outId 0)).tilePos k).j + c)).1)).1) ∈ outs)) ∧
    (t.st.p 0 1 = 2 →
      (∀ c, s.readPicks t t.st.route (s.descOf (t.inId 0)) = .error c →
        exec (.routeRedispatch t.j) s = .next (s.haltSparse t (.input 1) (t.inId 1) 0x13 c.1 c.2)) ∧
      (∀ ps, s.readPicks t t.st.route (s.descOf (t.inId 0)) = .ok ps →
        (∀ o ∈ t.passRecord, o.2.hdr.longSum = false) →
        ∃ u fl outs, exec (.routeRedispatch t.j) s = .next u ∧ s.ended u t (s.poisonedIn t (s.routeNeeds t)) fl outs ∧
          s.inTasks u ∧ (∀ o ∈ t.passRecord, o ∈ outs) ∧
          (t.st.route.weighted = false → ∀ k ∈ s.heldTiles (s.descOf (t.outId 0)),
            (0, s.copiedTile t 0 k (fun row => (rowSource ps row).map (fun q => q.1)) (s.poisonedIn t (s.routeNeeds t)))
              ∈ outs)))

/-- UPDATE (R237 to R243): a vetoed step update writes nothing, marks the course and carries the master values read; any other update of
a dense MASTER without a copy and without factors leaves, at every update position, the weight that Table 9.3 computes;
in every form it writes only MASTER, the copy and the factors, or halts with a sparse violation.
Completion, under conditions on the state and the operands alone, is stated for: updateTask. -/
def Obligations.UpdatesWriteTheirMaster : Prop :=
  ∀ (s : State) (t : Task) (id : Nat) (h : Hyper) (poison : Bool), s.runs t none (fun _ => false) → t.st.typ = stUpdate →
    t.st.p 0 1 ≠ 5 → s.updateBad t = none → t.st.p 4 3 = id → t.ready (s.updateNeeds t) = true →
    (s.sliceTiles (s.descOf id)).contains t.e.tile = true → s.masksAgree t id t.e.tile = true →
    t.st.hyper (((s.polder (s.polderOf id)).map (fun (p : Polder) => p.ns)).getD 0) = h →
    (s.poisonedIn t ((List.range t.st.inPorts).map (fun q => (q, t.e.tile))) || s.masterPoison t id t.e.tile) = poison →
    ((t.c.stepMode && (t.c.veto || s.gradVeto t id)) = true →
      ∃ u c st, exec (.updateTask t.j) s = .next u ∧
        s.ended u t poison ((s.gradTile t id t.e.tile).foldl (fun f g => f ||| g.2.2.1) 0)
          (s.masterOut t id t.e.tile (s.masterTile t id 0 t.e.tile)) ∧
        s.inTasks u ∧ u.course t.c.id = some c ∧ c.veto = true ∧
        c.station t.e.station = some st ∧ st.diag.vetoed = true) ∧
    ((t.c.stepMode && (t.c.veto || s.gradVeto t id)) = false →
      (∃ u, exec (.updateTask t.j) s = .next u ∧
        ((∃ k cause, u = s.haltWrite t id k cause) ∨
          ∃ p fl out ws, s.ended u t p fl out ∧ s.wrote u t.c ws ∧ (poison = true → p = true) ∧
            ∀ w ∈ ws, ∀ x ∈ w.2, x.1 = id ∨ x.1 = t.st.p 8 3 ∨ x.1 = t.st.p 12 3 ∨ x.1 = t.st.p 16 3)) ∧
      (∀ a, s.tensor id = some a → a.desc.sparse = false → a.view = none → t.st.p 8 3 = 0 → h.opt ≠ 4 →
        ∃ u b fl out, exec (.updateTask t.j) s = .next u ∧
          s.ended u t (poison || (s.pass1 t h id).bad) fl out ∧ u.tensor id = some b ∧
          ∀ x ∈ s.updPositions t h id t.e.tile (s.pass1 t h id),
            (b.dest t.c.stepMode id t.e.tile).at (x.pos / 64) (x.pos % 64)
              = (h.apply (s.pass1 t h id).tau x.w x.delta).2.1))

/-- CLIP, RNG and GAUGE (R248, R249, R251): CLIP turns squared norms into factors; RNG fills its tile with the words of R108 of its element
positions, or with uniform or normal numbers formed from them; GAUGE passes its tile on unchanged, with the
flags of its values.
Completion, under conditions on the state and the operands alone, is stated for: clipTask, rngTask, gaugeTask. -/
def Obligations.SmallStationsEmitTheirTile : Prop :=
  ∀ (s : State) (t : Task), s.runs t none (fun _ => false) →
    (∀ x, t.st.typ = stUpdate → t.st.p 0 1 = 5 → s.clipBad t = none → t.tile? 0 t.e.tile = some x →
      ∃ u y fl, exec (.clipTask t.j) s = .next u ∧ s.ended u t (s.poisons t.c x) fl [(0, y)] ∧ s.inTasks u ∧
        y.hdr = (s.descOf (t.outId 0)).header (t.outId 0) t.e.tile (s.writeGenOf t.c (t.outId 0)) t.c.epoch ∧
        ∀ q ∈ extentPos ((s.descOf (t.outId 0)).extRows t.e.tile) ((s.descOf (t.outId 0)).extCols t.e.tile),
          y.at q.1 q.2 = (clipFactor
            (((s.polder (s.polderOf (t.inId 0))).map (fun (p : Polder) => leAt p.body 8 4)).getD 0)
            (((s.polder (s.polderOf (t.inId 0))).map (fun (p : Polder) => p.c2)).getD 0)
            (x.fp32 (s.ctxOf x) q.1 q.2).1).1) ∧
    (t.st.typ = stRng → t.st.params.length = 8 → t.st.zero 2 8 = true →
      (t.st.p 0 1 = 0 → (s.descOf (t.outId 0)).format = 9 →
        ∃ u y, exec (.rngTask t.j) s = .next u ∧ s.ended u t false 0 [(0, y)] ∧ s.inTasks u ∧
          ∀ q ∈ extentPos ((s.descOf (t.outId 0)).extRows t.e.tile) ((s.descOf (t.outId 0)).extCols t.e.tile),
            y.at q.1 q.2 = randomWord t.c.seed (t.outId 0) ((s.descOf (t.outId 0)).flat t.e.tile q.1 q.2) t.c.step .user) ∧
      ((t.st.p 0 1 = 1 ∨ t.st.p 0 1 = 2) → (s.descOf (t.outId 0)).format ≠ 8 → (s.descOf (t.outId 0)).format ≠ 9 →
        ∃ u fl, exec (.rngTask t.j) s = .next u ∧ s.inTasks u ∧ s.ended u t false fl [(0, (s.convTile t 0 (t.st.p 1 1) t.e.tile (fun r c =>
          let w := randomWord t.c.seed (t.outId 0) ((s.descOf (t.outId 0)).flat t.e.tile r c) t.c.step .user
          val32 (if t.st.p 0 1 = 1 then uniformOf w else (noiseOf w).1))).1)])) ∧
    (∀ x, t.st.typ = stGauge → t.st.params.length = 8 → t.st.zero 2 8 = true → t.tile? 0 t.e.tile = some x →
      x.hdr.longSum = false →
      ∃ u, exec (.gaugeTask t.j) s = .next u ∧ s.inTasks u ∧ s.ended u t (s.poisons t.c x)
        ((if 0x10 ≤ x.hdr.format then x.mask else (extentPos x.rows x.cols).map (fun p => 64 * p.1 + p.2)).foldl
          (fun f p => f ||| (posFp32 x (s.ctxOf x) (s.descOf (t.inId 0)).valueFormat p).2) 0) [(0, x)])

/-- HIST, PRUNE and REGROW (R221, R228 to R231, R243): a HIST task emits the histogram of its unit; a PRUNE or REGROW task selects from its
unit's entries the number that its record counts, and writes only the target and its companion at selected positions; where the
course is vetoed, a tile that it reads is poisoned, or its writes have landed before its replay, it writes nothing; a recount that
differs from the histogram halts with FORMAT.
Completion, under conditions on the state and the operands alone, is stated for: histTask, pruneTask, regrowTask. -/
def Obligations.MaskStationsSelectTheirUnit : Prop :=
  ∀ (s : State) (t : Task), s.runs t none (fun _ => false) →
    (∀ m, t.st.typ = stHist → s.histBad t = none → t.st.histJob = m →
      s.otherSlice t m = none →
      t.ready (s.histNeeds t) = true → (s.maskUnits (s.descOf m.target) m.scope).contains t.e.tile = true →
      (s.unitEntries t m t.e.tile (some 0)).1.length < 2 ^ 32 → (m.scope = 2 → t.e.tile < 2 ^ 40) →
      ∃ u, exec (.histTask t.j) s = .next u ∧
        s.ended u t (s.poisonedIn t (s.histNeeds t)) (s.unitEntries t m t.e.tile (some 0)).2.2
          [(0, s.histTile t m (histogram (s.unitEntries t m t.e.tile (some 0)).1))] ∧ s.inTasks u) ∧
    (∀ m ks r, (t.st.typ = stPrune ∨ t.st.typ = stRegrow) → s.maskBad t = none → t.st.maskJob = m → s.scoreBeyond t m = none →
      t.ready (s.maskNeeds t) = true → (s.maskUnits (s.descOf m.target) m.scope).contains t.e.tile = true →
      s.pruneDone t = true → s.unitTiles (s.descOf m.target) m.scope t.e.tile = ks → s.companionDiffers t m ks = none →
      s.unitEntries t m t.e.tile t.st.scorePort = r →
      ∃ u, (t.st.typ = stPrune → exec (.pruneTask t.j) s = .next u) ∧ (t.st.typ = stRegrow → exec (.regrowTask t.j) s = .next u) ∧
        (s.maskPoison t m ks = true → s.ended u t true r.2.2 [] ∧ s.inTasks u) ∧
        (∀ w, s.maskPoison t m ks = false → FMap.get (fun _ => 0) t.st.landed t.e.tile = w + 1 →
          s.ended u t false w [] ∧ s.inTasks u) ∧
        (s.maskPoison t m ks = false → FMap.get (fun _ => 0) t.st.landed t.e.tile = 0 → s.recountOk t m r.1 = false →
          u = s.haltInput t (t.st.histPort.getD 0) t.e.tile) ∧
        (s.maskPoison t m ks = false → FMap.get (fun _ => 0) t.st.landed t.e.tile = 0 → s.recountOk t m r.1 = true →
          t.c.veto = true → s.ended u t false r.2.2 [] ∧ s.inTasks u) ∧
        (∀ n sel, s.maskPoison t m ks = false → FMap.get (fun _ => 0) t.st.landed t.e.tile = 0 → s.recountOk t m r.1 = true →
          t.c.veto = false → s.selectCount t m t.e.tile = n → selectUnit r.1 n m.prune = sel →
          (∀ k ∈ ks, ∃ w, s.maskWrites t m k (selectedIn (s.descOf m.target) k sel) = .ok w) →
          ∃ fl ws c st, s.ended u t false fl [] ∧ s.wrote u t.c [(if m.score = 1 then .other else .keeps, ws)] ∧
            (∀ x ∈ ws, x.1 = m.companion ∨
              (x.1 = m.target ∧ x.2.1 ∈ ks ∧ selectedIn (s.descOf m.target) x.2.1 sel ≠ [])) ∧
            u.course t.c.id = some c ∧ c.station t.e.station = some st ∧
            FMap.get (fun _ => 0) st.diag.selected t.e.tile = sel.length))

/-! ## Vector engines -/

/-- Instructions on elements (R264, R265, R272 to R275, R278, R279): each active element of the destination becomes the operation on the
elements of the operands, whose flags are sticky; elements at and beyond the active length, every other register, mask
and context, and every other VE stand. A mask register is read by SEL alone; a PERM index beyond the active length takes the fill
and raises range.
Completion, under conditions on the state and the operands alone, is stated for: veAdd, veSub, veMul, veFma, veMin,
veMax, veSel, veMovs, veJoin, vePerm, veRcp, veRsq, veExp, veLog, veTanh, veSigmoid, veSilu, veSiluD, veGeluSig,
veGeluSigD, veGeluTanh, veGeluTanhD. -/
def Obligations.LaneInstructionsActElementwise : Prop :=
  ∀ (s : State) (core ve c : Nat) (i : VeIns) (v : VeRun) (x : VeCtx) (A B C : Nat → Nat) (f : Fmt),
    s.veExists core ve = true → s.veRun core ve = v → v.ctx c = x → x.full → 1 ≤ i.vl → i.vl ≤ 128 → typeFmt i.typ = f →
    (∀ e, A e = (v.elems x i i.a).getD e 0) → (∀ e, B e = (v.elems x i i.b).getD e 0) →
    (∀ e, C e = (v.elems x i i.c).getD e 0) →
    (∃ w, s.onVe core ve (exec (.veAdd core ve c i) s) w ∧ v.laneOp w c i.d i (fun e => opAdd f (A e) (B e))) ∧
    (∃ w, s.onVe core ve (exec (.veSub core ve c i) s) w ∧ v.laneOp w c i.d i (fun e => opSub f (A e) (B e))) ∧
    (∃ w, s.onVe core ve (exec (.veMul core ve c i) s) w ∧ v.laneOp w c i.d i (fun e => opMul f (A e) (B e))) ∧
    (∃ w, s.onVe core ve (exec (.veFma core ve c i) s) w ∧
      v.laneOp w c i.d i (fun e => opFma f (i.imm.testBit 0) (A e) (B e) (C e))) ∧
    (∃ w, s.onVe core ve (exec (.veMin core ve c i) s) w ∧
      v.laneOp w c i.d i (fun e => (opMinMax f false (A e) (B e), 0))) ∧
    (∃ w, s.onVe core ve (exec (.veMax core ve c i) s) w ∧
      v.laneOp w c i.d i (fun e => (opMinMax f true (A e) (B e), 0))) ∧
    (∃ w, s.onVe core ve (exec (.veSel core ve c i) s) w ∧
      v.laneOp w c i.d i (fun e => (if (v.mask x i.msk).getD e false = true then A e else B e, 0))) ∧
    (∃ w, s.onVe core ve (exec (.veMovs core ve c i) s) w ∧
      v.laneOp w c i.d i (fun e => (opMovs f (i.imm % 4) (A e) (B e), 0))) ∧
    (∃ w, s.onVe core ve (exec (.veJoin core ve c i) s) w ∧
      v.laneOp w c i.d i (fun e => join32 (A e) (if i.imm.testBit 0 then movneg32 (B e) else B e))) ∧
    (∃ w, s.onVe core ve (exec (.vePerm core ve c i) s) w ∧
      v.laneOp w c i.d i (fun e =>
        let k := (if i.typ = 0 then v.operand x i.b else splitLanes (v.operand x i.b)).getD e 0
        if k < veActive i then (A k, 0)
        else (if i.imm.testBit 0 then
          (if i.typ = 0 then (v.operand x i.c).getD e 0 else (v.operand x i.c).getD (e / 2) 0 % 2 ^ 16) else 0, flRange))) ∧
    (∃ w, s.onVe core ve (exec (.veRcp core ve c i) s) w ∧ v.laneOp w c i.d i (fun e => VeFn.rcp.run (A e))) ∧
    (∃ w, s.onVe core ve (exec (.veRsq core ve c i) s) w ∧ v.laneOp w c i.d i (fun e => VeFn.rsq.run (A e))) ∧
    (∃ w, s.onVe core ve (exec (.veExp core ve c i) s) w ∧ v.laneOp w c i.d i (fun e => VeFn.exp.run (A e))) ∧
    (∃ w, s.onVe core ve (exec (.veLog core ve c i) s) w ∧ v.laneOp w c i.d i (fun e => VeFn.log.run (A e))) ∧
    (∃ w, s.onVe core ve (exec (.veTanh core ve c i) s) w ∧ v.laneOp w c i.d i (fun e => VeFn.tanh.run (A e))) ∧
    (∃ w, s.onVe core ve (exec (.veSigmoid core ve c i) s) w ∧ v.laneOp w c i.d i (fun e => VeFn.sigmoid.run (A e))) ∧
    (∃ w, s.onVe core ve (exec (.veSilu core ve c i) s) w ∧ v.laneOp w c i.d i (fun e => VeFn.silu.run (A e))) ∧
    (∃ w, s.onVe core ve (exec (.veSiluD core ve c i) s) w ∧ v.laneOp w c i.d i (fun e => VeFn.siluD.run (A e))) ∧
    (∃ w, s.onVe core ve (exec (.veGeluSig core ve c i) s) w ∧ v.laneOp w c i.d i (fun e => VeFn.geluSig.run (A e))) ∧
    (∃ w, s.onVe core ve (exec (.veGeluSigD core ve c i) s) w ∧ v.laneOp w c i.d i (fun e => VeFn.geluSigD.run (A e))) ∧
    (∃ w, s.onVe core ve (exec (.veGeluTanh core ve c i) s) w ∧ v.laneOp w c i.d i (fun e => VeFn.geluTanh.run (A e))) ∧
    (∃ w, s.onVe core ve (exec (.veGeluTanhD core ve c i) s) w ∧ v.laneOp w c i.d i (fun e => VeFn.geluTanhD.run (A e)))

/-- Masks, tile ports and reductions (R269, R271, R273, R274, R276, R277): CMP writes the active bits of its mask; SPLIT writes two
registers; LDQ loads the step's elements of an input tile, which it takes from a queue that its port is bound to or waits for there,
and RNG the dropout numbers of the elements of an output tile (where R277 fixes none, the model's: log entry 86); STQ
holds its elements for the output tile, at their rows and columns, and with the tile's last step converts it and puts it into its
queue; RED delivers one result for all lanes or one for each row,
folds the step's rows into a slot, whose flags are sticky (R127), or delivers a slot; VE_NOP has no effect; no instruction acts on a
VE that the part does not have (R283).
Completion, under conditions on the state and the operands alone, is stated for: veNop, veCmp, veSplit, veLdq, veRng,
veStq, veRed. -/
def Obligations.MasksPortsAndReductionsAct : Prop :=
  ∀ (s : State) (core ve c : Nat) (i : VeIns) (v : VeRun) (x : VeCtx) (A B : Nat → Nat),
    (s.veExists core ve = false →
      ∀ op ∈ [Instr.veNop, .veAdd, .veSub, .veMul, .veFma, .veMin, .veMax, .veCmp, .veSel, .veMovs, .veSplit, .veJoin, .vePerm, .veRed,
          .veLdq, .veStq, .veRng, .veRcp, .veRsq, .veExp, .veLog, .veTanh, .veSigmoid, .veSilu, .veSiluD, .veGeluSig, .veGeluSigD,
          .veGeluTanh, .veGeluTanhD], exec (op core ve c i) s = .next s) ∧
    (s.veExists core ve = true → s.veRun core ve = v → v.ctx c = x → x.full → 1 ≤ i.vl → i.vl ≤ 128 → (∀ e, A e = (v.elems x i i.a).getD e 0) →
    (∀ e, B e = (v.elems x i i.b).getD e 0) →
    s.onVe core ve (exec (.veNop core ve c i) s) v ∧
    (∃ w, s.onVe core ve (exec (.veCmp core ve c i) s) w ∧ w = { v with ctxs := w.ctxs } ∧
      (∀ k, k ≠ c → w.ctx k = v.ctx k) ∧ (w.ctx c).v = x.v ∧ (w.ctx c).step = x.step ∧
      (∀ m, m ≠ i.d → FMap.get (fun _ => zeroMask) (w.ctx c).mks m = FMap.get (fun _ => zeroMask) x.mks m) ∧
      ∀ e, (FMap.get (fun _ => zeroMask) (w.ctx c).mks i.d).getD e false
        = if e < veActive i then opCmp (i.imm % 8) ((typeFmt i.typ).decode (A e)) ((typeFmt i.typ).decode (B e))
          else (FMap.get (fun _ => zeroMask) x.mks i.d).getD e false) ∧
    (i.typ = 0 → ∃ w, s.onVe core ve (exec (.veSplit core ve c i) s) w ∧ w = { v with ctxs := w.ctxs } ∧
      (∀ k, k ≠ c → w.ctx k = v.ctx k) ∧ (w.ctx c).step = x.step ∧ (w.ctx c).mks = x.mks ∧
      (∀ r, r ≠ i.d → r ≠ i.d + 1 → (w.ctx c).reg r = x.reg r) ∧
      ∀ e, e < i.vl → (w.ctx c).element i i.d e = (split32 (i.imm.testBit 0) (A e)).1 ∧
        (w.ctx c).element i (i.d + 1) e = (split32 (i.imm.testBit 0) (A e)).2) ∧
    (∀ t, v.inputs[i.imm % 4]? = some t → s.veWaits core ve (i.imm % 4) = false →
      (∀ q, v.inQueues.getD (i.imm % 4) none = some q →
        (s.queue core q).frontWords = none ∨ (s.queue core q).frontIndex ≠ some v.tile) →
      ∃ w, s.onVe core ve (exec (.veLdq core ve c i) s) w ∧
        v.laneOp w c i.d i (fun e => ldqElem i.typ t (v.inCtx.getD (i.imm % 4) {}) (v.place x e).1 (v.place x e).2)) ∧
    (∀ q hdr ws t v1, v.inQueues.getD (i.imm % 4) none = some q → (s.queue core q).frontWords = some (hdr, ws) →
      (s.queue core q).frontIndex = some v.tile → i.imm % 4 < v.inputs.length →
      tileOfWords (s.descOf (TileHdr.ofNat (hdr.getD 0 0)).tensor) hdr ws = t →
      v1 = { v with inputs := v.inputs.set (i.imm % 4) t, inCtx := v.inCtx.set (i.imm % 4) (s.ctxOf t) } →
      ∃ w, (s.setQueue core q (s.queue core q).pop).onVe core ve (exec (.veLdq core ve c i) s) w ∧
        v1.laneOp w c i.d i (fun e => ldqElem i.typ t (v1.inCtx.getD (i.imm % 4) {}) (v.place x e).1 (v.place x e).2)) ∧
    (s.veWaits core ve (i.imm % 4) = true → exec (.veLdq core ve c i) s = .next s) ∧
    (∀ o, v.outSpecs[i.imm % 4]? = some o → ∃ w, s.onVe core ve (exec (.veRng core ve c i) s) w ∧
      v.laneOp w c i.d i (fun e =>
        (dropoutValue (randomWord v.seed o.tensor (o.desc.flat v.tile (v.place x e).1 (v.place x e).2) v.stepNo .dropout / 256), 0))) ∧
    (∀ q y, v.outQueues.getD (i.imm % 4) none = some q → v.lastStep c = true → i.imm % 4 < v.outSpecs.length →
      (∀ z ∈ v.sent, z.1 ≠ i.imm % 4) → ((veOpStq c i v).output (i.imm % 4) (v.gens.getD (i.imm % 4) 0) v.epoch).1 = y →
      (s.queue core q).roomFor (y.segments (s.descOf y.hdr.tensor).colOrder).length = true →
      ∃ w, (s.setQueue core q ((s.queue core q).push (y.segments (s.descOf y.hdr.tensor).colOrder))).onVe core ve
          (exec (.veStq core ve c i) s) w ∧ w = { v with outs := w.outs, flags := w.flags } ∧ w.outs = (veOpStq c i v).outs) ∧
    (∃ w, ((v.outQueues.getD (i.imm % 4) none = none ∨ v.lastStep c = false ∧ ∀ z ∈ v.sent, z.1 ≠ i.imm % 4) →
        s.onVe core ve (exec (.veStq core ve c i) s) w) ∧
      w = { v with outs := w.outs, flags := w.flags, sent := w.sent } ∧ w.outs = (veOpStq c i v).outs ∧
      ((v.lastStep c = false ∨ v.outSpecs.length ≤ i.imm % 4) → w.flags = v.flags ∧ w.sent = v.sent) ∧
      (v.lastStep c = true → i.imm % 4 < v.outSpecs.length →
        w.sent = v.sent ++ [(i.imm % 4, (w.output (i.imm % 4) (v.gens.getD (i.imm % 4) 0) v.epoch).1)] ∧
          w.flags = v.flags ||| (w.output (i.imm % 4) (v.gens.getD (i.imm % 4) 0) v.epoch).2) ∧
      (∀ e, e < veActive i → FMap.get (fun _ => 0) w.outs (4096 * (i.imm % 4) + 64 * (v.place x e).1 + (v.place x e).2)
        = toFp32 i.typ (A e)) ∧
      ∀ k, (∀ e, e < veActive i → k ≠ 4096 * (i.imm % 4) + 64 * (v.place x e).1 + (v.place x e).2) →
        FMap.get (fun _ => 0) w.outs k = FMap.get (fun _ => 0) v.outs k) ∧
    (∀ k, redKindOf (i.imm % 16) = some k →
      (i.imm.testBit 8 = false → i.imm.testBit 5 = false → i.imm.testBit 4 = false →
        ∃ w, s.onVe core ve (exec (.veRed core ve c i) s) w ∧ v.laneOp w c i.d i (fun _ =>
          redValue k i.typ (reduceList k v.reach 0 (v.redTerms x i 0 (veActive i))))) ∧
      (i.imm.testBit 8 = false → i.imm.testBit 5 = false → i.imm.testBit 4 = true → veActive i ≤ 64 * v.stepRows →
        ∃ w, s.onVe core ve (exec (.veRed core ve c i) s) w ∧ v.laneOp w c i.d i (fun e =>
          redValue k i.typ (reduceList k v.reach 0 (v.redTerms x i (64 * (e / 64)) 64)))) ∧
      (i.imm.testBit 8 = true →
        ∃ w, s.onVe core ve (exec (.veRed core ve c i) s) w ∧ v.laneOp w c i.d i (fun e =>
          redValue k i.typ ((FMap.get (fun _ => {}) v.slots (slotKey i (v.place x e).1)).result k))) ∧
      (∀ t, i.imm.testBit 8 = false → i.imm.testBit 5 = true → v.inputs.head? = some t → v.outSpecs = [] →
        ∃ w, s.onVe core ve (exec (.veRed core ve c i) s) w ∧ w = { v with slots := w.slots, flags := w.flags } ∧
          (w.flags ||| v.flags) = w.flags ∧
          ∀ q u, q < v.stepRows → v.stepRows * x.step + q < t.rows →
            FMap.get (fun _ => ({} : RedState)) w.slots (slotKey i (v.stepRows * x.step + q)) = u →
            (w.flags ||| u.flags ||| u.sum.flags) = w.flags ∧
            u = ((v.redTerms x i (64 * q) t.cols).zip (List.range t.cols)).foldl (fun (a : RedState) y =>
              a.add k v.reach y.2 y.1) (FMap.get (fun _ => {}) v.slots (slotKey i (v.stepRows * x.step + q))))))

/-! ## Tile queues and matrix engines -/

/-- Tile queues (R36 to R43): a header fills an empty bank and stalls at any other; the last payload word makes the bank full; reading
its header makes it reading, and reading its last word empty; a header of a format outside Table 1.4 is logged; a
header whose parity fails discards the tile, sets HDR_ERR and is logged. DROP_REMAINDER empties the bank under read and does
nothing where none is; a reserved command is logged; command 0 has no effect. A queue that carries a stream is written by the
stream's producer alone, and takes what waits on the stream whenever it gives up a bank (R38, R57).
Completion, under conditions on the state and the operands alone, is stated for: tqHeaderWrite, tqDropRemainder,
tqHeaderRead, tqReservedCommand, tqNop. -/
def Obligations.TileQueuesAlternateTheirBanks : Prop :=
  ∀ (s : State) (core q : Nat) (x : TileQueue), s.queueOk core q = true → s.queue core q = x →
    (s.queueStreams core q ≠ [] →
      (∀ h ws, exec (.tqHeaderWrite core q h ws) s = .next s) ∧
      (∀ word same, word % 16 = 1 →
        exec (.tqDropRemainder core q word same) s = .next ((s.setQueue core q (x.drop same)).pumpOn core q))) ∧
    (s.queueStreams core q = [] →
    (∀ h ws n, segmentWords [h.1 % 2 ^ 64, h.2 % 2 ^ 64] = some n → (x.bank x.fill).state = .empty → x.dropSecond = false →
      ∃ u k, exec (.tqHeaderWrite core q (some h) ws) s = .next u ∧ s.onlyCore u core ∧
        (∀ r, r ≠ q → u.queue core r = s.queue core r) ∧ (u.queue core q).bank x.fill = k ∧
        (u.queue core q).bank (!x.fill) = x.bank (!x.fill) ∧ k.header = [h.1 % 2 ^ 64, h.2 % 2 ^ 64] ∧ k.length = n ∧
        (ws.length < n → k.state = .filling ∧ k.words = ws.map (fun w => w % 2 ^ 64) ∧ (u.queue core q).fill = x.fill) ∧
        (ws.length = n → k.state = .full ∧ k.words = ws.map (fun w => w % 2 ^ 64) ∧ (u.queue core q).fill = !x.fill)) ∧
    (∀ h ws, (x.bank x.fill).state ≠ .empty → exec (.tqHeaderWrite core q (some h) ws) s = .next s) ∧
    (∀ h, segmentWords [h.1 % 2 ^ 64, h.2 % 2 ^ 64] = none → (x.bank x.fill).state = .empty →
      ∃ u, exec (.tqHeaderWrite core q (some h) []) s = .next u ∧ u.logTotal = s.logTotal + 1 ∧
        ((u.queue core q).bank x.fill).poison = true) ∧
    (∀ n k, x.bank x.take = k → k.state = .full → k.read = 0 → k.words.length = k.length →
      (∃ w0 w1, k.header = [w0, w1]) → 0 < k.length →
      ∃ u, exec (.tqHeaderRead core q n [] none none) s = .next u ∧ s.onlyCore u core ∧
        (u.queue core q).delivered = (k.words.take n).map (fun w => (w, k.poison)) ∧
        (n < k.length → ((u.queue core q).bank x.take).state = .reading ∧ ((u.queue core q).bank x.take).read = n ∧
          (u.queue core q).take = x.take) ∧
        (k.length ≤ n → (u.queue core q).bank x.take = {} ∧ (u.queue core q).take = !x.take)) ∧
    (∀ n k b w0 w1, core < s.part.cores → x.bank x.take = k → k.state = .full → k.header = [w0, w1] →
      twoSegments k.header = false → oddBits b = true →
      ∃ u, exec (.tqHeaderRead core q n [(0, b)] none none) s = .next u ∧ (u.queue core q).bank x.take = {} ∧
        (u.queue core q).take = !x.take ∧ getBit (u.reg ⟨.tqCount, core, q⟩) 27 = true ∧ u.logTotal = s.logTotal + 1) ∧
    (∀ word, word % 16 = 1 →
      ((x.bank x.take).state = .reading → (twoSegments (x.bank x.take).header = false ∨ (x.bank x.take).second = true) →
        ∃ u, exec (.tqDropRemainder core q word false) s = .next u ∧ s.onlyCore u core ∧ (u.queue core q).bank x.take = {} ∧
          (u.queue core q).bank (!x.take) = x.bank (!x.take) ∧ (u.queue core q).take = !x.take) ∧
      ((x.bank x.take).state = .reading → twoSegments (x.bank x.take).header = true → (x.bank x.take).second = false →
        (x.bank (!x.take)).state = .full →
        ∃ u, exec (.tqDropRemainder core q word false) s = .next u ∧ (u.queue core q).bank0 = {} ∧
          (u.queue core q).bank1 = {}) ∧
      ((x.bank x.take).state ≠ .reading →
        ∃ u, exec (.tqDropRemainder core q word false) s = .next u ∧ u.queue core q = x ∧ s.onlyCore u core))) ∧
    (∀ word, 2 ≤ word % 16 →
      exec (.tqReservedCommand core q word) s
        = .next (s.logEntry 0x0012 (core / coresPerDie) core deviceWide q (word % 2 ^ 32))) ∧
    (∀ word, exec (.tqNop core q word) s = .next s)

/-- The banks of a matrix engine (R144, R146 to R151, R154, R161): a task takes the next bank in turn with its plain C loaded; each slab
fills the half of the operand buffer whose turn it is, and once its window registers close every word has taken the sums of its
unmarked windows in order; after the last window, and at a reach end, the bank folds; a fold adds every word to its long sum,
keeps the reach's sums and clears the words; the drain delivers the results of R125 and frees the bank, that of a part of a
split task keeps its reach sums, that of an SDDMM delivers its mask and its candidates, and each waits while the output queue
has no room. A parity failure abandons the bank's task, is counted and logged; one that a drain meets poisons the
tile.
Completion, under conditions on the state and the operands alone, is stated for: slabStart, reachFold, bankDrain. -/
def Obligations.BanksFoldAndDrain : Prop :=
  ∀ (s : State) (core me j now : Nat) (t : Task) (job : BankJob) (m0 m : Me),
    s.meTask core me j = some t → s.bankJob t = job → (s.core core).me me = m0 → m0.closeWindows = m →
    (s.productStop t = none → s.productReady t = true → (job.cells.map (fun c => c.2)).Nodup →
      (∀ opened slab p, m.bankOf j = none → (m.bank m.nextB).state = .idle → 0 < job.slabs.length →
        job.slabs.getD 0 [] = slab → job.pair j 0 slab = p →
        ∃ u a k, exec (.slabStart core me j opened none) s = .next u ∧ s.onlyCore u core ∧ (u.core core).me me = a ∧
          (∀ i, i ≠ me → (u.core core).me i = (s.core core).me i) ∧ a.bank m.nextB = k ∧ k.task = j ∧ k.slab = 1 ∧
          a.nextB = !m.nextB ∧ a.half = 0 ∧ a.slab0 = p ∧ a.slab1 = m.slab1 ∧ a.bank (!m.nextB) = m.bank (!m.nextB) ∧
          a.wregs.length ≤ 16 ∧ (job.slabs.length = 1 → k.state = .fold) ∧
          ∀ c ∈ job.cells, FMap.get (fun _ => 0) (a.closeWindows.bank m.nextB).acc c.2
            = FMap.get (fun _ => 0) ((s.startBank t).addSums c.2 ((job.closed p 0 (c.2 / 64) slab).map (p.gather c.2))).acc c.2) ∧
      (∀ b k opened slab p, m.bankOf j = some b → m.bank b = k → k.state = .acc → k.slab < job.slabs.length →
        job.slabs.getD k.slab [] = slab → job.pair j k.slab slab = p →
        ∃ u a k', exec (.slabStart core me j opened none) s = .next u ∧ s.onlyCore u core ∧ (u.core core).me me = a ∧
          a.bank b = k' ∧ a.bank (!b) = m.bank (!b) ∧ k'.slab = k.slab + 1 ∧ k'.task = k.task ∧ k'.long = k.long ∧
          a.half = 1 - m.half % 2 ∧ (if m.half % 2 = 1 then a.slab0 else a.slab1) = p ∧ a.wregs.length ≤ 16 ∧
          (k'.last = true ↔ job.slabs.length = k.slab + 1) ∧ (k'.last = true → k'.state = .fold) ∧
          ∀ c ∈ job.cells, FMap.get (fun _ => 0) (a.closeWindows.bank b).acc c.2
            = FMap.get (fun _ => 0) (k.addSums c.2 ((job.closed p 0 (c.2 / 64) slab).map (p.gather c.2))).acc c.2)) ∧
    (∀ place row opened, m0.faultTimes = [] →
      ∃ u, exec (.slabStart core me j opened (some (place, row, now))) s = .next u ∧
        ((u.core core).me me).faults = min 255 (m0.faults + 1) ∧ (∀ b, m0.bankOf j = some b → ((u.core core).me me).bank b = {}) ∧
        u.logTotal = s.logTotal + 1 ∧
        (∀ e, s.entry j = some e →
          u.entry j = some { e with state := .abandoned, finished := false, flags := 0, sums := [] })) ∧
    (∀ b k, m.bank b = k → k.task = j → k.state = .fold →
      ∃ u k', exec (.reachFold core me b none now) s = .next u ∧ s.onlyCore u core ∧ ((u.core core).me me).bank b = k' ∧
        ((u.core core).me me).bank (!b) = m.bank (!b) ∧ k'.acc = [] ∧ k'.slab = k.slab ∧
        k'.state = (if k.last = true then .drain else .acc) ∧
        (∀ w, (job.slabs.getD (k.slab - 1) []).getLast? = some w →
          FMap.get (fun _ => ([] : FMap Nat)) k'.sums (w.2 / job.L) = k.acc) ∧
        ∀ c ∈ job.cells, FMap.get (fun _ => ({} : Pair)) k'.long c.2
          = (foldLong (FMap.get (fun _ => {}) k.long c.2) (FMap.get (fun _ => 0) k.acc c.2)).1) ∧
    (∀ b k, m0.bank b = k → k.task = j → k.state = .drain → s.heldBack t = true →
      exec (.bankDrain core me b none now) s = .next s) ∧
    (∀ b k w v x, m0.bank b = k → k.task = j → k.state = .drain → s.heldBack t = false → t.st.typ ≠ stSddmm →
      t.e.reachCount = 0 → s.rowTask t = w → k.results (s.oneReach t) job = v → s.rowTile t w v.1 = x →
      s.wardenTask t none (fun id => x.1.hdr.longSum && decide (t.outId 0 = id)) = none → (∀ id, s.needsProbe t.c id = false) →
      (∃ u, exec (.bankDrain core me b none now) s = .next u ∧ ((u.core core).me me).bank b = {} ∧
        ((u.core core).me me).bank (!b) = m0.bank (!b) ∧ s.ended u t (k.poisoned || s.productPoison t)
          (v.2 ||| x.2.1 ||| orFlags ((s.normsOf t w v.1).map (fun n => n.2))) [(0, x.1)] ∧
        s.inTasks u) ∧
      (∀ cell, m0.faultTimes = [] →
        ∃ u e, exec (.bankDrain core me b (some cell) now) s = .next u ∧
          ((u.core core).me me).faults = min 255 (m0.faults + 1) ∧ ((u.core core).me me).bank b = {} ∧
          u.entry j = some e ∧ e.poisoned = true ∧ e.finished = true)) ∧
    (∀ b k w mine p, m0.bank b = k → k.task = j → k.state = .drain → s.heldBack t = false → t.st.typ ≠ stSddmm →
      t.e.reachCount ≠ 0 → s.rowTask t = w → p = { t with e := { t.e with sums := mine } } →
      s.reachTiles t (k.poisoned || s.productPoison t || t.e.poisoned) (k.reachSums job t.e.reachFirst t.e.reachCount) [] = mine →
      w.joined (s.allSums t mine) = false →
      ∃ u, exec (.bankDrain core me b none now) s = .next u ∧ ((u.core core).me me).bank b = {} ∧
        ((u.core core).me me).bank (!b) = m0.bank (!b) ∧ s.ended u p (k.poisoned || s.productPoison t) k.flags [] ∧ s.inTasks u) ∧
    (∀ b k v m1 x0 x1 part, m0.bank b = k → k.task = j → k.state = .drain → s.heldBack t = false → t.st.typ = stSddmm →
      s.tensor (t.st.p 4 3) = some m1 → k.results (s.oneReach t) job = v → s.shardedDim (s.descOf (t.inId 0)) 0 = part →
      s.sddmmTile t 0 (t.st.p 2 1) part (s.sddmmTileOf t m1).mask.ownLayout (fun p => FMap.get (fun _ => 0) v.1 p) = x0 →
      s.sddmmTile t 1 (t.st.p 3 1) part
        { form := if (s.sddmmTileOf t m1).cands.isEmpty then bfEmpty else bfE
          pos := (s.sddmmTileOf t m1).cands.map (fun p => (p, (false, false))) } (fun p => FMap.get (fun _ => 0) v.1 p) = x1 →
      s.wardenTask t none (fun id => (x0.1.hdr.longSum && decide (t.outId 0 = id))
        || (decide (t.st.inPorts = 3) && (x1.1.hdr.longSum && decide (t.outId 1 = id)))) = none → (∀ id, s.needsProbe t.c id = false) →
      ∃ u, exec (.bankDrain core me b none now) s = .next u ∧ ((u.core core).me me).bank b = {} ∧
        ((u.core core).me me).bank (!b) = m0.bank (!b) ∧ s.inTasks u ∧
        s.ended u t (k.poisoned || s.productPoison t) (v.2 ||| x0.2.1 ||| (if t.st.inPorts = 3 then x1.2.1 else 0))
          (if t.st.inPorts = 3 then [(0, x0.1), (1, x1.1)] else [(0, x0.1)]))

/-! ## The block as a whole -/

/-- Every command is answered: on every state it answers a next state, and what it changes is never the part, the package or the
commands that wait (log entry 1).
On an empty queue the block idles (log entry 1). -/
def Obligations.EveryCommandIsAnswered : Prop :=
  (∀ (c : Instr) (s : State), ∃ t, exec c s = .next t ∧ t.fixed = s.fixed) ∧
  (∀ s : State, s.pending = [] → step s = .next s)

/-- The fused states go forward only (R474, R490, R491): a step that is no lifecycle transition with a genuine token of this
package leaves the lifecycle state and the sealing key as they are; none leaves RETURNED or brings the sealing key back, and
the create count never falls. -/
def Obligations.FusedStatesGoForwardOnly : Prop :=
  ∀ s t : State, step s = .next t →
    ((t.secure.lifecycle = s.secure.lifecycle ∧ t.secure.sealed = s.secure.sealed) ∨
      ∃ n rest, s.pending = .lifecycleTransition n true true :: rest ∧ s.secure.lifecycle = 2 ∧ t.secure.lifecycle = 3 ∧
        t.secure.sealed = false) ∧
    s.secure.creates ≤ t.secure.creates ∧ (s.fusesOk = true → t.fusesOk = true)

/-- Every step keeps the memory in its canonical form (12.3, log entry 10), so that equal memories are equal data, and the error
log within its 4,096 entries (R457).
Every step keeps the tables of registers, rings, tensors, journal entries, cores, dies' buffers and vector engines in canonical
form. -/
def Obligations.StepsKeepMemoryLogAndTables : Prop :=
  (∀ s t : State, step s = .next t → (Memory.wf s = true → Memory.wf t = true) ∧ (logOk s.log → logOk t.log)) ∧
  (∀ s t : State, s.tablesOk = true → step s = .next t → t.tablesOk = true)

/-- The state after reset meets the invariants of every step: canonical memory and tables, an error log within its bound, and the
fused state of a package in production (log entry 9). -/
def Obligations.ResetMeetsTheInvariants : Prop :=
  Memory.wf State.reset = true ∧ State.reset.tablesOk = true ∧ logOk State.reset.log ∧ State.reset.fusesOk = true ∧
    State.reset.pending = [] ∧ ∀ n l, (State.reset.stack n).line l = {}
end

