-- ==== Sys2Proof/Laws/Bits.lean ====
section
/-! SUPPORT. Laws of bit fields: each bit after a field write, fields that overlap and fields that do not, and the lengths of
little-endian bytes. -/

namespace Sys2Proof.Machine

/-- The bits of a field's mask. -/
theorem getLsbD_maskF (hi lo i : Nat) : (maskF hi lo).getLsbD i = (decide (i < 64) && decide (lo ≤ i ∧ i ≤ hi)) := by
  unfold maskF
  rw [BitVec.getLsbD_ofNat, Nat.testBit_shiftLeft, Nat.testBit_two_pow_sub_one]
  congr 1
  by_cases h : lo ≤ i
  · simp only [h, decide_true, Bool.true_and, true_and]
    congr 1; apply propext; omega
  · simp [h]

/-- Every bit after a field write: those of the value in the field, the old ones elsewhere. -/
theorem getLsbD_setF (v : Long) (hi lo x i : Nat) :
    (setF v hi lo x).getLsbD i = if lo ≤ i ∧ i ≤ hi then (decide (i < 64) && x.testBit (i - lo)) else v.getLsbD i := by
  unfold setF
  rw [BitVec.getLsbD_or, BitVec.getLsbD_and, BitVec.getLsbD_not, BitVec.getLsbD_and, getLsbD_maskF, BitVec.getLsbD_ofNat,
    Nat.testBit_shiftLeft]
  by_cases h64 : i < 64
  · by_cases h : lo ≤ i ∧ i ≤ hi
    · simp [h64, h]
    · simp only [h64, h, decide_true, decide_false, Bool.and_false, Bool.not_false, Bool.and_true, Bool.or_false, if_false]
  · have : v.getLsbD i = false := BitVec.getLsbD_of_ge v i (by omega)
    simp [h64, this]

/-- Every bit of a field's value. -/
theorem testBit_getF (v : Long) (hi lo i : Nat) :
    (getF v hi lo).testBit i = (decide (i < hi + 1 - lo) && v.getLsbD (lo + i)) := by
  unfold getF bitsOf
  rw [Nat.testBit_mod_two_pow, Nat.testBit_shiftRight, BitVec.getLsbD]

/-- A field after it was written. -/
theorem getF_setF_same (v : Long) (hi lo x : Nat) (h : hi < 64) : getF (setF v hi lo x) hi lo = x % 2 ^ (hi + 1 - lo) := by
  apply Nat.eq_of_testBit_eq
  intro i
  rw [testBit_getF, getLsbD_setF, Nat.testBit_mod_two_pow]
  by_cases hi' : i < hi + 1 - lo
  · have h1 : lo ≤ lo + i ∧ lo + i ≤ hi := by omega
    have h2 : lo + i < 64 := by omega
    simp [hi', h1, h2]
  · simp [hi']

/-- A field that another field's write does not touch. -/
theorem getF_setF_ne (v : Long) (hi lo hi' lo' x : Nat) (h : hi < lo' ∨ hi' < lo) :
    getF (setF v hi' lo' x) hi lo = getF v hi lo := by
  apply Nat.eq_of_testBit_eq
  intro i
  rw [testBit_getF, testBit_getF, getLsbD_setF]
  by_cases hi1 : i < hi + 1 - lo
  · have : ¬(lo' ≤ lo + i ∧ lo + i ≤ hi') := by omega
    simp [this]
  · simp [hi1]

/-- A bit that a field's write does not touch. -/
theorem getBit_setF_ne (v : Long) (hi lo x i : Nat) (h : i < lo ∨ hi < i) : getBit (setF v hi lo x) i = getBit v i := by
  unfold getBit; rw [getLsbD_setF, if_neg (by omega)]

/-- A bit after it was written. -/
theorem getBit_setBit_same (v : Long) (i : Nat) (b : Bool) (h : i < 64) : getBit (setBit v i b) i = b := by
  unfold getBit setBit; rw [getLsbD_setF, if_pos ⟨Nat.le_refl i, Nat.le_refl i⟩]
  cases b <;> simp [h]

/-- Every other bit stands. -/
theorem getBit_setBit_ne (v : Long) (i j : Nat) (b : Bool) (h : i ≠ j) : getBit (setBit v j b) i = getBit v i :=
  getBit_setF_ne v j j _ i (by omega)

/-- A field that does not hold the written bit. -/
theorem getF_setBit_ne (v : Long) (hi lo i : Nat) (b : Bool) (h : i < lo ∨ hi < i) :
    getF (setBit v i b) hi lo = getF v hi lo := getF_setF_ne v hi lo i i _ (by omega)

/-- A field is no larger than its width allows. -/
theorem getF_lt (v : Long) (hi lo : Nat) : getF v hi lo < 2 ^ (hi + 1 - lo) := Nat.mod_lt _ (Nat.two_pow_pos _)

/-- A saturating counter after it counts. -/
theorem getF_addF_same (v : Long) (hi lo n : Nat) (h : hi < 64) :
    getF (addF v hi lo n) hi lo = min (maxF hi lo) (getF v hi lo + n) := by
  unfold addF
  rw [getF_setF_same v hi lo _ h, Nat.mod_eq_of_lt]
  have := Nat.two_pow_pos (hi + 1 - lo)
  unfold maxF; omega

/-- A field that a counter does not touch. -/
theorem getF_addF_ne (v : Long) (hi lo hi' lo' n : Nat) (h : hi < lo' ∨ hi' < lo) :
    getF (addF v hi' lo' n) hi lo = getF v hi lo := getF_setF_ne v hi lo hi' lo' _ h

/-- A bit that a counter does not touch. -/
theorem getBit_addF_ne (v : Long) (hi lo n i : Nat) (h : i < lo ∨ hi < i) : getBit (addF v hi lo n) i = getBit v i :=
  getBit_setF_ne v hi lo _ i h

@[simp] theorem toLe_length (n v : Nat) : (toLe n v).length = n := by
  induction n generalizing v with
  | zero => rfl
  | succ n ih => rw [toLe, List.length_cons, ih]

@[simp] theorem fitBytes_length (n : Nat) (bs : List Byte) : (fitBytes n bs).length = n := by
  unfold fitBytes
  rw [List.length_append, List.length_take, List.length_replicate]; omega

/-- The value of little-endian bytes. -/
theorem leNat_toLe (n v : Nat) : leNat (toLe n v) = v % 256 ^ n := by
  induction n generalizing v with
  | zero => rw [toLe, leNat, Nat.pow_zero, Nat.mod_one]
  | succ n ih =>
    have h : v % 256 ^ (n + 1) = v % 256 + 256 * (v / 256 % 256 ^ n) := by
      rw [show 256 ^ (n + 1) = 256 * 256 ^ n from Nat.pow_succ', Nat.mod_mul]
    have h2 : (BitVec.ofNat 8 (v % 256)).toNat = v % 256 := by rw [BitVec.toNat_ofNat]; omega
    rw [toLe, leNat, ih, h, h2]

end Sys2Proof.Machine
end

