-- ==== Sys2Proof/Laws/FMap.lean ====
section
/-! SUPPORT. Laws of the sparse tables: what a key reads as after each operation, and that each operation keeps the canonical
form. -/

namespace Sys2Proof.Machine

variable {α : Type}

/-! ## Reading after an operation -/

@[simp] theorem FMap.get_nil (d : Nat → α) (k : Nat) : FMap.get d [] k = d k := rfl

/-- Reading an inserted key. -/
theorem FMap.get_insert (d : Nat → α) (m : FMap α) (k i : Nat) (v : α) :
    FMap.get d (FMap.insert m k v) i = if i = k then v else FMap.get d m i := by
  induction m with
  | nil => simp only [FMap.insert, FMap.get]
  | cons p m ih =>
    obtain ⟨j, w⟩ := p
    simp only [FMap.insert]
    split
    · simp only [FMap.get]
    · split
      · rename_i h; subst h; simp only [FMap.get]; split <;> rfl
      · rename_i h1 h2; simp only [FMap.get, ih]
        by_cases hij : i = j
        · subst hij; rw [if_pos rfl, if_neg (fun h => h2 h.symm), if_pos rfl]
        · rw [if_neg hij, if_neg hij]

/-- Reading after a key was erased. -/
theorem FMap.get_erase (d : Nat → α) (m : FMap α) (k i : Nat) :
    FMap.get d (FMap.erase m k) i = if i = k then d k else FMap.get d m i := by
  induction m with
  | nil => simp only [FMap.erase, FMap.get]; split <;> simp_all
  | cons p m ih =>
    obtain ⟨j, w⟩ := p
    simp only [FMap.erase]
    split
    · rename_i h; subst h; rw [ih]; simp only [FMap.get]; split <;> rfl
    · rename_i h; simp only [FMap.get, ih]
      by_cases hij : i = j
      · subst hij; rw [if_pos rfl, if_neg (fun h' => h h'.symm), if_pos rfl]
      · rw [if_neg hij, if_neg hij]

variable [DecidableEq α]

/-- Reading after a write. -/
theorem FMap.get_set (d : Nat → α) (m : FMap α) (k i : Nat) (v : α) :
    FMap.get d (FMap.set d m k v) i = if i = k then v else FMap.get d m i := by
  unfold FMap.set
  split
  · rename_i h; rw [FMap.get_erase, h]
  · exact FMap.get_insert d m k i v

@[simp] theorem FMap.get_set_same (d : Nat → α) (m : FMap α) (k : Nat) (v : α) :
    FMap.get d (FMap.set d m k v) k = v := by rw [FMap.get_set, if_pos rfl]

theorem FMap.get_set_ne (d : Nat → α) (m : FMap α) {k i : Nat} (v : α) (h : i ≠ k) :
    FMap.get d (FMap.set d m k v) i = FMap.get d m i := by rw [FMap.get_set, if_neg h]

/-- A key that several writes do not name stands. -/
theorem FMap.get_setMany_of_not_mem (d : Nat → α) (kvs : List (Nat × α)) (m : FMap α) (i : Nat)
    (h : ∀ kv ∈ kvs, kv.1 ≠ i) : FMap.get d (FMap.setMany d m kvs) i = FMap.get d m i := by
  induction kvs generalizing m with
  | nil => rfl
  | cons kv kvs ih =>
    obtain ⟨k, v⟩ := kv
    rw [FMap.setMany, ih _ (fun q hq => h q (List.mem_cons_of_mem _ hq))]
    exact FMap.get_set_ne d m v (fun e => h (k, v) (List.mem_cons_self ..) e.symm)

/-- Of several writes that agree on a key, the key reads what they write. -/
theorem FMap.get_setMany_of_mem (d : Nat → α) (kvs : List (Nat × α)) (m : FMap α) (i : Nat) (v : α) (hi : (i, v) ∈ kvs)
    (h : ∀ kv ∈ kvs, kv.1 = i → kv.2 = v) : FMap.get d (FMap.setMany d m kvs) i = v := by
  induction kvs generalizing m with
  | nil => cases hi
  | cons kv kvs ih =>
    obtain ⟨k, w⟩ := kv
    rw [FMap.setMany]
    by_cases hmem : (i, v) ∈ kvs
    · exact ih _ hmem (fun q hq => h q (List.mem_cons_of_mem _ hq))
    · have hkv : (i, v) = (k, w) := by
        rcases List.mem_cons.mp hi with e | e
        · exact e
        · exact absurd e hmem
      obtain ⟨rfl, rfl⟩ := Prod.mk.injEq .. ▸ hkv
      by_cases hex : ∃ q ∈ kvs, q.1 = i
      · obtain ⟨q, hq, e⟩ := hex
        exact absurd (by have := h q (List.mem_cons_of_mem _ hq) e; rw [← e, ← this]; exact hq) hmem
      · rw [FMap.get_setMany_of_not_mem d kvs _ i (fun q hq e => hex ⟨q, hq, e⟩)]
        exact FMap.get_set_same d m i v

@[simp] theorem FMap.get_update_same (d : Nat → α) (m : FMap α) (k : Nat) (f : α → α) :
    FMap.get d (FMap.update d m k f) k = f (FMap.get d m k) := FMap.get_set_same d m k _

theorem FMap.get_update_ne (d : Nat → α) (m : FMap α) {k i : Nat} (f : α → α) (h : i ≠ k) :
    FMap.get d (FMap.update d m k f) i = FMap.get d m i := FMap.get_set_ne d m _ h

/-! ## The canonical form -/

omit [DecidableEq α] in
/-- Keys that rise above a bound rise above every lower one. -/
theorem FMap.rising_weaken {m : FMap α} {b : Nat} {o : Option Nat} (h : FMap.rising (some b) m = true)
    (ho : ∀ c, o = some c → c ≤ b) : FMap.rising o m = true := by
  cases m with
  | nil => rfl
  | cons p m =>
    obtain ⟨j, w⟩ := p
    simp only [FMap.rising, Bool.and_eq_true, decide_eq_true_eq] at h ⊢
    refine ⟨?_, h.2⟩
    cases o with
    | none => rfl
    | some c => exact decide_eq_true (Nat.lt_of_le_of_lt (ho c rfl) h.1)

omit [DecidableEq α] in
/-- Above a bound every key rises. -/
theorem FMap.lt_of_rising {m : FMap α} {b : Nat} (h : FMap.rising (some b) m = true) : ∀ kv ∈ m, b < kv.1 := by
  induction m generalizing b with
  | nil => intro kv hkv; cases hkv
  | cons p m ih =>
    obtain ⟨j, w⟩ := p
    simp only [FMap.rising, Bool.and_eq_true, decide_eq_true_eq] at h
    intro kv hkv
    rcases List.mem_cons.mp hkv with rfl | hmem
    · exact h.1
    · exact Nat.lt_trans h.1 (ih h.2 kv hmem)

omit [DecidableEq α] in
/-- What the rise of the keys says of a first entry. -/
theorem FMap.rising_cons (o : Option Nat) (j : Nat) (w : α) (m : FMap α) :
    FMap.rising o ((j, w) :: m) = true ↔ (∀ c, o = some c → c < j) ∧ FMap.rising (some j) m = true := by
  cases o <;> simp [FMap.rising]

omit [DecidableEq α] in
/-- Inserting a key keeps the rise of the keys. -/
theorem FMap.rising_insert {m : FMap α} {o : Option Nat} (k : Nat) (v : α) (h : FMap.rising o m = true)
    (ho : ∀ c, o = some c → c < k) : FMap.rising o (FMap.insert m k v) = true := by
  induction m generalizing o with
  | nil => exact (FMap.rising_cons o k v []).mpr ⟨ho, rfl⟩
  | cons p m ih =>
    obtain ⟨j, w⟩ := p
    rw [FMap.rising_cons] at h
    simp only [FMap.insert]
    split
    · rename_i hlt
      exact (FMap.rising_cons ..).mpr ⟨ho, (FMap.rising_cons ..).mpr ⟨fun c hc => by cases hc; exact hlt, h.2⟩⟩
    · split
      · rename_i he; subst he; exact (FMap.rising_cons ..).mpr ⟨ho, h.2⟩
      · exact (FMap.rising_cons ..).mpr ⟨h.1, ih h.2 (fun c hc => by cases hc; omega)⟩

omit [DecidableEq α] in
/-- Every entry of a table after an insertion is the new one or an old one. -/
theorem FMap.mem_insert {m : FMap α} {k : Nat} {v : α} {x : Nat × α} (h : x ∈ FMap.insert m k v) : x = (k, v) ∨ x ∈ m := by
  induction m with
  | nil => exact List.mem_cons.mp h
  | cons p m ih =>
    obtain ⟨j, w⟩ := p
    simp only [FMap.insert] at h
    split at h
    · exact List.mem_cons.mp h
    · split at h
      · rcases List.mem_cons.mp h with e | e
        · exact .inl e
        · exact .inr (List.mem_cons_of_mem _ e)
      · rcases List.mem_cons.mp h with e | e
        · exact .inr (e ▸ List.mem_cons_self ..)
        · exact (ih e).imp id (List.mem_cons_of_mem _)

omit [DecidableEq α] in
/-- Erasing a key is a filter. -/
theorem FMap.erase_eq_filter (m : FMap α) (k : Nat) : FMap.erase m k = m.filter (fun kv => decide (kv.1 ≠ k)) := by
  induction m with
  | nil => rfl
  | cons p m ih =>
    obtain ⟨j, w⟩ := p
    simp only [FMap.erase]
    split
    · rename_i h; subst h; rw [ih]; simp
    · rename_i h; rw [ih, List.filter_cons_of_pos (by simpa using fun e => h e.symm)]

omit [DecidableEq α] in
/-- A filter keeps the rise of the keys. -/
theorem FMap.rising_filter {m : FMap α} {o : Option Nat} (p : Nat × α → Bool) (h : FMap.rising o m = true) :
    FMap.rising o (m.filter p) = true := by
  induction m generalizing o with
  | nil => rfl
  | cons q m ih =>
    obtain ⟨j, w⟩ := q
    have h' := h
    simp only [FMap.rising, Bool.and_eq_true] at h
    by_cases hp : p (j, w) = true
    · rw [List.filter_cons_of_pos hp]; simp only [FMap.rising, Bool.and_eq_true]; exact ⟨h.1, ih h.2⟩
    · rw [List.filter_cons_of_neg hp]
      refine FMap.rising_weaken (ih h.2) (fun c hc => ?_)
      subst hc
      exact Nat.le_of_lt (FMap.lt_of_rising h' (j, w) (List.mem_cons_self ..))

@[simp] theorem FMap.wf_nil (d : Nat → α) : FMap.wf d [] = true := rfl

/-- What the canonical form says. -/
theorem FMap.wf_iff (d : Nat → α) (m : FMap α) :
    FMap.wf d m = true ↔ FMap.rising none m = true ∧ ∀ kv ∈ m, kv.2 ≠ d kv.1 := by
  simp only [FMap.wf, Bool.and_eq_true, List.all_eq_true, decide_eq_true_eq]

/-- A filter keeps the canonical form. -/
theorem FMap.wf_filter {d : Nat → α} {m : FMap α} (p : Nat × α → Bool) (h : FMap.wf d m = true) :
    FMap.wf d (m.filter p) = true := by
  rw [FMap.wf_iff] at h ⊢
  exact ⟨FMap.rising_filter p h.1, fun kv hkv => h.2 kv (List.mem_filter.mp hkv).1⟩

/-- Keeping some entries keeps the canonical form. -/
theorem FMap.wf_keep {d : Nat → α} {m : FMap α} (p : Nat → α → Bool) (h : FMap.wf d m = true) :
    FMap.wf d (FMap.keep p m) = true := FMap.wf_filter _ h

/-- A write keeps the canonical form. -/
theorem FMap.wf_set {d : Nat → α} {m : FMap α} (k : Nat) (v : α) (h : FMap.wf d m = true) :
    FMap.wf d (FMap.set d m k v) = true := by
  unfold FMap.set
  split
  · rw [FMap.erase_eq_filter]; exact FMap.wf_filter _ h
  · rename_i hv
    rw [FMap.wf_iff] at h ⊢
    refine ⟨FMap.rising_insert k v h.1 (fun c hc => by cases hc), fun kv hkv => ?_⟩
    rcases FMap.mem_insert hkv with rfl | hm
    · exact hv
    · exact h.2 kv hm

/-- Several writes keep the canonical form. -/
theorem FMap.wf_setMany {d : Nat → α} (kvs : List (Nat × α)) {m : FMap α} (h : FMap.wf d m = true) :
    FMap.wf d (FMap.setMany d m kvs) = true := by
  induction kvs generalizing m with
  | nil => exact h
  | cons kv kvs ih => exact ih (FMap.wf_set kv.1 kv.2 h)

/-- A change of a key keeps the canonical form. -/
theorem FMap.wf_update {d : Nat → α} {m : FMap α} (k : Nat) (f : α → α) (h : FMap.wf d m = true) :
    FMap.wf d (FMap.update d m k f) = true := FMap.wf_set k _ h

omit [DecidableEq α] in
/-- In canonical form a key reads as one of its entries, or as unlisted. -/
theorem FMap.mem_of_get_ne {d : Nat → α} {m : FMap α} {k : Nat} (h : FMap.get d m k ≠ d k) : (k, FMap.get d m k) ∈ m := by
  induction m with
  | nil => exact absurd rfl h
  | cons p m ih =>
    obtain ⟨j, w⟩ := p
    simp only [FMap.get] at h ⊢
    split
    · rename_i e; subst e; exact List.mem_cons_self ..
    · rename_i e; rw [if_neg e] at h; exact List.mem_cons_of_mem _ (ih h)

omit [DecidableEq α] in
/-- In canonical form an entry is what its key reads as. -/
theorem FMap.get_of_mem {d : Nat → α} {m : FMap α} {o : Option Nat} (h : FMap.rising o m = true) {k : Nat} {v : α}
    (hm : (k, v) ∈ m) : FMap.get d m k = v := by
  induction m generalizing o with
  | nil => cases hm
  | cons p m ih =>
    obtain ⟨j, w⟩ := p
    simp only [FMap.rising, Bool.and_eq_true] at h
    rcases List.mem_cons.mp hm with e | e
    · cases e; simp only [FMap.get, if_true]
    · have : j < k := FMap.lt_of_rising h.2 (k, v) e
      simp only [FMap.get]; rw [if_neg (by omega)]; exact ih h.2 e

/-- In canonical form, reading after a keep: the entries kept, and unlisted ones. -/
theorem FMap.get_keep {d : Nat → α} {m : FMap α} (p : Nat → α → Bool) (h : FMap.wf d m = true) (k : Nat) :
    FMap.get d (FMap.keep p m) k = if p k (FMap.get d m k) = true then FMap.get d m k else d k := by
  have hr := ((FMap.wf_iff d m).mp h).1
  by_cases hk : FMap.get d (FMap.keep p m) k = d k
  · rw [hk]; split
    · rename_i hp
      by_cases hd : FMap.get d m k = d k
      · exact hd.symm
      · have := FMap.mem_of_get_ne hd
        rw [← hk]
        exact FMap.get_of_mem (FMap.rising_filter _ hr) (List.mem_filter.mpr ⟨this, hp⟩)
    · rfl
  · have hmem := FMap.mem_of_get_ne hk
    have h2 := List.mem_filter.mp hmem
    have hv : FMap.get d m k = FMap.get d (FMap.keep p m) k := FMap.get_of_mem hr h2.1
    rw [hv, if_pos h2.2]

end Sys2Proof.Machine
end

