-- ==== Sys2Proof/Laws/State.lean ====
section
/-! SUPPORT. What each named update of State leaves alone, field by field, and what a read after it gives. -/

namespace Sys2Proof.Machine

/-! ## setReg -/

@[simp] theorem State.setReg_part (s : State) (r : Reg) (v : Long) : (s.setReg r v).part = s.part := rfl
@[simp] theorem State.setReg_pkg (s : State) (r : Reg) (v : Long) : (s.setReg r v).pkg = s.pkg := rfl
@[simp] theorem State.setReg_pending (s : State) (r : Reg) (v : Long) : (s.setReg r v).pending = s.pending := rfl
@[simp] theorem State.setReg_free (s : State) (r : Reg) (v : Long) : (s.setReg r v).free = s.free := rfl
@[simp] theorem State.setReg_host (s : State) (r : Reg) (v : Long) : (s.setReg r v).host = s.host := rfl
@[simp] theorem State.setReg_out (s : State) (r : Reg) (v : Long) : (s.setReg r v).out = s.out := rfl
@[simp] theorem State.setReg_log (s : State) (r : Reg) (v : Long) : (s.setReg r v).log = s.log := rfl
@[simp] theorem State.setReg_logTotal (s : State) (r : Reg) (v : Long) : (s.setReg r v).logTotal = s.logTotal := rfl
@[simp] theorem State.setReg_tensors (s : State) (r : Reg) (v : Long) : (s.setReg r v).tensors = s.tensors := rfl
@[simp] theorem State.setReg_courses (s : State) (r : Reg) (v : Long) : (s.setReg r v).courses = s.courses := rfl
@[simp] theorem State.setReg_copies (s : State) (r : Reg) (v : Long) : (s.setReg r v).copies = s.copies := rfl
@[simp] theorem State.setReg_steps (s : State) (r : Reg) (v : Long) : (s.setReg r v).steps = s.steps := rfl
@[simp] theorem State.setReg_journal (s : State) (r : Reg) (v : Long) : (s.setReg r v).journal = s.journal := rfl
@[simp] theorem State.setReg_mesh (s : State) (r : Reg) (v : Long) : (s.setReg r v).mesh = s.mesh := rfl
@[simp] theorem State.setReg_ve (s : State) (r : Reg) (v : Long) : (s.setReg r v).ve = s.ve := rfl
@[simp] theorem State.setReg_resume (s : State) (r : Reg) (v : Long) : (s.setReg r v).resume = s.resume := rfl
@[simp] theorem State.setReg_cores (s : State) (r : Reg) (v : Long) : (s.setReg r v).cores = s.cores := rfl
@[simp] theorem State.setReg_dm (s : State) (r : Reg) (v : Long) : (s.setReg r v).dm = s.dm := rfl
@[simp] theorem State.setReg_stackTab (s : State) (r : Reg) (v : Long) : (s.setReg r v).stackTab = s.stackTab := rfl
@[simp] theorem State.setReg_secure (s : State) (r : Reg) (v : Long) : (s.setReg r v).secure = s.secure := rfl
@[simp] theorem State.setReg_net (s : State) (r : Reg) (v : Long) : (s.setReg r v).net = s.net := rfl
@[simp] theorem State.setReg_power (s : State) (r : Reg) (v : Long) : (s.setReg r v).power = s.power := rfl

/-! ## setShadow -/

@[simp] theorem State.setShadow_part (s : State) (r : Reg) (v : Long) : (s.setShadow r v).part = s.part := rfl
@[simp] theorem State.setShadow_pkg (s : State) (r : Reg) (v : Long) : (s.setShadow r v).pkg = s.pkg := rfl
@[simp] theorem State.setShadow_pending (s : State) (r : Reg) (v : Long) : (s.setShadow r v).pending = s.pending := rfl
@[simp] theorem State.setShadow_free (s : State) (r : Reg) (v : Long) : (s.setShadow r v).free = s.free := rfl
@[simp] theorem State.setShadow_host (s : State) (r : Reg) (v : Long) : (s.setShadow r v).host = s.host := rfl
@[simp] theorem State.setShadow_out (s : State) (r : Reg) (v : Long) : (s.setShadow r v).out = s.out := rfl
@[simp] theorem State.setShadow_log (s : State) (r : Reg) (v : Long) : (s.setShadow r v).log = s.log := rfl
@[simp] theorem State.setShadow_logTotal (s : State) (r : Reg) (v : Long) : (s.setShadow r v).logTotal = s.logTotal := rfl
@[simp] theorem State.setShadow_tensors (s : State) (r : Reg) (v : Long) : (s.setShadow r v).tensors = s.tensors := rfl
@[simp] theorem State.setShadow_courses (s : State) (r : Reg) (v : Long) : (s.setShadow r v).courses = s.courses := rfl
@[simp] theorem State.setShadow_copies (s : State) (r : Reg) (v : Long) : (s.setShadow r v).copies = s.copies := rfl
@[simp] theorem State.setShadow_steps (s : State) (r : Reg) (v : Long) : (s.setShadow r v).steps = s.steps := rfl
@[simp] theorem State.setShadow_journal (s : State) (r : Reg) (v : Long) : (s.setShadow r v).journal = s.journal := rfl
@[simp] theorem State.setShadow_mesh (s : State) (r : Reg) (v : Long) : (s.setShadow r v).mesh = s.mesh := rfl
@[simp] theorem State.setShadow_ve (s : State) (r : Reg) (v : Long) : (s.setShadow r v).ve = s.ve := rfl
@[simp] theorem State.setShadow_resume (s : State) (r : Reg) (v : Long) : (s.setShadow r v).resume = s.resume := rfl
@[simp] theorem State.setShadow_cores (s : State) (r : Reg) (v : Long) : (s.setShadow r v).cores = s.cores := rfl
@[simp] theorem State.setShadow_dm (s : State) (r : Reg) (v : Long) : (s.setShadow r v).dm = s.dm := rfl
@[simp] theorem State.setShadow_stackTab (s : State) (r : Reg) (v : Long) : (s.setShadow r v).stackTab = s.stackTab := rfl
@[simp] theorem State.setShadow_secure (s : State) (r : Reg) (v : Long) : (s.setShadow r v).secure = s.secure := rfl
@[simp] theorem State.setShadow_net (s : State) (r : Reg) (v : Long) : (s.setShadow r v).net = s.net := rfl
@[simp] theorem State.setShadow_power (s : State) (r : Reg) (v : Long) : (s.setShadow r v).power = s.power := rfl

/-! ## setBoth -/

@[simp] theorem State.setBoth_part (s : State) (r : Reg) (hi lo x : Nat) : (s.setBoth r hi lo x).part = s.part := rfl
@[simp] theorem State.setBoth_pkg (s : State) (r : Reg) (hi lo x : Nat) : (s.setBoth r hi lo x).pkg = s.pkg := rfl
@[simp] theorem State.setBoth_pending (s : State) (r : Reg) (hi lo x : Nat) : (s.setBoth r hi lo x).pending = s.pending := rfl
@[simp] theorem State.setBoth_free (s : State) (r : Reg) (hi lo x : Nat) : (s.setBoth r hi lo x).free = s.free := rfl
@[simp] theorem State.setBoth_host (s : State) (r : Reg) (hi lo x : Nat) : (s.setBoth r hi lo x).host = s.host := rfl
@[simp] theorem State.setBoth_out (s : State) (r : Reg) (hi lo x : Nat) : (s.setBoth r hi lo x).out = s.out := rfl
@[simp] theorem State.setBoth_log (s : State) (r : Reg) (hi lo x : Nat) : (s.setBoth r hi lo x).log = s.log := rfl
@[simp] theorem State.setBoth_logTotal (s : State) (r : Reg) (hi lo x : Nat) : (s.setBoth r hi lo x).logTotal = s.logTotal := rfl
@[simp] theorem State.setBoth_tensors (s : State) (r : Reg) (hi lo x : Nat) : (s.setBoth r hi lo x).tensors = s.tensors := rfl
@[simp] theorem State.setBoth_courses (s : State) (r : Reg) (hi lo x : Nat) : (s.setBoth r hi lo x).courses = s.courses := rfl
@[simp] theorem State.setBoth_copies (s : State) (r : Reg) (hi lo x : Nat) : (s.setBoth r hi lo x).copies = s.copies := rfl
@[simp] theorem State.setBoth_steps (s : State) (r : Reg) (hi lo x : Nat) : (s.setBoth r hi lo x).steps = s.steps := rfl
@[simp] theorem State.setBoth_journal (s : State) (r : Reg) (hi lo x : Nat) : (s.setBoth r hi lo x).journal = s.journal := rfl
@[simp] theorem State.setBoth_mesh (s : State) (r : Reg) (hi lo x : Nat) : (s.setBoth r hi lo x).mesh = s.mesh := rfl
@[simp] theorem State.setBoth_ve (s : State) (r : Reg) (hi lo x : Nat) : (s.setBoth r hi lo x).ve = s.ve := rfl
@[simp] theorem State.setBoth_resume (s : State) (r : Reg) (hi lo x : Nat) : (s.setBoth r hi lo x).resume = s.resume := rfl
@[simp] theorem State.setBoth_cores (s : State) (r : Reg) (hi lo x : Nat) : (s.setBoth r hi lo x).cores = s.cores := rfl
@[simp] theorem State.setBoth_dm (s : State) (r : Reg) (hi lo x : Nat) : (s.setBoth r hi lo x).dm = s.dm := rfl
@[simp] theorem State.setBoth_stackTab (s : State) (r : Reg) (hi lo x : Nat) : (s.setBoth r hi lo x).stackTab = s.stackTab := rfl
@[simp] theorem State.setBoth_secure (s : State) (r : Reg) (hi lo x : Nat) : (s.setBoth r hi lo x).secure = s.secure := rfl
@[simp] theorem State.setBoth_net (s : State) (r : Reg) (hi lo x : Nat) : (s.setBoth r hi lo x).net = s.net := rfl
@[simp] theorem State.setBoth_power (s : State) (r : Reg) (hi lo x : Nat) : (s.setBoth r hi lo x).power = s.power := rfl

/-! ## countReg -/

@[simp] theorem State.countReg_part (s : State) (r : Reg) (hi lo n : Nat) : (s.countReg r hi lo n).part = s.part := rfl
@[simp] theorem State.countReg_pkg (s : State) (r : Reg) (hi lo n : Nat) : (s.countReg r hi lo n).pkg = s.pkg := rfl
@[simp] theorem State.countReg_pending (s : State) (r : Reg) (hi lo n : Nat) : (s.countReg r hi lo n).pending = s.pending := rfl
@[simp] theorem State.countReg_free (s : State) (r : Reg) (hi lo n : Nat) : (s.countReg r hi lo n).free = s.free := rfl
@[simp] theorem State.countReg_host (s : State) (r : Reg) (hi lo n : Nat) : (s.countReg r hi lo n).host = s.host := rfl
@[simp] theorem State.countReg_out (s : State) (r : Reg) (hi lo n : Nat) : (s.countReg r hi lo n).out = s.out := rfl
@[simp] theorem State.countReg_log (s : State) (r : Reg) (hi lo n : Nat) : (s.countReg r hi lo n).log = s.log := rfl
@[simp] theorem State.countReg_logTotal (s : State) (r : Reg) (hi lo n : Nat) : (s.countReg r hi lo n).logTotal = s.logTotal := rfl
@[simp] theorem State.countReg_tensors (s : State) (r : Reg) (hi lo n : Nat) : (s.countReg r hi lo n).tensors = s.tensors := rfl
@[simp] theorem State.countReg_courses (s : State) (r : Reg) (hi lo n : Nat) : (s.countReg r hi lo n).courses = s.courses := rfl
@[simp] theorem State.countReg_copies (s : State) (r : Reg) (hi lo n : Nat) : (s.countReg r hi lo n).copies = s.copies := rfl
@[simp] theorem State.countReg_steps (s : State) (r : Reg) (hi lo n : Nat) : (s.countReg r hi lo n).steps = s.steps := rfl
@[simp] theorem State.countReg_journal (s : State) (r : Reg) (hi lo n : Nat) : (s.countReg r hi lo n).journal = s.journal := rfl
@[simp] theorem State.countReg_mesh (s : State) (r : Reg) (hi lo n : Nat) : (s.countReg r hi lo n).mesh = s.mesh := rfl
@[simp] theorem State.countReg_ve (s : State) (r : Reg) (hi lo n : Nat) : (s.countReg r hi lo n).ve = s.ve := rfl
@[simp] theorem State.countReg_resume (s : State) (r : Reg) (hi lo n : Nat) : (s.countReg r hi lo n).resume = s.resume := rfl
@[simp] theorem State.countReg_cores (s : State) (r : Reg) (hi lo n : Nat) : (s.countReg r hi lo n).cores = s.cores := rfl
@[simp] theorem State.countReg_dm (s : State) (r : Reg) (hi lo n : Nat) : (s.countReg r hi lo n).dm = s.dm := rfl
@[simp] theorem State.countReg_stackTab (s : State) (r : Reg) (hi lo n : Nat) : (s.countReg r hi lo n).stackTab = s.stackTab := rfl
@[simp] theorem State.countReg_secure (s : State) (r : Reg) (hi lo n : Nat) : (s.countReg r hi lo n).secure = s.secure := rfl
@[simp] theorem State.countReg_net (s : State) (r : Reg) (hi lo n : Nat) : (s.countReg r hi lo n).net = s.net := rfl
@[simp] theorem State.countReg_power (s : State) (r : Reg) (hi lo n : Nat) : (s.countReg r hi lo n).power = s.power := rfl

/-! ## latch -/

@[simp] theorem State.latch_part (s : State) (r : Reg) (bit : Nat) : (s.latch r bit).part = s.part := rfl
@[simp] theorem State.latch_pkg (s : State) (r : Reg) (bit : Nat) : (s.latch r bit).pkg = s.pkg := rfl
@[simp] theorem State.latch_pending (s : State) (r : Reg) (bit : Nat) : (s.latch r bit).pending = s.pending := rfl
@[simp] theorem State.latch_free (s : State) (r : Reg) (bit : Nat) : (s.latch r bit).free = s.free := rfl
@[simp] theorem State.latch_host (s : State) (r : Reg) (bit : Nat) : (s.latch r bit).host = s.host := rfl
@[simp] theorem State.latch_out (s : State) (r : Reg) (bit : Nat) : (s.latch r bit).out = s.out := rfl
@[simp] theorem State.latch_log (s : State) (r : Reg) (bit : Nat) : (s.latch r bit).log = s.log := rfl
@[simp] theorem State.latch_logTotal (s : State) (r : Reg) (bit : Nat) : (s.latch r bit).logTotal = s.logTotal := rfl
@[simp] theorem State.latch_tensors (s : State) (r : Reg) (bit : Nat) : (s.latch r bit).tensors = s.tensors := rfl
@[simp] theorem State.latch_courses (s : State) (r : Reg) (bit : Nat) : (s.latch r bit).courses = s.courses := rfl
@[simp] theorem State.latch_copies (s : State) (r : Reg) (bit : Nat) : (s.latch r bit).copies = s.copies := rfl
@[simp] theorem State.latch_steps (s : State) (r : Reg) (bit : Nat) : (s.latch r bit).steps = s.steps := rfl
@[simp] theorem State.latch_journal (s : State) (r : Reg) (bit : Nat) : (s.latch r bit).journal = s.journal := rfl
@[simp] theorem State.latch_mesh (s : State) (r : Reg) (bit : Nat) : (s.latch r bit).mesh = s.mesh := rfl
@[simp] theorem State.latch_ve (s : State) (r : Reg) (bit : Nat) : (s.latch r bit).ve = s.ve := rfl
@[simp] theorem State.latch_resume (s : State) (r : Reg) (bit : Nat) : (s.latch r bit).resume = s.resume := rfl
@[simp] theorem State.latch_cores (s : State) (r : Reg) (bit : Nat) : (s.latch r bit).cores = s.cores := rfl
@[simp] theorem State.latch_dm (s : State) (r : Reg) (bit : Nat) : (s.latch r bit).dm = s.dm := rfl
@[simp] theorem State.latch_stackTab (s : State) (r : Reg) (bit : Nat) : (s.latch r bit).stackTab = s.stackTab := rfl
@[simp] theorem State.latch_secure (s : State) (r : Reg) (bit : Nat) : (s.latch r bit).secure = s.secure := rfl
@[simp] theorem State.latch_net (s : State) (r : Reg) (bit : Nat) : (s.latch r bit).net = s.net := rfl
@[simp] theorem State.latch_power (s : State) (r : Reg) (bit : Nat) : (s.latch r bit).power = s.power := rfl

/-! ## setPend -/

@[simp] theorem State.setPend_part (s : State) (f : Nat) (p : Option PendCommit) : (s.setPend f p).part = s.part := rfl
@[simp] theorem State.setPend_pkg (s : State) (f : Nat) (p : Option PendCommit) : (s.setPend f p).pkg = s.pkg := rfl
@[simp] theorem State.setPend_pending (s : State) (f : Nat) (p : Option PendCommit) : (s.setPend f p).pending = s.pending := rfl
@[simp] theorem State.setPend_free (s : State) (f : Nat) (p : Option PendCommit) : (s.setPend f p).free = s.free := rfl
@[simp] theorem State.setPend_host (s : State) (f : Nat) (p : Option PendCommit) : (s.setPend f p).host = s.host := rfl
@[simp] theorem State.setPend_out (s : State) (f : Nat) (p : Option PendCommit) : (s.setPend f p).out = s.out := rfl
@[simp] theorem State.setPend_log (s : State) (f : Nat) (p : Option PendCommit) : (s.setPend f p).log = s.log := rfl
@[simp] theorem State.setPend_logTotal (s : State) (f : Nat) (p : Option PendCommit) : (s.setPend f p).logTotal = s.logTotal := rfl
@[simp] theorem State.setPend_tensors (s : State) (f : Nat) (p : Option PendCommit) : (s.setPend f p).tensors = s.tensors := rfl
@[simp] theorem State.setPend_courses (s : State) (f : Nat) (p : Option PendCommit) : (s.setPend f p).courses = s.courses := rfl
@[simp] theorem State.setPend_copies (s : State) (f : Nat) (p : Option PendCommit) : (s.setPend f p).copies = s.copies := rfl
@[simp] theorem State.setPend_steps (s : State) (f : Nat) (p : Option PendCommit) : (s.setPend f p).steps = s.steps := rfl
@[simp] theorem State.setPend_journal (s : State) (f : Nat) (p : Option PendCommit) : (s.setPend f p).journal = s.journal := rfl
@[simp] theorem State.setPend_mesh (s : State) (f : Nat) (p : Option PendCommit) : (s.setPend f p).mesh = s.mesh := rfl
@[simp] theorem State.setPend_ve (s : State) (f : Nat) (p : Option PendCommit) : (s.setPend f p).ve = s.ve := rfl
@[simp] theorem State.setPend_resume (s : State) (f : Nat) (p : Option PendCommit) : (s.setPend f p).resume = s.resume := rfl
@[simp] theorem State.setPend_cores (s : State) (f : Nat) (p : Option PendCommit) : (s.setPend f p).cores = s.cores := rfl
@[simp] theorem State.setPend_dm (s : State) (f : Nat) (p : Option PendCommit) : (s.setPend f p).dm = s.dm := rfl
@[simp] theorem State.setPend_stackTab (s : State) (f : Nat) (p : Option PendCommit) : (s.setPend f p).stackTab = s.stackTab := rfl
@[simp] theorem State.setPend_secure (s : State) (f : Nat) (p : Option PendCommit) : (s.setPend f p).secure = s.secure := rfl
@[simp] theorem State.setPend_net (s : State) (f : Nat) (p : Option PendCommit) : (s.setPend f p).net = s.net := rfl
@[simp] theorem State.setPend_power (s : State) (f : Nat) (p : Option PendCommit) : (s.setPend f p).power = s.power := rfl

/-! ## setSq -/

@[simp] theorem State.setSq_part (s : State) (n : Nat) (q : SqRun) : (s.setSq n q).part = s.part := rfl
@[simp] theorem State.setSq_pkg (s : State) (n : Nat) (q : SqRun) : (s.setSq n q).pkg = s.pkg := rfl
@[simp] theorem State.setSq_pending (s : State) (n : Nat) (q : SqRun) : (s.setSq n q).pending = s.pending := rfl
@[simp] theorem State.setSq_free (s : State) (n : Nat) (q : SqRun) : (s.setSq n q).free = s.free := rfl
@[simp] theorem State.setSq_regs (s : State) (n : Nat) (q : SqRun) : (s.setSq n q).regs = s.regs := rfl
@[simp] theorem State.setSq_out (s : State) (n : Nat) (q : SqRun) : (s.setSq n q).out = s.out := rfl
@[simp] theorem State.setSq_log (s : State) (n : Nat) (q : SqRun) : (s.setSq n q).log = s.log := rfl
@[simp] theorem State.setSq_logTotal (s : State) (n : Nat) (q : SqRun) : (s.setSq n q).logTotal = s.logTotal := rfl
@[simp] theorem State.setSq_tensors (s : State) (n : Nat) (q : SqRun) : (s.setSq n q).tensors = s.tensors := rfl
@[simp] theorem State.setSq_courses (s : State) (n : Nat) (q : SqRun) : (s.setSq n q).courses = s.courses := rfl
@[simp] theorem State.setSq_copies (s : State) (n : Nat) (q : SqRun) : (s.setSq n q).copies = s.copies := rfl
@[simp] theorem State.setSq_steps (s : State) (n : Nat) (q : SqRun) : (s.setSq n q).steps = s.steps := rfl
@[simp] theorem State.setSq_journal (s : State) (n : Nat) (q : SqRun) : (s.setSq n q).journal = s.journal := rfl
@[simp] theorem State.setSq_mesh (s : State) (n : Nat) (q : SqRun) : (s.setSq n q).mesh = s.mesh := rfl
@[simp] theorem State.setSq_ve (s : State) (n : Nat) (q : SqRun) : (s.setSq n q).ve = s.ve := rfl
@[simp] theorem State.setSq_resume (s : State) (n : Nat) (q : SqRun) : (s.setSq n q).resume = s.resume := rfl
@[simp] theorem State.setSq_cores (s : State) (n : Nat) (q : SqRun) : (s.setSq n q).cores = s.cores := rfl
@[simp] theorem State.setSq_dm (s : State) (n : Nat) (q : SqRun) : (s.setSq n q).dm = s.dm := rfl
@[simp] theorem State.setSq_stackTab (s : State) (n : Nat) (q : SqRun) : (s.setSq n q).stackTab = s.stackTab := rfl
@[simp] theorem State.setSq_secure (s : State) (n : Nat) (q : SqRun) : (s.setSq n q).secure = s.secure := rfl
@[simp] theorem State.setSq_net (s : State) (n : Nat) (q : SqRun) : (s.setSq n q).net = s.net := rfl
@[simp] theorem State.setSq_power (s : State) (n : Nat) (q : SqRun) : (s.setSq n q).power = s.power := rfl

/-! ## setCq -/

@[simp] theorem State.setCq_part (s : State) (n : Nat) (q : CqRun) : (s.setCq n q).part = s.part := rfl
@[simp] theorem State.setCq_pkg (s : State) (n : Nat) (q : CqRun) : (s.setCq n q).pkg = s.pkg := rfl
@[simp] theorem State.setCq_pending (s : State) (n : Nat) (q : CqRun) : (s.setCq n q).pending = s.pending := rfl
@[simp] theorem State.setCq_free (s : State) (n : Nat) (q : CqRun) : (s.setCq n q).free = s.free := rfl
@[simp] theorem State.setCq_regs (s : State) (n : Nat) (q : CqRun) : (s.setCq n q).regs = s.regs := rfl
@[simp] theorem State.setCq_out (s : State) (n : Nat) (q : CqRun) : (s.setCq n q).out = s.out := rfl
@[simp] theorem State.setCq_log (s : State) (n : Nat) (q : CqRun) : (s.setCq n q).log = s.log := rfl
@[simp] theorem State.setCq_logTotal (s : State) (n : Nat) (q : CqRun) : (s.setCq n q).logTotal = s.logTotal := rfl
@[simp] theorem State.setCq_tensors (s : State) (n : Nat) (q : CqRun) : (s.setCq n q).tensors = s.tensors := rfl
@[simp] theorem State.setCq_courses (s : State) (n : Nat) (q : CqRun) : (s.setCq n q).courses = s.courses := rfl
@[simp] theorem State.setCq_copies (s : State) (n : Nat) (q : CqRun) : (s.setCq n q).copies = s.copies := rfl
@[simp] theorem State.setCq_steps (s : State) (n : Nat) (q : CqRun) : (s.setCq n q).steps = s.steps := rfl
@[simp] theorem State.setCq_journal (s : State) (n : Nat) (q : CqRun) : (s.setCq n q).journal = s.journal := rfl
@[simp] theorem State.setCq_mesh (s : State) (n : Nat) (q : CqRun) : (s.setCq n q).mesh = s.mesh := rfl
@[simp] theorem State.setCq_ve (s : State) (n : Nat) (q : CqRun) : (s.setCq n q).ve = s.ve := rfl
@[simp] theorem State.setCq_resume (s : State) (n : Nat) (q : CqRun) : (s.setCq n q).resume = s.resume := rfl
@[simp] theorem State.setCq_cores (s : State) (n : Nat) (q : CqRun) : (s.setCq n q).cores = s.cores := rfl
@[simp] theorem State.setCq_dm (s : State) (n : Nat) (q : CqRun) : (s.setCq n q).dm = s.dm := rfl
@[simp] theorem State.setCq_stackTab (s : State) (n : Nat) (q : CqRun) : (s.setCq n q).stackTab = s.stackTab := rfl
@[simp] theorem State.setCq_secure (s : State) (n : Nat) (q : CqRun) : (s.setCq n q).secure = s.secure := rfl
@[simp] theorem State.setCq_net (s : State) (n : Nat) (q : CqRun) : (s.setCq n q).net = s.net := rfl
@[simp] theorem State.setCq_power (s : State) (n : Nat) (q : CqRun) : (s.setCq n q).power = s.power := rfl

/-! ## dropDesc -/

@[simp] theorem State.dropDesc_part (s : State) (d : Desc) : (s.dropDesc d).part = s.part := rfl
@[simp] theorem State.dropDesc_pkg (s : State) (d : Desc) : (s.dropDesc d).pkg = s.pkg := rfl
@[simp] theorem State.dropDesc_pending (s : State) (d : Desc) : (s.dropDesc d).pending = s.pending := rfl
@[simp] theorem State.dropDesc_free (s : State) (d : Desc) : (s.dropDesc d).free = s.free := rfl
@[simp] theorem State.dropDesc_regs (s : State) (d : Desc) : (s.dropDesc d).regs = s.regs := rfl
@[simp] theorem State.dropDesc_out (s : State) (d : Desc) : (s.dropDesc d).out = s.out := rfl
@[simp] theorem State.dropDesc_log (s : State) (d : Desc) : (s.dropDesc d).log = s.log := rfl
@[simp] theorem State.dropDesc_logTotal (s : State) (d : Desc) : (s.dropDesc d).logTotal = s.logTotal := rfl
@[simp] theorem State.dropDesc_tensors (s : State) (d : Desc) : (s.dropDesc d).tensors = s.tensors := rfl
@[simp] theorem State.dropDesc_courses (s : State) (d : Desc) : (s.dropDesc d).courses = s.courses := rfl
@[simp] theorem State.dropDesc_copies (s : State) (d : Desc) : (s.dropDesc d).copies = s.copies := rfl
@[simp] theorem State.dropDesc_steps (s : State) (d : Desc) : (s.dropDesc d).steps = s.steps := rfl
@[simp] theorem State.dropDesc_journal (s : State) (d : Desc) : (s.dropDesc d).journal = s.journal := rfl
@[simp] theorem State.dropDesc_mesh (s : State) (d : Desc) : (s.dropDesc d).mesh = s.mesh := rfl
@[simp] theorem State.dropDesc_ve (s : State) (d : Desc) : (s.dropDesc d).ve = s.ve := rfl
@[simp] theorem State.dropDesc_resume (s : State) (d : Desc) : (s.dropDesc d).resume = s.resume := rfl
@[simp] theorem State.dropDesc_cores (s : State) (d : Desc) : (s.dropDesc d).cores = s.cores := rfl
@[simp] theorem State.dropDesc_dm (s : State) (d : Desc) : (s.dropDesc d).dm = s.dm := rfl
@[simp] theorem State.dropDesc_stackTab (s : State) (d : Desc) : (s.dropDesc d).stackTab = s.stackTab := rfl
@[simp] theorem State.dropDesc_secure (s : State) (d : Desc) : (s.dropDesc d).secure = s.secure := rfl
@[simp] theorem State.dropDesc_net (s : State) (d : Desc) : (s.dropDesc d).net = s.net := rfl
@[simp] theorem State.dropDesc_power (s : State) (d : Desc) : (s.dropDesc d).power = s.power := rfl

/-! ## emit -/

@[simp] theorem State.emit_part (s : State) (o : Out) : (s.emit o).part = s.part := rfl
@[simp] theorem State.emit_pkg (s : State) (o : Out) : (s.emit o).pkg = s.pkg := rfl
@[simp] theorem State.emit_pending (s : State) (o : Out) : (s.emit o).pending = s.pending := rfl
@[simp] theorem State.emit_free (s : State) (o : Out) : (s.emit o).free = s.free := rfl
@[simp] theorem State.emit_regs (s : State) (o : Out) : (s.emit o).regs = s.regs := rfl
@[simp] theorem State.emit_host (s : State) (o : Out) : (s.emit o).host = s.host := rfl
@[simp] theorem State.emit_log (s : State) (o : Out) : (s.emit o).log = s.log := rfl
@[simp] theorem State.emit_logTotal (s : State) (o : Out) : (s.emit o).logTotal = s.logTotal := rfl
@[simp] theorem State.emit_tensors (s : State) (o : Out) : (s.emit o).tensors = s.tensors := rfl
@[simp] theorem State.emit_courses (s : State) (o : Out) : (s.emit o).courses = s.courses := rfl
@[simp] theorem State.emit_copies (s : State) (o : Out) : (s.emit o).copies = s.copies := rfl
@[simp] theorem State.emit_steps (s : State) (o : Out) : (s.emit o).steps = s.steps := rfl
@[simp] theorem State.emit_journal (s : State) (o : Out) : (s.emit o).journal = s.journal := rfl
@[simp] theorem State.emit_mesh (s : State) (o : Out) : (s.emit o).mesh = s.mesh := rfl
@[simp] theorem State.emit_ve (s : State) (o : Out) : (s.emit o).ve = s.ve := rfl
@[simp] theorem State.emit_resume (s : State) (o : Out) : (s.emit o).resume = s.resume := rfl
@[simp] theorem State.emit_cores (s : State) (o : Out) : (s.emit o).cores = s.cores := rfl
@[simp] theorem State.emit_dm (s : State) (o : Out) : (s.emit o).dm = s.dm := rfl
@[simp] theorem State.emit_stackTab (s : State) (o : Out) : (s.emit o).stackTab = s.stackTab := rfl
@[simp] theorem State.emit_secure (s : State) (o : Out) : (s.emit o).secure = s.secure := rfl
@[simp] theorem State.emit_net (s : State) (o : Out) : (s.emit o).net = s.net := rfl
@[simp] theorem State.emit_power (s : State) (o : Out) : (s.emit o).power = s.power := rfl

/-! ## setTensor -/

@[simp] theorem State.setTensor_part (s : State) (id : Nat) (t : Option Tensor) : (s.setTensor id t).part = s.part := rfl
@[simp] theorem State.setTensor_pkg (s : State) (id : Nat) (t : Option Tensor) : (s.setTensor id t).pkg = s.pkg := rfl
@[simp] theorem State.setTensor_pending (s : State) (id : Nat) (t : Option Tensor) : (s.setTensor id t).pending = s.pending := rfl
@[simp] theorem State.setTensor_free (s : State) (id : Nat) (t : Option Tensor) : (s.setTensor id t).free = s.free := rfl
@[simp] theorem State.setTensor_regs (s : State) (id : Nat) (t : Option Tensor) : (s.setTensor id t).regs = s.regs := rfl
@[simp] theorem State.setTensor_host (s : State) (id : Nat) (t : Option Tensor) : (s.setTensor id t).host = s.host := rfl
@[simp] theorem State.setTensor_out (s : State) (id : Nat) (t : Option Tensor) : (s.setTensor id t).out = s.out := rfl
@[simp] theorem State.setTensor_log (s : State) (id : Nat) (t : Option Tensor) : (s.setTensor id t).log = s.log := rfl
@[simp] theorem State.setTensor_logTotal (s : State) (id : Nat) (t : Option Tensor) : (s.setTensor id t).logTotal = s.logTotal := rfl
@[simp] theorem State.setTensor_courses (s : State) (id : Nat) (t : Option Tensor) : (s.setTensor id t).courses = s.courses := rfl
@[simp] theorem State.setTensor_copies (s : State) (id : Nat) (t : Option Tensor) : (s.setTensor id t).copies = s.copies := rfl
@[simp] theorem State.setTensor_steps (s : State) (id : Nat) (t : Option Tensor) : (s.setTensor id t).steps = s.steps := rfl
@[simp] theorem State.setTensor_journal (s : State) (id : Nat) (t : Option Tensor) : (s.setTensor id t).journal = s.journal := rfl
@[simp] theorem State.setTensor_mesh (s : State) (id : Nat) (t : Option Tensor) : (s.setTensor id t).mesh = s.mesh := rfl
@[simp] theorem State.setTensor_ve (s : State) (id : Nat) (t : Option Tensor) : (s.setTensor id t).ve = s.ve := rfl
@[simp] theorem State.setTensor_resume (s : State) (id : Nat) (t : Option Tensor) : (s.setTensor id t).resume = s.resume := rfl
@[simp] theorem State.setTensor_cores (s : State) (id : Nat) (t : Option Tensor) : (s.setTensor id t).cores = s.cores := rfl
@[simp] theorem State.setTensor_dm (s : State) (id : Nat) (t : Option Tensor) : (s.setTensor id t).dm = s.dm := rfl
@[simp] theorem State.setTensor_stackTab (s : State) (id : Nat) (t : Option Tensor) : (s.setTensor id t).stackTab = s.stackTab := rfl
@[simp] theorem State.setTensor_secure (s : State) (id : Nat) (t : Option Tensor) : (s.setTensor id t).secure = s.secure := rfl
@[simp] theorem State.setTensor_net (s : State) (id : Nat) (t : Option Tensor) : (s.setTensor id t).net = s.net := rfl
@[simp] theorem State.setTensor_power (s : State) (id : Nat) (t : Option Tensor) : (s.setTensor id t).power = s.power := rfl

/-! ## setCourse -/

@[simp] theorem State.setCourse_part (s : State) (c : Course) : (s.setCourse c).part = s.part := rfl
@[simp] theorem State.setCourse_pkg (s : State) (c : Course) : (s.setCourse c).pkg = s.pkg := rfl
@[simp] theorem State.setCourse_pending (s : State) (c : Course) : (s.setCourse c).pending = s.pending := rfl
@[simp] theorem State.setCourse_free (s : State) (c : Course) : (s.setCourse c).free = s.free := rfl
@[simp] theorem State.setCourse_regs (s : State) (c : Course) : (s.setCourse c).regs = s.regs := rfl
@[simp] theorem State.setCourse_host (s : State) (c : Course) : (s.setCourse c).host = s.host := rfl
@[simp] theorem State.setCourse_out (s : State) (c : Course) : (s.setCourse c).out = s.out := rfl
@[simp] theorem State.setCourse_log (s : State) (c : Course) : (s.setCourse c).log = s.log := rfl
@[simp] theorem State.setCourse_logTotal (s : State) (c : Course) : (s.setCourse c).logTotal = s.logTotal := rfl
@[simp] theorem State.setCourse_tensors (s : State) (c : Course) : (s.setCourse c).tensors = s.tensors := rfl
@[simp] theorem State.setCourse_copies (s : State) (c : Course) : (s.setCourse c).copies = s.copies := rfl
@[simp] theorem State.setCourse_steps (s : State) (c : Course) : (s.setCourse c).steps = s.steps := rfl
@[simp] theorem State.setCourse_journal (s : State) (c : Course) : (s.setCourse c).journal = s.journal := rfl
@[simp] theorem State.setCourse_mesh (s : State) (c : Course) : (s.setCourse c).mesh = s.mesh := rfl
@[simp] theorem State.setCourse_ve (s : State) (c : Course) : (s.setCourse c).ve = s.ve := rfl
@[simp] theorem State.setCourse_resume (s : State) (c : Course) : (s.setCourse c).resume = s.resume := rfl
@[simp] theorem State.setCourse_cores (s : State) (c : Course) : (s.setCourse c).cores = s.cores := rfl
@[simp] theorem State.setCourse_dm (s : State) (c : Course) : (s.setCourse c).dm = s.dm := rfl
@[simp] theorem State.setCourse_stackTab (s : State) (c : Course) : (s.setCourse c).stackTab = s.stackTab := rfl
@[simp] theorem State.setCourse_secure (s : State) (c : Course) : (s.setCourse c).secure = s.secure := rfl
@[simp] theorem State.setCourse_net (s : State) (c : Course) : (s.setCourse c).net = s.net := rfl
@[simp] theorem State.setCourse_power (s : State) (c : Course) : (s.setCourse c).power = s.power := rfl

/-! ## setStepM -/

@[simp] theorem State.setStepM_part (s : State) (f : Nat) (m : StepM) : (s.setStepM f m).part = s.part := rfl
@[simp] theorem State.setStepM_pkg (s : State) (f : Nat) (m : StepM) : (s.setStepM f m).pkg = s.pkg := rfl
@[simp] theorem State.setStepM_pending (s : State) (f : Nat) (m : StepM) : (s.setStepM f m).pending = s.pending := rfl
@[simp] theorem State.setStepM_free (s : State) (f : Nat) (m : StepM) : (s.setStepM f m).free = s.free := rfl
@[simp] theorem State.setStepM_regs (s : State) (f : Nat) (m : StepM) : (s.setStepM f m).regs = s.regs := rfl
@[simp] theorem State.setStepM_host (s : State) (f : Nat) (m : StepM) : (s.setStepM f m).host = s.host := rfl
@[simp] theorem State.setStepM_out (s : State) (f : Nat) (m : StepM) : (s.setStepM f m).out = s.out := rfl
@[simp] theorem State.setStepM_log (s : State) (f : Nat) (m : StepM) : (s.setStepM f m).log = s.log := rfl
@[simp] theorem State.setStepM_logTotal (s : State) (f : Nat) (m : StepM) : (s.setStepM f m).logTotal = s.logTotal := rfl
@[simp] theorem State.setStepM_tensors (s : State) (f : Nat) (m : StepM) : (s.setStepM f m).tensors = s.tensors := rfl
@[simp] theorem State.setStepM_courses (s : State) (f : Nat) (m : StepM) : (s.setStepM f m).courses = s.courses := rfl
@[simp] theorem State.setStepM_copies (s : State) (f : Nat) (m : StepM) : (s.setStepM f m).copies = s.copies := rfl
@[simp] theorem State.setStepM_journal (s : State) (f : Nat) (m : StepM) : (s.setStepM f m).journal = s.journal := rfl
@[simp] theorem State.setStepM_mesh (s : State) (f : Nat) (m : StepM) : (s.setStepM f m).mesh = s.mesh := rfl
@[simp] theorem State.setStepM_ve (s : State) (f : Nat) (m : StepM) : (s.setStepM f m).ve = s.ve := rfl
@[simp] theorem State.setStepM_resume (s : State) (f : Nat) (m : StepM) : (s.setStepM f m).resume = s.resume := rfl
@[simp] theorem State.setStepM_cores (s : State) (f : Nat) (m : StepM) : (s.setStepM f m).cores = s.cores := rfl
@[simp] theorem State.setStepM_dm (s : State) (f : Nat) (m : StepM) : (s.setStepM f m).dm = s.dm := rfl
@[simp] theorem State.setStepM_stackTab (s : State) (f : Nat) (m : StepM) : (s.setStepM f m).stackTab = s.stackTab := rfl
@[simp] theorem State.setStepM_secure (s : State) (f : Nat) (m : StepM) : (s.setStepM f m).secure = s.secure := rfl
@[simp] theorem State.setStepM_net (s : State) (f : Nat) (m : StepM) : (s.setStepM f m).net = s.net := rfl
@[simp] theorem State.setStepM_power (s : State) (f : Nat) (m : StepM) : (s.setStepM f m).power = s.power := rfl

/-! ## setEntry -/

@[simp] theorem State.setEntry_part (s : State) (j : Nat) (e : Option JEntry) : (s.setEntry j e).part = s.part := rfl
@[simp] theorem State.setEntry_pkg (s : State) (j : Nat) (e : Option JEntry) : (s.setEntry j e).pkg = s.pkg := rfl
@[simp] theorem State.setEntry_pending (s : State) (j : Nat) (e : Option JEntry) : (s.setEntry j e).pending = s.pending := rfl
@[simp] theorem State.setEntry_free (s : State) (j : Nat) (e : Option JEntry) : (s.setEntry j e).free = s.free := rfl
@[simp] theorem State.setEntry_regs (s : State) (j : Nat) (e : Option JEntry) : (s.setEntry j e).regs = s.regs := rfl
@[simp] theorem State.setEntry_host (s : State) (j : Nat) (e : Option JEntry) : (s.setEntry j e).host = s.host := rfl
@[simp] theorem State.setEntry_out (s : State) (j : Nat) (e : Option JEntry) : (s.setEntry j e).out = s.out := rfl
@[simp] theorem State.setEntry_log (s : State) (j : Nat) (e : Option JEntry) : (s.setEntry j e).log = s.log := rfl
@[simp] theorem State.setEntry_logTotal (s : State) (j : Nat) (e : Option JEntry) : (s.setEntry j e).logTotal = s.logTotal := rfl
@[simp] theorem State.setEntry_tensors (s : State) (j : Nat) (e : Option JEntry) : (s.setEntry j e).tensors = s.tensors := rfl
@[simp] theorem State.setEntry_courses (s : State) (j : Nat) (e : Option JEntry) : (s.setEntry j e).courses = s.courses := rfl
@[simp] theorem State.setEntry_copies (s : State) (j : Nat) (e : Option JEntry) : (s.setEntry j e).copies = s.copies := rfl
@[simp] theorem State.setEntry_steps (s : State) (j : Nat) (e : Option JEntry) : (s.setEntry j e).steps = s.steps := rfl
@[simp] theorem State.setEntry_mesh (s : State) (j : Nat) (e : Option JEntry) : (s.setEntry j e).mesh = s.mesh := rfl
@[simp] theorem State.setEntry_ve (s : State) (j : Nat) (e : Option JEntry) : (s.setEntry j e).ve = s.ve := rfl
@[simp] theorem State.setEntry_resume (s : State) (j : Nat) (e : Option JEntry) : (s.setEntry j e).resume = s.resume := rfl
@[simp] theorem State.setEntry_cores (s : State) (j : Nat) (e : Option JEntry) : (s.setEntry j e).cores = s.cores := rfl
@[simp] theorem State.setEntry_dm (s : State) (j : Nat) (e : Option JEntry) : (s.setEntry j e).dm = s.dm := rfl
@[simp] theorem State.setEntry_stackTab (s : State) (j : Nat) (e : Option JEntry) : (s.setEntry j e).stackTab = s.stackTab := rfl
@[simp] theorem State.setEntry_secure (s : State) (j : Nat) (e : Option JEntry) : (s.setEntry j e).secure = s.secure := rfl
@[simp] theorem State.setEntry_net (s : State) (j : Nat) (e : Option JEntry) : (s.setEntry j e).net = s.net := rfl
@[simp] theorem State.setEntry_power (s : State) (j : Nat) (e : Option JEntry) : (s.setEntry j e).power = s.power := rfl

/-! ## setVe -/

@[simp] theorem State.setVe_part (s : State) (core ve : Nat) (v : VeRun) : (s.setVe core ve v).part = s.part := rfl
@[simp] theorem State.setVe_pkg (s : State) (core ve : Nat) (v : VeRun) : (s.setVe core ve v).pkg = s.pkg := rfl
@[simp] theorem State.setVe_pending (s : State) (core ve : Nat) (v : VeRun) : (s.setVe core ve v).pending = s.pending := rfl
@[simp] theorem State.setVe_free (s : State) (core ve : Nat) (v : VeRun) : (s.setVe core ve v).free = s.free := rfl
@[simp] theorem State.setVe_regs (s : State) (core ve : Nat) (v : VeRun) : (s.setVe core ve v).regs = s.regs := rfl
@[simp] theorem State.setVe_host (s : State) (core ve : Nat) (v : VeRun) : (s.setVe core ve v).host = s.host := rfl
@[simp] theorem State.setVe_out (s : State) (core ve : Nat) (v : VeRun) : (s.setVe core ve v).out = s.out := rfl
@[simp] theorem State.setVe_log (s : State) (core ve : Nat) (v : VeRun) : (s.setVe core ve v).log = s.log := rfl
@[simp] theorem State.setVe_logTotal (s : State) (core ve : Nat) (v : VeRun) : (s.setVe core ve v).logTotal = s.logTotal := rfl
@[simp] theorem State.setVe_tensors (s : State) (core ve : Nat) (v : VeRun) : (s.setVe core ve v).tensors = s.tensors := rfl
@[simp] theorem State.setVe_courses (s : State) (core ve : Nat) (v : VeRun) : (s.setVe core ve v).courses = s.courses := rfl
@[simp] theorem State.setVe_copies (s : State) (core ve : Nat) (v : VeRun) : (s.setVe core ve v).copies = s.copies := rfl
@[simp] theorem State.setVe_steps (s : State) (core ve : Nat) (v : VeRun) : (s.setVe core ve v).steps = s.steps := rfl
@[simp] theorem State.setVe_journal (s : State) (core ve : Nat) (v : VeRun) : (s.setVe core ve v).journal = s.journal := rfl
@[simp] theorem State.setVe_mesh (s : State) (core ve : Nat) (v : VeRun) : (s.setVe core ve v).mesh = s.mesh := rfl
@[simp] theorem State.setVe_resume (s : State) (core ve : Nat) (v : VeRun) : (s.setVe core ve v).resume = s.resume := rfl
@[simp] theorem State.setVe_cores (s : State) (core ve : Nat) (v : VeRun) : (s.setVe core ve v).cores = s.cores := rfl
@[simp] theorem State.setVe_dm (s : State) (core ve : Nat) (v : VeRun) : (s.setVe core ve v).dm = s.dm := rfl
@[simp] theorem State.setVe_stackTab (s : State) (core ve : Nat) (v : VeRun) : (s.setVe core ve v).stackTab = s.stackTab := rfl
@[simp] theorem State.setVe_secure (s : State) (core ve : Nat) (v : VeRun) : (s.setVe core ve v).secure = s.secure := rfl
@[simp] theorem State.setVe_net (s : State) (core ve : Nat) (v : VeRun) : (s.setVe core ve v).net = s.net := rfl
@[simp] theorem State.setVe_power (s : State) (core ve : Nat) (v : VeRun) : (s.setVe core ve v).power = s.power := rfl

/-! ## setCore -/

@[simp] theorem State.setCore_part (s : State) (n : Nat) (k : Core) : (s.setCore n k).part = s.part := rfl
@[simp] theorem State.setCore_pkg (s : State) (n : Nat) (k : Core) : (s.setCore n k).pkg = s.pkg := rfl
@[simp] theorem State.setCore_pending (s : State) (n : Nat) (k : Core) : (s.setCore n k).pending = s.pending := rfl
@[simp] theorem State.setCore_free (s : State) (n : Nat) (k : Core) : (s.setCore n k).free = s.free := rfl
@[simp] theorem State.setCore_regs (s : State) (n : Nat) (k : Core) : (s.setCore n k).regs = s.regs := rfl
@[simp] theorem State.setCore_host (s : State) (n : Nat) (k : Core) : (s.setCore n k).host = s.host := rfl
@[simp] theorem State.setCore_out (s : State) (n : Nat) (k : Core) : (s.setCore n k).out = s.out := rfl
@[simp] theorem State.setCore_log (s : State) (n : Nat) (k : Core) : (s.setCore n k).log = s.log := rfl
@[simp] theorem State.setCore_logTotal (s : State) (n : Nat) (k : Core) : (s.setCore n k).logTotal = s.logTotal := rfl
@[simp] theorem State.setCore_tensors (s : State) (n : Nat) (k : Core) : (s.setCore n k).tensors = s.tensors := rfl
@[simp] theorem State.setCore_courses (s : State) (n : Nat) (k : Core) : (s.setCore n k).courses = s.courses := rfl
@[simp] theorem State.setCore_copies (s : State) (n : Nat) (k : Core) : (s.setCore n k).copies = s.copies := rfl
@[simp] theorem State.setCore_steps (s : State) (n : Nat) (k : Core) : (s.setCore n k).steps = s.steps := rfl
@[simp] theorem State.setCore_journal (s : State) (n : Nat) (k : Core) : (s.setCore n k).journal = s.journal := rfl
@[simp] theorem State.setCore_mesh (s : State) (n : Nat) (k : Core) : (s.setCore n k).mesh = s.mesh := rfl
@[simp] theorem State.setCore_ve (s : State) (n : Nat) (k : Core) : (s.setCore n k).ve = s.ve := rfl
@[simp] theorem State.setCore_resume (s : State) (n : Nat) (k : Core) : (s.setCore n k).resume = s.resume := rfl
@[simp] theorem State.setCore_dm (s : State) (n : Nat) (k : Core) : (s.setCore n k).dm = s.dm := rfl
@[simp] theorem State.setCore_stackTab (s : State) (n : Nat) (k : Core) : (s.setCore n k).stackTab = s.stackTab := rfl
@[simp] theorem State.setCore_secure (s : State) (n : Nat) (k : Core) : (s.setCore n k).secure = s.secure := rfl
@[simp] theorem State.setCore_net (s : State) (n : Nat) (k : Core) : (s.setCore n k).net = s.net := rfl
@[simp] theorem State.setCore_power (s : State) (n : Nat) (k : Core) : (s.setCore n k).power = s.power := rfl

/-! ## setQueue -/

@[simp] theorem State.setQueue_part (s : State) (core q : Nat) (x : TileQueue) : (s.setQueue core q x).part = s.part := rfl
@[simp] theorem State.setQueue_pkg (s : State) (core q : Nat) (x : TileQueue) : (s.setQueue core q x).pkg = s.pkg := rfl
@[simp] theorem State.setQueue_pending (s : State) (core q : Nat) (x : TileQueue) : (s.setQueue core q x).pending = s.pending := rfl
@[simp] theorem State.setQueue_free (s : State) (core q : Nat) (x : TileQueue) : (s.setQueue core q x).free = s.free := rfl
@[simp] theorem State.setQueue_regs (s : State) (core q : Nat) (x : TileQueue) : (s.setQueue core q x).regs = s.regs := rfl
@[simp] theorem State.setQueue_host (s : State) (core q : Nat) (x : TileQueue) : (s.setQueue core q x).host = s.host := rfl
@[simp] theorem State.setQueue_out (s : State) (core q : Nat) (x : TileQueue) : (s.setQueue core q x).out = s.out := rfl
@[simp] theorem State.setQueue_log (s : State) (core q : Nat) (x : TileQueue) : (s.setQueue core q x).log = s.log := rfl
@[simp] theorem State.setQueue_logTotal (s : State) (core q : Nat) (x : TileQueue) : (s.setQueue core q x).logTotal = s.logTotal := rfl
@[simp] theorem State.setQueue_tensors (s : State) (core q : Nat) (x : TileQueue) : (s.setQueue core q x).tensors = s.tensors := rfl
@[simp] theorem State.setQueue_courses (s : State) (core q : Nat) (x : TileQueue) : (s.setQueue core q x).courses = s.courses := rfl
@[simp] theorem State.setQueue_copies (s : State) (core q : Nat) (x : TileQueue) : (s.setQueue core q x).copies = s.copies := rfl
@[simp] theorem State.setQueue_steps (s : State) (core q : Nat) (x : TileQueue) : (s.setQueue core q x).steps = s.steps := rfl
@[simp] theorem State.setQueue_journal (s : State) (core q : Nat) (x : TileQueue) : (s.setQueue core q x).journal = s.journal := rfl
@[simp] theorem State.setQueue_mesh (s : State) (core q : Nat) (x : TileQueue) : (s.setQueue core q x).mesh = s.mesh := rfl
@[simp] theorem State.setQueue_ve (s : State) (core q : Nat) (x : TileQueue) : (s.setQueue core q x).ve = s.ve := rfl
@[simp] theorem State.setQueue_resume (s : State) (core q : Nat) (x : TileQueue) : (s.setQueue core q x).resume = s.resume := rfl
@[simp] theorem State.setQueue_dm (s : State) (core q : Nat) (x : TileQueue) : (s.setQueue core q x).dm = s.dm := rfl
@[simp] theorem State.setQueue_stackTab (s : State) (core q : Nat) (x : TileQueue) : (s.setQueue core q x).stackTab = s.stackTab := rfl
@[simp] theorem State.setQueue_secure (s : State) (core q : Nat) (x : TileQueue) : (s.setQueue core q x).secure = s.secure := rfl
@[simp] theorem State.setQueue_net (s : State) (core q : Nat) (x : TileQueue) : (s.setQueue core q x).net = s.net := rfl
@[simp] theorem State.setQueue_power (s : State) (core q : Nat) (x : TileQueue) : (s.setQueue core q x).power = s.power := rfl

/-! ## setMe -/

@[simp] theorem State.setMe_part (s : State) (core i : Nat) (m : Me) : (s.setMe core i m).part = s.part := rfl
@[simp] theorem State.setMe_pkg (s : State) (core i : Nat) (m : Me) : (s.setMe core i m).pkg = s.pkg := rfl
@[simp] theorem State.setMe_pending (s : State) (core i : Nat) (m : Me) : (s.setMe core i m).pending = s.pending := rfl
@[simp] theorem State.setMe_free (s : State) (core i : Nat) (m : Me) : (s.setMe core i m).free = s.free := rfl
@[simp] theorem State.setMe_regs (s : State) (core i : Nat) (m : Me) : (s.setMe core i m).regs = s.regs := rfl
@[simp] theorem State.setMe_host (s : State) (core i : Nat) (m : Me) : (s.setMe core i m).host = s.host := rfl
@[simp] theorem State.setMe_out (s : State) (core i : Nat) (m : Me) : (s.setMe core i m).out = s.out := rfl
@[simp] theorem State.setMe_log (s : State) (core i : Nat) (m : Me) : (s.setMe core i m).log = s.log := rfl
@[simp] theorem State.setMe_logTotal (s : State) (core i : Nat) (m : Me) : (s.setMe core i m).logTotal = s.logTotal := rfl
@[simp] theorem State.setMe_tensors (s : State) (core i : Nat) (m : Me) : (s.setMe core i m).tensors = s.tensors := rfl
@[simp] theorem State.setMe_courses (s : State) (core i : Nat) (m : Me) : (s.setMe core i m).courses = s.courses := rfl
@[simp] theorem State.setMe_copies (s : State) (core i : Nat) (m : Me) : (s.setMe core i m).copies = s.copies := rfl
@[simp] theorem State.setMe_steps (s : State) (core i : Nat) (m : Me) : (s.setMe core i m).steps = s.steps := rfl
@[simp] theorem State.setMe_journal (s : State) (core i : Nat) (m : Me) : (s.setMe core i m).journal = s.journal := rfl
@[simp] theorem State.setMe_mesh (s : State) (core i : Nat) (m : Me) : (s.setMe core i m).mesh = s.mesh := rfl
@[simp] theorem State.setMe_ve (s : State) (core i : Nat) (m : Me) : (s.setMe core i m).ve = s.ve := rfl
@[simp] theorem State.setMe_resume (s : State) (core i : Nat) (m : Me) : (s.setMe core i m).resume = s.resume := rfl
@[simp] theorem State.setMe_dm (s : State) (core i : Nat) (m : Me) : (s.setMe core i m).dm = s.dm := rfl
@[simp] theorem State.setMe_stackTab (s : State) (core i : Nat) (m : Me) : (s.setMe core i m).stackTab = s.stackTab := rfl
@[simp] theorem State.setMe_secure (s : State) (core i : Nat) (m : Me) : (s.setMe core i m).secure = s.secure := rfl
@[simp] theorem State.setMe_net (s : State) (core i : Nat) (m : Me) : (s.setMe core i m).net = s.net := rfl
@[simp] theorem State.setMe_power (s : State) (core i : Nat) (m : Me) : (s.setMe core i m).power = s.power := rfl

/-! ## setCm -/

@[simp] theorem State.setCm_part (s : State) (core : Nat) (m : Sram) : (s.setCm core m).part = s.part := rfl
@[simp] theorem State.setCm_pkg (s : State) (core : Nat) (m : Sram) : (s.setCm core m).pkg = s.pkg := rfl
@[simp] theorem State.setCm_pending (s : State) (core : Nat) (m : Sram) : (s.setCm core m).pending = s.pending := rfl
@[simp] theorem State.setCm_free (s : State) (core : Nat) (m : Sram) : (s.setCm core m).free = s.free := rfl
@[simp] theorem State.setCm_regs (s : State) (core : Nat) (m : Sram) : (s.setCm core m).regs = s.regs := rfl
@[simp] theorem State.setCm_host (s : State) (core : Nat) (m : Sram) : (s.setCm core m).host = s.host := rfl
@[simp] theorem State.setCm_out (s : State) (core : Nat) (m : Sram) : (s.setCm core m).out = s.out := rfl
@[simp] theorem State.setCm_log (s : State) (core : Nat) (m : Sram) : (s.setCm core m).log = s.log := rfl
@[simp] theorem State.setCm_logTotal (s : State) (core : Nat) (m : Sram) : (s.setCm core m).logTotal = s.logTotal := rfl
@[simp] theorem State.setCm_tensors (s : State) (core : Nat) (m : Sram) : (s.setCm core m).tensors = s.tensors := rfl
@[simp] theorem State.setCm_courses (s : State) (core : Nat) (m : Sram) : (s.setCm core m).courses = s.courses := rfl
@[simp] theorem State.setCm_copies (s : State) (core : Nat) (m : Sram) : (s.setCm core m).copies = s.copies := rfl
@[simp] theorem State.setCm_steps (s : State) (core : Nat) (m : Sram) : (s.setCm core m).steps = s.steps := rfl
@[simp] theorem State.setCm_journal (s : State) (core : Nat) (m : Sram) : (s.setCm core m).journal = s.journal := rfl
@[simp] theorem State.setCm_mesh (s : State) (core : Nat) (m : Sram) : (s.setCm core m).mesh = s.mesh := rfl
@[simp] theorem State.setCm_ve (s : State) (core : Nat) (m : Sram) : (s.setCm core m).ve = s.ve := rfl
@[simp] theorem State.setCm_resume (s : State) (core : Nat) (m : Sram) : (s.setCm core m).resume = s.resume := rfl
@[simp] theorem State.setCm_dm (s : State) (core : Nat) (m : Sram) : (s.setCm core m).dm = s.dm := rfl
@[simp] theorem State.setCm_stackTab (s : State) (core : Nat) (m : Sram) : (s.setCm core m).stackTab = s.stackTab := rfl
@[simp] theorem State.setCm_secure (s : State) (core : Nat) (m : Sram) : (s.setCm core m).secure = s.secure := rfl
@[simp] theorem State.setCm_net (s : State) (core : Nat) (m : Sram) : (s.setCm core m).net = s.net := rfl
@[simp] theorem State.setCm_power (s : State) (core : Nat) (m : Sram) : (s.setCm core m).power = s.power := rfl

/-! ## setDm -/

@[simp] theorem State.setDm_part (s : State) (die : Nat) (m : Sram) : (s.setDm die m).part = s.part := rfl
@[simp] theorem State.setDm_pkg (s : State) (die : Nat) (m : Sram) : (s.setDm die m).pkg = s.pkg := rfl
@[simp] theorem State.setDm_pending (s : State) (die : Nat) (m : Sram) : (s.setDm die m).pending = s.pending := rfl
@[simp] theorem State.setDm_free (s : State) (die : Nat) (m : Sram) : (s.setDm die m).free = s.free := rfl
@[simp] theorem State.setDm_regs (s : State) (die : Nat) (m : Sram) : (s.setDm die m).regs = s.regs := rfl
@[simp] theorem State.setDm_host (s : State) (die : Nat) (m : Sram) : (s.setDm die m).host = s.host := rfl
@[simp] theorem State.setDm_out (s : State) (die : Nat) (m : Sram) : (s.setDm die m).out = s.out := rfl
@[simp] theorem State.setDm_log (s : State) (die : Nat) (m : Sram) : (s.setDm die m).log = s.log := rfl
@[simp] theorem State.setDm_logTotal (s : State) (die : Nat) (m : Sram) : (s.setDm die m).logTotal = s.logTotal := rfl
@[simp] theorem State.setDm_tensors (s : State) (die : Nat) (m : Sram) : (s.setDm die m).tensors = s.tensors := rfl
@[simp] theorem State.setDm_courses (s : State) (die : Nat) (m : Sram) : (s.setDm die m).courses = s.courses := rfl
@[simp] theorem State.setDm_copies (s : State) (die : Nat) (m : Sram) : (s.setDm die m).copies = s.copies := rfl
@[simp] theorem State.setDm_steps (s : State) (die : Nat) (m : Sram) : (s.setDm die m).steps = s.steps := rfl
@[simp] theorem State.setDm_journal (s : State) (die : Nat) (m : Sram) : (s.setDm die m).journal = s.journal := rfl
@[simp] theorem State.setDm_mesh (s : State) (die : Nat) (m : Sram) : (s.setDm die m).mesh = s.mesh := rfl
@[simp] theorem State.setDm_ve (s : State) (die : Nat) (m : Sram) : (s.setDm die m).ve = s.ve := rfl
@[simp] theorem State.setDm_resume (s : State) (die : Nat) (m : Sram) : (s.setDm die m).resume = s.resume := rfl
@[simp] theorem State.setDm_cores (s : State) (die : Nat) (m : Sram) : (s.setDm die m).cores = s.cores := rfl
@[simp] theorem State.setDm_stackTab (s : State) (die : Nat) (m : Sram) : (s.setDm die m).stackTab = s.stackTab := rfl
@[simp] theorem State.setDm_secure (s : State) (die : Nat) (m : Sram) : (s.setDm die m).secure = s.secure := rfl
@[simp] theorem State.setDm_net (s : State) (die : Nat) (m : Sram) : (s.setDm die m).net = s.net := rfl
@[simp] theorem State.setDm_power (s : State) (die : Nat) (m : Sram) : (s.setDm die m).power = s.power := rfl

/-! ## setStack -/

@[simp] theorem State.setStack_part (s : State) (n : Nat) (k : Stack) : (s.setStack n k).part = s.part := rfl
@[simp] theorem State.setStack_pkg (s : State) (n : Nat) (k : Stack) : (s.setStack n k).pkg = s.pkg := rfl
@[simp] theorem State.setStack_pending (s : State) (n : Nat) (k : Stack) : (s.setStack n k).pending = s.pending := rfl
@[simp] theorem State.setStack_free (s : State) (n : Nat) (k : Stack) : (s.setStack n k).free = s.free := rfl
@[simp] theorem State.setStack_regs (s : State) (n : Nat) (k : Stack) : (s.setStack n k).regs = s.regs := rfl
@[simp] theorem State.setStack_host (s : State) (n : Nat) (k : Stack) : (s.setStack n k).host = s.host := rfl
@[simp] theorem State.setStack_out (s : State) (n : Nat) (k : Stack) : (s.setStack n k).out = s.out := rfl
@[simp] theorem State.setStack_log (s : State) (n : Nat) (k : Stack) : (s.setStack n k).log = s.log := rfl
@[simp] theorem State.setStack_logTotal (s : State) (n : Nat) (k : Stack) : (s.setStack n k).logTotal = s.logTotal := rfl
@[simp] theorem State.setStack_tensors (s : State) (n : Nat) (k : Stack) : (s.setStack n k).tensors = s.tensors := rfl
@[simp] theorem State.setStack_courses (s : State) (n : Nat) (k : Stack) : (s.setStack n k).courses = s.courses := rfl
@[simp] theorem State.setStack_copies (s : State) (n : Nat) (k : Stack) : (s.setStack n k).copies = s.copies := rfl
@[simp] theorem State.setStack_steps (s : State) (n : Nat) (k : Stack) : (s.setStack n k).steps = s.steps := rfl
@[simp] theorem State.setStack_journal (s : State) (n : Nat) (k : Stack) : (s.setStack n k).journal = s.journal := rfl
@[simp] theorem State.setStack_mesh (s : State) (n : Nat) (k : Stack) : (s.setStack n k).mesh = s.mesh := rfl
@[simp] theorem State.setStack_ve (s : State) (n : Nat) (k : Stack) : (s.setStack n k).ve = s.ve := rfl
@[simp] theorem State.setStack_resume (s : State) (n : Nat) (k : Stack) : (s.setStack n k).resume = s.resume := rfl
@[simp] theorem State.setStack_cores (s : State) (n : Nat) (k : Stack) : (s.setStack n k).cores = s.cores := rfl
@[simp] theorem State.setStack_dm (s : State) (n : Nat) (k : Stack) : (s.setStack n k).dm = s.dm := rfl
@[simp] theorem State.setStack_secure (s : State) (n : Nat) (k : Stack) : (s.setStack n k).secure = s.secure := rfl
@[simp] theorem State.setStack_net (s : State) (n : Nat) (k : Stack) : (s.setStack n k).net = s.net := rfl
@[simp] theorem State.setStack_power (s : State) (n : Nat) (k : Stack) : (s.setStack n k).power = s.power := rfl

/-! ## setPolder -/

@[simp] theorem State.setPolder_part (s : State) (p : Nat) (q : Option Polder) : (s.setPolder p q).part = s.part := rfl
@[simp] theorem State.setPolder_pkg (s : State) (p : Nat) (q : Option Polder) : (s.setPolder p q).pkg = s.pkg := rfl
@[simp] theorem State.setPolder_pending (s : State) (p : Nat) (q : Option Polder) : (s.setPolder p q).pending = s.pending := rfl
@[simp] theorem State.setPolder_free (s : State) (p : Nat) (q : Option Polder) : (s.setPolder p q).free = s.free := rfl
@[simp] theorem State.setPolder_regs (s : State) (p : Nat) (q : Option Polder) : (s.setPolder p q).regs = s.regs := rfl
@[simp] theorem State.setPolder_host (s : State) (p : Nat) (q : Option Polder) : (s.setPolder p q).host = s.host := rfl
@[simp] theorem State.setPolder_out (s : State) (p : Nat) (q : Option Polder) : (s.setPolder p q).out = s.out := rfl
@[simp] theorem State.setPolder_log (s : State) (p : Nat) (q : Option Polder) : (s.setPolder p q).log = s.log := rfl
@[simp] theorem State.setPolder_logTotal (s : State) (p : Nat) (q : Option Polder) : (s.setPolder p q).logTotal = s.logTotal := rfl
@[simp] theorem State.setPolder_tensors (s : State) (p : Nat) (q : Option Polder) : (s.setPolder p q).tensors = s.tensors := rfl
@[simp] theorem State.setPolder_courses (s : State) (p : Nat) (q : Option Polder) : (s.setPolder p q).courses = s.courses := rfl
@[simp] theorem State.setPolder_copies (s : State) (p : Nat) (q : Option Polder) : (s.setPolder p q).copies = s.copies := rfl
@[simp] theorem State.setPolder_steps (s : State) (p : Nat) (q : Option Polder) : (s.setPolder p q).steps = s.steps := rfl
@[simp] theorem State.setPolder_journal (s : State) (p : Nat) (q : Option Polder) : (s.setPolder p q).journal = s.journal := rfl
@[simp] theorem State.setPolder_mesh (s : State) (p : Nat) (q : Option Polder) : (s.setPolder p q).mesh = s.mesh := rfl
@[simp] theorem State.setPolder_ve (s : State) (p : Nat) (q : Option Polder) : (s.setPolder p q).ve = s.ve := rfl
@[simp] theorem State.setPolder_resume (s : State) (p : Nat) (q : Option Polder) : (s.setPolder p q).resume = s.resume := rfl
@[simp] theorem State.setPolder_cores (s : State) (p : Nat) (q : Option Polder) : (s.setPolder p q).cores = s.cores := rfl
@[simp] theorem State.setPolder_dm (s : State) (p : Nat) (q : Option Polder) : (s.setPolder p q).dm = s.dm := rfl
@[simp] theorem State.setPolder_stackTab (s : State) (p : Nat) (q : Option Polder) : (s.setPolder p q).stackTab = s.stackTab := rfl
@[simp] theorem State.setPolder_net (s : State) (p : Nat) (q : Option Polder) : (s.setPolder p q).net = s.net := rfl
@[simp] theorem State.setPolder_power (s : State) (p : Nat) (q : Option Polder) : (s.setPolder p q).power = s.power := rfl

/-! ## setSpdm -/

@[simp] theorem State.setSpdm_part (s : State) (n : Nat) (q : Option Session) : (s.setSpdm n q).part = s.part := rfl
@[simp] theorem State.setSpdm_pkg (s : State) (n : Nat) (q : Option Session) : (s.setSpdm n q).pkg = s.pkg := rfl
@[simp] theorem State.setSpdm_pending (s : State) (n : Nat) (q : Option Session) : (s.setSpdm n q).pending = s.pending := rfl
@[simp] theorem State.setSpdm_free (s : State) (n : Nat) (q : Option Session) : (s.setSpdm n q).free = s.free := rfl
@[simp] theorem State.setSpdm_regs (s : State) (n : Nat) (q : Option Session) : (s.setSpdm n q).regs = s.regs := rfl
@[simp] theorem State.setSpdm_host (s : State) (n : Nat) (q : Option Session) : (s.setSpdm n q).host = s.host := rfl
@[simp] theorem State.setSpdm_out (s : State) (n : Nat) (q : Option Session) : (s.setSpdm n q).out = s.out := rfl
@[simp] theorem State.setSpdm_log (s : State) (n : Nat) (q : Option Session) : (s.setSpdm n q).log = s.log := rfl
@[simp] theorem State.setSpdm_logTotal (s : State) (n : Nat) (q : Option Session) : (s.setSpdm n q).logTotal = s.logTotal := rfl
@[simp] theorem State.setSpdm_tensors (s : State) (n : Nat) (q : Option Session) : (s.setSpdm n q).tensors = s.tensors := rfl
@[simp] theorem State.setSpdm_courses (s : State) (n : Nat) (q : Option Session) : (s.setSpdm n q).courses = s.courses := rfl
@[simp] theorem State.setSpdm_copies (s : State) (n : Nat) (q : Option Session) : (s.setSpdm n q).copies = s.copies := rfl
@[simp] theorem State.setSpdm_steps (s : State) (n : Nat) (q : Option Session) : (s.setSpdm n q).steps = s.steps := rfl
@[simp] theorem State.setSpdm_journal (s : State) (n : Nat) (q : Option Session) : (s.setSpdm n q).journal = s.journal := rfl
@[simp] theorem State.setSpdm_mesh (s : State) (n : Nat) (q : Option Session) : (s.setSpdm n q).mesh = s.mesh := rfl
@[simp] theorem State.setSpdm_ve (s : State) (n : Nat) (q : Option Session) : (s.setSpdm n q).ve = s.ve := rfl
@[simp] theorem State.setSpdm_resume (s : State) (n : Nat) (q : Option Session) : (s.setSpdm n q).resume = s.resume := rfl
@[simp] theorem State.setSpdm_cores (s : State) (n : Nat) (q : Option Session) : (s.setSpdm n q).cores = s.cores := rfl
@[simp] theorem State.setSpdm_dm (s : State) (n : Nat) (q : Option Session) : (s.setSpdm n q).dm = s.dm := rfl
@[simp] theorem State.setSpdm_stackTab (s : State) (n : Nat) (q : Option Session) : (s.setSpdm n q).stackTab = s.stackTab := rfl
@[simp] theorem State.setSpdm_net (s : State) (n : Nat) (q : Option Session) : (s.setSpdm n q).net = s.net := rfl
@[simp] theorem State.setSpdm_power (s : State) (n : Nat) (q : Option Session) : (s.setSpdm n q).power = s.power := rfl

/-! ## setIde -/

@[simp] theorem State.setIde_part (s : State) (n : Nat) (x : IdeStream) : (s.setIde n x).part = s.part := rfl
@[simp] theorem State.setIde_pkg (s : State) (n : Nat) (x : IdeStream) : (s.setIde n x).pkg = s.pkg := rfl
@[simp] theorem State.setIde_pending (s : State) (n : Nat) (x : IdeStream) : (s.setIde n x).pending = s.pending := rfl
@[simp] theorem State.setIde_free (s : State) (n : Nat) (x : IdeStream) : (s.setIde n x).free = s.free := rfl
@[simp] theorem State.setIde_regs (s : State) (n : Nat) (x : IdeStream) : (s.setIde n x).regs = s.regs := rfl
@[simp] theorem State.setIde_host (s : State) (n : Nat) (x : IdeStream) : (s.setIde n x).host = s.host := rfl
@[simp] theorem State.setIde_out (s : State) (n : Nat) (x : IdeStream) : (s.setIde n x).out = s.out := rfl
@[simp] theorem State.setIde_log (s : State) (n : Nat) (x : IdeStream) : (s.setIde n x).log = s.log := rfl
@[simp] theorem State.setIde_logTotal (s : State) (n : Nat) (x : IdeStream) : (s.setIde n x).logTotal = s.logTotal := rfl
@[simp] theorem State.setIde_tensors (s : State) (n : Nat) (x : IdeStream) : (s.setIde n x).tensors = s.tensors := rfl
@[simp] theorem State.setIde_courses (s : State) (n : Nat) (x : IdeStream) : (s.setIde n x).courses = s.courses := rfl
@[simp] theorem State.setIde_copies (s : State) (n : Nat) (x : IdeStream) : (s.setIde n x).copies = s.copies := rfl
@[simp] theorem State.setIde_steps (s : State) (n : Nat) (x : IdeStream) : (s.setIde n x).steps = s.steps := rfl
@[simp] theorem State.setIde_journal (s : State) (n : Nat) (x : IdeStream) : (s.setIde n x).journal = s.journal := rfl
@[simp] theorem State.setIde_mesh (s : State) (n : Nat) (x : IdeStream) : (s.setIde n x).mesh = s.mesh := rfl
@[simp] theorem State.setIde_ve (s : State) (n : Nat) (x : IdeStream) : (s.setIde n x).ve = s.ve := rfl
@[simp] theorem State.setIde_resume (s : State) (n : Nat) (x : IdeStream) : (s.setIde n x).resume = s.resume := rfl
@[simp] theorem State.setIde_cores (s : State) (n : Nat) (x : IdeStream) : (s.setIde n x).cores = s.cores := rfl
@[simp] theorem State.setIde_dm (s : State) (n : Nat) (x : IdeStream) : (s.setIde n x).dm = s.dm := rfl
@[simp] theorem State.setIde_stackTab (s : State) (n : Nat) (x : IdeStream) : (s.setIde n x).stackTab = s.stackTab := rfl
@[simp] theorem State.setIde_net (s : State) (n : Nat) (x : IdeStream) : (s.setIde n x).net = s.net := rfl
@[simp] theorem State.setIde_power (s : State) (n : Nat) (x : IdeStream) : (s.setIde n x).power = s.power := rfl

/-! ## setSession -/

@[simp] theorem State.setSession_part (s : State) (peer : Nat) (q : DnSession) : (s.setSession peer q).part = s.part := rfl
@[simp] theorem State.setSession_pkg (s : State) (peer : Nat) (q : DnSession) : (s.setSession peer q).pkg = s.pkg := rfl
@[simp] theorem State.setSession_pending (s : State) (peer : Nat) (q : DnSession) : (s.setSession peer q).pending = s.pending := rfl
@[simp] theorem State.setSession_free (s : State) (peer : Nat) (q : DnSession) : (s.setSession peer q).free = s.free := rfl
@[simp] theorem State.setSession_regs (s : State) (peer : Nat) (q : DnSession) : (s.setSession peer q).regs = s.regs := rfl
@[simp] theorem State.setSession_host (s : State) (peer : Nat) (q : DnSession) : (s.setSession peer q).host = s.host := rfl
@[simp] theorem State.setSession_out (s : State) (peer : Nat) (q : DnSession) : (s.setSession peer q).out = s.out := rfl
@[simp] theorem State.setSession_log (s : State) (peer : Nat) (q : DnSession) : (s.setSession peer q).log = s.log := rfl
@[simp] theorem State.setSession_logTotal (s : State) (peer : Nat) (q : DnSession) : (s.setSession peer q).logTotal = s.logTotal := rfl
@[simp] theorem State.setSession_tensors (s : State) (peer : Nat) (q : DnSession) : (s.setSession peer q).tensors = s.tensors := rfl
@[simp] theorem State.setSession_courses (s : State) (peer : Nat) (q : DnSession) : (s.setSession peer q).courses = s.courses := rfl
@[simp] theorem State.setSession_copies (s : State) (peer : Nat) (q : DnSession) : (s.setSession peer q).copies = s.copies := rfl
@[simp] theorem State.setSession_steps (s : State) (peer : Nat) (q : DnSession) : (s.setSession peer q).steps = s.steps := rfl
@[simp] theorem State.setSession_journal (s : State) (peer : Nat) (q : DnSession) : (s.setSession peer q).journal = s.journal := rfl
@[simp] theorem State.setSession_mesh (s : State) (peer : Nat) (q : DnSession) : (s.setSession peer q).mesh = s.mesh := rfl
@[simp] theorem State.setSession_ve (s : State) (peer : Nat) (q : DnSession) : (s.setSession peer q).ve = s.ve := rfl
@[simp] theorem State.setSession_resume (s : State) (peer : Nat) (q : DnSession) : (s.setSession peer q).resume = s.resume := rfl
@[simp] theorem State.setSession_cores (s : State) (peer : Nat) (q : DnSession) : (s.setSession peer q).cores = s.cores := rfl
@[simp] theorem State.setSession_dm (s : State) (peer : Nat) (q : DnSession) : (s.setSession peer q).dm = s.dm := rfl
@[simp] theorem State.setSession_stackTab (s : State) (peer : Nat) (q : DnSession) : (s.setSession peer q).stackTab = s.stackTab := rfl
@[simp] theorem State.setSession_secure (s : State) (peer : Nat) (q : DnSession) : (s.setSession peer q).secure = s.secure := rfl
@[simp] theorem State.setSession_power (s : State) (peer : Nat) (q : DnSession) : (s.setSession peer q).power = s.power := rfl

/-! ## setRail -/

@[simp] theorem State.setRail_part (s : State) (die : Nat) (r : Rail) : (s.setRail die r).part = s.part := rfl
@[simp] theorem State.setRail_pkg (s : State) (die : Nat) (r : Rail) : (s.setRail die r).pkg = s.pkg := rfl
@[simp] theorem State.setRail_pending (s : State) (die : Nat) (r : Rail) : (s.setRail die r).pending = s.pending := rfl
@[simp] theorem State.setRail_free (s : State) (die : Nat) (r : Rail) : (s.setRail die r).free = s.free := rfl
@[simp] theorem State.setRail_regs (s : State) (die : Nat) (r : Rail) : (s.setRail die r).regs = s.regs := rfl
@[simp] theorem State.setRail_host (s : State) (die : Nat) (r : Rail) : (s.setRail die r).host = s.host := rfl
@[simp] theorem State.setRail_out (s : State) (die : Nat) (r : Rail) : (s.setRail die r).out = s.out := rfl
@[simp] theorem State.setRail_log (s : State) (die : Nat) (r : Rail) : (s.setRail die r).log = s.log := rfl
@[simp] theorem State.setRail_logTotal (s : State) (die : Nat) (r : Rail) : (s.setRail die r).logTotal = s.logTotal := rfl
@[simp] theorem State.setRail_tensors (s : State) (die : Nat) (r : Rail) : (s.setRail die r).tensors = s.tensors := rfl
@[simp] theorem State.setRail_courses (s : State) (die : Nat) (r : Rail) : (s.setRail die r).courses = s.courses := rfl
@[simp] theorem State.setRail_copies (s : State) (die : Nat) (r : Rail) : (s.setRail die r).copies = s.copies := rfl
@[simp] theorem State.setRail_steps (s : State) (die : Nat) (r : Rail) : (s.setRail die r).steps = s.steps := rfl
@[simp] theorem State.setRail_journal (s : State) (die : Nat) (r : Rail) : (s.setRail die r).journal = s.journal := rfl
@[simp] theorem State.setRail_mesh (s : State) (die : Nat) (r : Rail) : (s.setRail die r).mesh = s.mesh := rfl
@[simp] theorem State.setRail_ve (s : State) (die : Nat) (r : Rail) : (s.setRail die r).ve = s.ve := rfl
@[simp] theorem State.setRail_resume (s : State) (die : Nat) (r : Rail) : (s.setRail die r).resume = s.resume := rfl
@[simp] theorem State.setRail_cores (s : State) (die : Nat) (r : Rail) : (s.setRail die r).cores = s.cores := rfl
@[simp] theorem State.setRail_dm (s : State) (die : Nat) (r : Rail) : (s.setRail die r).dm = s.dm := rfl
@[simp] theorem State.setRail_stackTab (s : State) (die : Nat) (r : Rail) : (s.setRail die r).stackTab = s.stackTab := rfl
@[simp] theorem State.setRail_secure (s : State) (die : Nat) (r : Rail) : (s.setRail die r).secure = s.secure := rfl
@[simp] theorem State.setRail_net (s : State) (die : Nat) (r : Rail) : (s.setRail die r).net = s.net := rfl

/-! ## setIluny -/

@[simp] theorem State.setIluny_part (s : State) (f : Iluny → Iluny) : (s.setIluny f).part = s.part := rfl
@[simp] theorem State.setIluny_pkg (s : State) (f : Iluny → Iluny) : (s.setIluny f).pkg = s.pkg := rfl
@[simp] theorem State.setIluny_pending (s : State) (f : Iluny → Iluny) : (s.setIluny f).pending = s.pending := rfl
@[simp] theorem State.setIluny_free (s : State) (f : Iluny → Iluny) : (s.setIluny f).free = s.free := rfl
@[simp] theorem State.setIluny_regs (s : State) (f : Iluny → Iluny) : (s.setIluny f).regs = s.regs := rfl
@[simp] theorem State.setIluny_host (s : State) (f : Iluny → Iluny) : (s.setIluny f).host = s.host := rfl
@[simp] theorem State.setIluny_out (s : State) (f : Iluny → Iluny) : (s.setIluny f).out = s.out := rfl
@[simp] theorem State.setIluny_log (s : State) (f : Iluny → Iluny) : (s.setIluny f).log = s.log := rfl
@[simp] theorem State.setIluny_logTotal (s : State) (f : Iluny → Iluny) : (s.setIluny f).logTotal = s.logTotal := rfl
@[simp] theorem State.setIluny_tensors (s : State) (f : Iluny → Iluny) : (s.setIluny f).tensors = s.tensors := rfl
@[simp] theorem State.setIluny_courses (s : State) (f : Iluny → Iluny) : (s.setIluny f).courses = s.courses := rfl
@[simp] theorem State.setIluny_copies (s : State) (f : Iluny → Iluny) : (s.setIluny f).copies = s.copies := rfl
@[simp] theorem State.setIluny_steps (s : State) (f : Iluny → Iluny) : (s.setIluny f).steps = s.steps := rfl
@[simp] theorem State.setIluny_journal (s : State) (f : Iluny → Iluny) : (s.setIluny f).journal = s.journal := rfl
@[simp] theorem State.setIluny_mesh (s : State) (f : Iluny → Iluny) : (s.setIluny f).mesh = s.mesh := rfl
@[simp] theorem State.setIluny_ve (s : State) (f : Iluny → Iluny) : (s.setIluny f).ve = s.ve := rfl
@[simp] theorem State.setIluny_resume (s : State) (f : Iluny → Iluny) : (s.setIluny f).resume = s.resume := rfl
@[simp] theorem State.setIluny_cores (s : State) (f : Iluny → Iluny) : (s.setIluny f).cores = s.cores := rfl
@[simp] theorem State.setIluny_dm (s : State) (f : Iluny → Iluny) : (s.setIluny f).dm = s.dm := rfl
@[simp] theorem State.setIluny_stackTab (s : State) (f : Iluny → Iluny) : (s.setIluny f).stackTab = s.stackTab := rfl
@[simp] theorem State.setIluny_secure (s : State) (f : Iluny → Iluny) : (s.setIluny f).secure = s.secure := rfl
@[simp] theorem State.setIluny_net (s : State) (f : Iluny → Iluny) : (s.setIluny f).net = s.net := rfl

/-! ## Reading after an update -/

@[simp] theorem State.reg_setReg (s : State) (r : Reg) (v : Long) : (s.setReg r v).reg r = v := FMap.get_set_same ..

/-- Every other register stands. -/
theorem State.reg_setReg_ne (s : State) {r q : Reg} (v : Long) (h : q.key ≠ r.key) : (s.setReg r v).reg q = s.reg q :=
  FMap.get_set_ne _ _ v h

@[simp] theorem State.shadowReg_setReg (s : State) (r q : Reg) (v : Long) : (s.setReg r v).shadowReg q = s.shadowReg q := rfl

@[simp] theorem State.shadowReg_setShadow (s : State) (r : Reg) (v : Long) : (s.setShadow r v).shadowReg r = v :=
  FMap.get_set_same ..

/-- Every other shadow copy stands. -/
theorem State.shadowReg_setShadow_ne (s : State) {r q : Reg} (v : Long) (h : q.key ≠ r.key) :
    (s.setShadow r v).shadowReg q = s.shadowReg q := FMap.get_set_ne _ _ v h

@[simp] theorem State.reg_setShadow (s : State) (r q : Reg) (v : Long) : (s.setShadow r v).reg q = s.reg q := rfl

@[simp] theorem State.sq_setSq (s : State) (n : Nat) (q : SqRun) : (s.setSq n q).sq n = q := FMap.get_set_same ..

/-- Every other submission ring stands. -/
theorem State.sq_setSq_ne (s : State) {n m : Nat} (q : SqRun) (h : m ≠ n) : (s.setSq n q).sq m = s.sq m :=
  FMap.get_set_ne _ _ q h

@[simp] theorem State.cq_setCq (s : State) (n : Nat) (q : CqRun) : (s.setCq n q).cq n = q := FMap.get_set_same ..

/-- Every other completion ring stands. -/
theorem State.cq_setCq_ne (s : State) {n m : Nat} (q : CqRun) (h : m ≠ n) : (s.setCq n q).cq m = s.cq m :=
  FMap.get_set_ne _ _ q h

@[simp] theorem State.tensor_setTensor (s : State) (id : Nat) (t : Option Tensor) : (s.setTensor id t).tensor id = t :=
  FMap.get_set_same ..

/-- Every other tensor stands. -/
theorem State.tensor_setTensor_ne (s : State) {id i : Nat} (t : Option Tensor) (h : i ≠ id) :
    (s.setTensor id t).tensor i = s.tensor i := FMap.get_set_ne _ _ t h

@[simp] theorem State.stepM_setStepM (s : State) (f : Nat) (m : StepM) : (s.setStepM f m).stepM f = m :=
  FMap.get_set_same ..

/-- The step machine of every other function stands. -/
theorem State.stepM_setStepM_ne (s : State) {f g : Nat} (m : StepM) (h : g ≠ f) : (s.setStepM f m).stepM g = s.stepM g :=
  FMap.get_set_ne _ _ m h

@[simp] theorem State.entry_setEntry (s : State) (j : Nat) (e : Option JEntry) : (s.setEntry j e).entry j = e :=
  FMap.get_set_same ..

/-- Every other journal entry stands. -/
theorem State.entry_setEntry_ne (s : State) {j i : Nat} (e : Option JEntry) (h : i ≠ j) :
    (s.setEntry j e).entry i = s.entry i := FMap.get_set_ne _ _ e h

@[simp] theorem State.veRun_setVe (s : State) (core ve : Nat) (v : VeRun) : (s.setVe core ve v).veRun core ve = v :=
  FMap.get_set_same ..

@[simp] theorem State.core_setCore (s : State) (n : Nat) (k : Core) : (s.setCore n k).core n = k := FMap.get_set_same ..

/-- Every other core stands. -/
theorem State.core_setCore_ne (s : State) {n m : Nat} (k : Core) (h : m ≠ n) : (s.setCore n k).core m = s.core m :=
  FMap.get_set_ne _ _ k h

@[simp] theorem State.queue_setQueue (s : State) (core q : Nat) (x : TileQueue) : (s.setQueue core q x).queue core q = x := by
  unfold State.queue State.setQueue
  rw [State.core_setCore]
  exact FMap.get_set_same ..

@[simp] theorem State.me_setMe (s : State) (core i : Nat) (m : Me) : ((s.setMe core i m).core core).me i = m := by
  unfold State.setMe Core.me
  rw [State.core_setCore]
  exact FMap.get_set_same ..

@[simp] theorem State.cm_setCm (s : State) (core : Nat) (m : Sram) : (s.setCm core m).cm core = m := by
  unfold State.cm State.setCm
  rw [State.core_setCore]

/-- The CM of every other core stands. -/
theorem State.cm_setCm_ne (s : State) {core n : Nat} (m : Sram) (h : n ≠ core) : (s.setCm core m).cm n = s.cm n := by
  unfold State.cm State.setCm
  rw [State.core_setCore_ne _ _ h]

@[simp] theorem State.dmOf_setDm (s : State) (die : Nat) (m : Sram) : (s.setDm die m).dmOf die = m := FMap.get_set_same ..

/-- The DM of every other die stands. -/
theorem State.dmOf_setDm_ne (s : State) {die n : Nat} (m : Sram) (h : n ≠ die) : (s.setDm die m).dmOf n = s.dmOf n :=
  FMap.get_set_ne _ _ m h

@[simp] theorem State.stack_setStack (s : State) (n : Nat) (k : Stack) : (s.setStack n k).stack n = k := FMap.get_set_same ..

/-- Every other stack stands. -/
theorem State.stack_setStack_ne (s : State) {n m : Nat} (k : Stack) (h : m ≠ n) : (s.setStack n k).stack m = s.stack m :=
  FMap.get_set_ne _ _ k h

@[simp] theorem Stack.line_setLine (k : Stack) (n : Nat) (l : Line) : (k.setLine n l).line n = l := FMap.get_set_same ..

/-- Every other line stands. -/
theorem Stack.line_setLine_ne (k : Stack) {n m : Nat} (l : Line) (h : m ≠ n) : (k.setLine n l).line m = k.line m :=
  FMap.get_set_ne _ _ l h

@[simp] theorem State.polder_setPolder (s : State) (p : Nat) (q : Option Polder) : (s.setPolder p q).polder p = q :=
  FMap.get_set_same ..

/-- Every other polder stands. -/
theorem State.polder_setPolder_ne (s : State) {p i : Nat} (q : Option Polder) (h : i ≠ p) :
    (s.setPolder p q).polder i = s.polder i := FMap.get_set_ne _ _ q h

@[simp] theorem State.spdm_setSpdm (s : State) (n : Nat) (q : Option Session) : (s.setSpdm n q).spdm n = q :=
  FMap.get_set_same ..

/-- Every other SPDM session stands. -/
theorem State.spdm_setSpdm_ne (s : State) {n m : Nat} (q : Option Session) (h : m ≠ n) : (s.setSpdm n q).spdm m = s.spdm m :=
  FMap.get_set_ne _ _ q h

@[simp] theorem State.session_setSession (s : State) (p : Nat) (q : DnSession) : (s.setSession p q).session p = q :=
  FMap.get_set_same ..

/-- Every other Dunnath session stands. -/
theorem State.session_setSession_ne (s : State) {p i : Nat} (q : DnSession) (h : i ≠ p) :
    (s.setSession p q).session i = s.session i := FMap.get_set_ne _ _ q h

@[simp] theorem State.rail_setRail (s : State) (d : Nat) (r : Rail) : (s.setRail d r).rail d = r := FMap.get_set_same ..

/-- Every other rail stands. -/
theorem State.rail_setRail_ne (s : State) {d e : Nat} (r : Rail) (h : e ≠ d) : (s.setRail d r).rail e = s.rail e :=
  FMap.get_set_ne _ _ r h

@[simp] theorem VeRun.ctx_setCtx (v : VeRun) (i : Nat) (x : VeCtx) : (v.setCtx i x).ctx i = x := FMap.get_set_same ..

/-- Every other context stands. -/
theorem VeRun.ctx_setCtx_ne (v : VeRun) {i k : Nat} (x : VeCtx) (h : k ≠ i) : (v.setCtx i x).ctx k = v.ctx k :=
  FMap.get_set_ne _ _ x h

@[simp] theorem VeCtx.reg_setReg (x : VeCtx) (r : Nat) (l : List Nat) : (x.setReg r l).reg r = l := FMap.get_set_same ..

/-- Every other register of a context stands. -/
theorem VeCtx.reg_setReg_ne (x : VeCtx) {r q : Nat} (l : List Nat) (h : q ≠ r) : (x.setReg r l).reg q = x.reg q :=
  FMap.get_set_ne _ _ l h

end Sys2Proof.Machine
end

