-- ==== Sys2Proof/Laws/Ops.lean ====
section
/-! SUPPORT. What each shared operation over registers, rings, records and the log does, said once. -/

namespace Sys2Proof.Machine

/-! ## Repetition -/

/-- An operation that leaves a projection alone, repeated over a list, leaves it alone. -/
theorem State.foldl_keeps {α β : Type} (p : State → β) (f : State → α → State) (hf : ∀ s a, p (f s a) = p s) (xs : List α)
    (s : State) : p (xs.foldl f s) = p s := by
  induction xs generalizing s with
  | nil => rfl
  | cons x xs ih => exact (ih (f s x)).trans (hf s x)

/-- An operation that keeps a property, repeated over a list, keeps it. -/
theorem State.foldl_preserves {α : Type} (P : State → Prop) (f : State → α → State) (hf : ∀ s a, P s → P (f s a)) (xs : List α)
    {s : State} (h : P s) : P (xs.foldl f s) := by
  induction xs generalizing s with
  | nil => exact h
  | cons x xs ih => exact ih (hf s x h)

/-! ## The error log -/

@[simp] theorem State.logEntry_part (s : State) (c d u f a b : Nat) : (s.logEntry c d u f a b).part = s.part := by
  unfold State.logEntry; dsimp only; split <;> rfl

@[simp] theorem State.logEntry_pkg (s : State) (c d u f a b : Nat) : (s.logEntry c d u f a b).pkg = s.pkg := by
  unfold State.logEntry; dsimp only; split <;> rfl

@[simp] theorem State.logEntry_pending (s : State) (c d u f a b : Nat) : (s.logEntry c d u f a b).pending = s.pending := by
  unfold State.logEntry; dsimp only; split <;> rfl

@[simp] theorem State.logEntry_host (s : State) (c d u f a b : Nat) : (s.logEntry c d u f a b).host = s.host := by
  unfold State.logEntry; dsimp only; split <;> rfl

@[simp] theorem State.logEntry_out (s : State) (c d u f a b : Nat) : (s.logEntry c d u f a b).out = s.out := by
  unfold State.logEntry; dsimp only; split <;> rfl

@[simp] theorem State.logEntry_tensors (s : State) (c d u f a b : Nat) : (s.logEntry c d u f a b).tensors = s.tensors := by
  unfold State.logEntry; dsimp only; split <;> rfl

@[simp] theorem State.logEntry_courses (s : State) (c d u f a b : Nat) : (s.logEntry c d u f a b).courses = s.courses := by
  unfold State.logEntry; dsimp only; split <;> rfl

@[simp] theorem State.logEntry_copies (s : State) (c d u f a b : Nat) : (s.logEntry c d u f a b).copies = s.copies := by
  unfold State.logEntry; dsimp only; split <;> rfl

@[simp] theorem State.logEntry_steps (s : State) (c d u f a b : Nat) : (s.logEntry c d u f a b).steps = s.steps := by
  unfold State.logEntry; dsimp only; split <;> rfl

@[simp] theorem State.logEntry_journal (s : State) (c d u f a b : Nat) : (s.logEntry c d u f a b).journal = s.journal := by
  unfold State.logEntry; dsimp only; split <;> rfl

@[simp] theorem State.logEntry_mesh (s : State) (c d u f a b : Nat) : (s.logEntry c d u f a b).mesh = s.mesh := by
  unfold State.logEntry; dsimp only; split <;> rfl

@[simp] theorem State.logEntry_ve (s : State) (c d u f a b : Nat) : (s.logEntry c d u f a b).ve = s.ve := by
  unfold State.logEntry; dsimp only; split <;> rfl

@[simp] theorem State.logEntry_resume (s : State) (c d u f a b : Nat) : (s.logEntry c d u f a b).resume = s.resume := by
  unfold State.logEntry; dsimp only; split <;> rfl

@[simp] theorem State.logEntry_cores (s : State) (c d u f a b : Nat) : (s.logEntry c d u f a b).cores = s.cores := by
  unfold State.logEntry; dsimp only; split <;> rfl

@[simp] theorem State.logEntry_dm (s : State) (c d u f a b : Nat) : (s.logEntry c d u f a b).dm = s.dm := by
  unfold State.logEntry; dsimp only; split <;> rfl

@[simp] theorem State.logEntry_stackTab (s : State) (c d u f a b : Nat) : (s.logEntry c d u f a b).stackTab = s.stackTab := by
  unfold State.logEntry; dsimp only; split <;> rfl

@[simp] theorem State.logEntry_secure (s : State) (c d u f a b : Nat) : (s.logEntry c d u f a b).secure = s.secure := by
  unfold State.logEntry; dsimp only; split <;> rfl

@[simp] theorem State.logEntry_net (s : State) (c d u f a b : Nat) : (s.logEntry c d u f a b).net = s.net := by
  unfold State.logEntry; dsimp only; split <;> rfl

@[simp] theorem State.logEntry_power (s : State) (c d u f a b : Nat) : (s.logEntry c d u f a b).power = s.power := by
  unfold State.logEntry; dsimp only; split <;> rfl

/-- Every entry counts. -/
@[simp] theorem State.logEntry_logTotal (s : State) (c d u f a b : Nat) :
    (s.logEntry c d u f a b).logTotal = s.logTotal + 1 := by
  unfold State.logEntry; dsimp only; split <;> rfl

/-- The log stays within its 4,096 entries (R457). -/
theorem State.logEntry_logOk {s : State} (h : logOk s.log) (c d u f a b : Nat) : logOk (s.logEntry c d u f a b).log := by
  unfold State.logEntry logOk at *
  dsimp only
  split
  · rw [List.length_append, List.length_singleton]; omega
  · have : (s.log.tail ++ [({ time := Config.logTime s.free, cls := c, die := d, package := pkgNum s.pkg, unit := u
                              func := f, arg0 := a, arg1 := b } : LogEntry)]).length ≤ 4096 := by
      rw [List.length_append, List.length_tail, List.length_singleton]; omega
    exact this

/-- While the log has room no register changes. -/
theorem State.logEntry_regs {s : State} (h : s.log.length < 4096) (c d u f a b : Nat) :
    (s.logEntry c d u f a b).regs = s.regs := by
  unfold State.logEntry; dsimp only; rw [if_pos h]

/-- Of the registers only ERRLOG_STAT counts a lost entry. -/
theorem State.logEntry_reg (s : State) (c d u f a b : Nat) {r : Reg} (h : r.key ≠ Reg.key ⟨.errlogStat, 0, 0⟩) :
    (s.logEntry c d u f a b).reg r = s.reg r := by
  unfold State.logEntry
  dsimp only
  split
  · rfl
  · exact State.reg_setReg_ne _ _ h

@[simp] theorem State.logEntry_shadowReg (s : State) (c d u f a b : Nat) (r : Reg) :
    (s.logEntry c d u f a b).shadowReg r = s.shadowReg r := by
  unfold State.logEntry; dsimp only; split <;> rfl

/-! ## Records -/

@[simp] theorem State.writeRecord_part (s : State) (n : Nat) (r : Rec) : (s.writeRecord n r).part = s.part := by
  unfold State.writeRecord State.raiseIrq; dsimp only; (repeat' split) <;> rfl

@[simp] theorem State.postRecord_part (s : State) (r : Rec) : (s.postRecord r).part = s.part := by
  unfold State.postRecord; dsimp only; split
  · rfl
  · exact State.writeRecord_part ..

@[simp] theorem State.complete_part (s : State) (d : Desc) (r : Rec) : (s.complete d r).part = s.part := by
  unfold State.complete; dsimp only; split
  · rfl
  · exact State.postRecord_part ..

@[simp] theorem State.completeStatus_part (s : State) (d : Desc) (a b c : Nat) : (s.completeStatus d a b c).part = s.part :=
  State.complete_part ..

@[simp] theorem State.writeRecord_pkg (s : State) (n : Nat) (r : Rec) : (s.writeRecord n r).pkg = s.pkg := by
  unfold State.writeRecord State.raiseIrq; dsimp only; (repeat' split) <;> rfl

@[simp] theorem State.postRecord_pkg (s : State) (r : Rec) : (s.postRecord r).pkg = s.pkg := by
  unfold State.postRecord; dsimp only; split
  · rfl
  · exact State.writeRecord_pkg ..

@[simp] theorem State.complete_pkg (s : State) (d : Desc) (r : Rec) : (s.complete d r).pkg = s.pkg := by
  unfold State.complete; dsimp only; split
  · rfl
  · exact State.postRecord_pkg ..

@[simp] theorem State.completeStatus_pkg (s : State) (d : Desc) (a b c : Nat) : (s.completeStatus d a b c).pkg = s.pkg :=
  State.complete_pkg ..

@[simp] theorem State.writeRecord_pending (s : State) (n : Nat) (r : Rec) : (s.writeRecord n r).pending = s.pending := by
  unfold State.writeRecord State.raiseIrq; dsimp only; (repeat' split) <;> rfl

@[simp] theorem State.postRecord_pending (s : State) (r : Rec) : (s.postRecord r).pending = s.pending := by
  unfold State.postRecord; dsimp only; split
  · rfl
  · exact State.writeRecord_pending ..

@[simp] theorem State.complete_pending (s : State) (d : Desc) (r : Rec) : (s.complete d r).pending = s.pending := by
  unfold State.complete; dsimp only; split
  · rfl
  · exact State.postRecord_pending ..

@[simp] theorem State.completeStatus_pending (s : State) (d : Desc) (a b c : Nat) : (s.completeStatus d a b c).pending = s.pending :=
  State.complete_pending ..

@[simp] theorem State.writeRecord_free (s : State) (n : Nat) (r : Rec) : (s.writeRecord n r).free = s.free := by
  unfold State.writeRecord State.raiseIrq; dsimp only; (repeat' split) <;> rfl

@[simp] theorem State.postRecord_free (s : State) (r : Rec) : (s.postRecord r).free = s.free := by
  unfold State.postRecord; dsimp only; split
  · rfl
  · exact State.writeRecord_free ..

@[simp] theorem State.complete_free (s : State) (d : Desc) (r : Rec) : (s.complete d r).free = s.free := by
  unfold State.complete; dsimp only; split
  · rfl
  · exact State.postRecord_free ..

@[simp] theorem State.completeStatus_free (s : State) (d : Desc) (a b c : Nat) : (s.completeStatus d a b c).free = s.free :=
  State.complete_free ..

@[simp] theorem State.writeRecord_regs (s : State) (n : Nat) (r : Rec) : (s.writeRecord n r).regs = s.regs := by
  unfold State.writeRecord State.raiseIrq; dsimp only; (repeat' split) <;> rfl

@[simp] theorem State.postRecord_regs (s : State) (r : Rec) : (s.postRecord r).regs = s.regs := by
  unfold State.postRecord; dsimp only; split
  · rfl
  · exact State.writeRecord_regs ..

@[simp] theorem State.complete_regs (s : State) (d : Desc) (r : Rec) : (s.complete d r).regs = s.regs := by
  unfold State.complete; dsimp only; split
  · rfl
  · exact State.postRecord_regs ..

@[simp] theorem State.completeStatus_regs (s : State) (d : Desc) (a b c : Nat) : (s.completeStatus d a b c).regs = s.regs :=
  State.complete_regs ..

@[simp] theorem State.writeRecord_log (s : State) (n : Nat) (r : Rec) : (s.writeRecord n r).log = s.log := by
  unfold State.writeRecord State.raiseIrq; dsimp only; (repeat' split) <;> rfl

@[simp] theorem State.postRecord_log (s : State) (r : Rec) : (s.postRecord r).log = s.log := by
  unfold State.postRecord; dsimp only; split
  · rfl
  · exact State.writeRecord_log ..

@[simp] theorem State.complete_log (s : State) (d : Desc) (r : Rec) : (s.complete d r).log = s.log := by
  unfold State.complete; dsimp only; split
  · rfl
  · exact State.postRecord_log ..

@[simp] theorem State.completeStatus_log (s : State) (d : Desc) (a b c : Nat) : (s.completeStatus d a b c).log = s.log :=
  State.complete_log ..

@[simp] theorem State.writeRecord_logTotal (s : State) (n : Nat) (r : Rec) : (s.writeRecord n r).logTotal = s.logTotal := by
  unfold State.writeRecord State.raiseIrq; dsimp only; (repeat' split) <;> rfl

@[simp] theorem State.postRecord_logTotal (s : State) (r : Rec) : (s.postRecord r).logTotal = s.logTotal := by
  unfold State.postRecord; dsimp only; split
  · rfl
  · exact State.writeRecord_logTotal ..

@[simp] theorem State.complete_logTotal (s : State) (d : Desc) (r : Rec) : (s.complete d r).logTotal = s.logTotal := by
  unfold State.complete; dsimp only; split
  · rfl
  · exact State.postRecord_logTotal ..

@[simp] theorem State.completeStatus_logTotal (s : State) (d : Desc) (a b c : Nat) : (s.completeStatus d a b c).logTotal = s.logTotal :=
  State.complete_logTotal ..

@[simp] theorem State.writeRecord_tensors (s : State) (n : Nat) (r : Rec) : (s.writeRecord n r).tensors = s.tensors := by
  unfold State.writeRecord State.raiseIrq; dsimp only; (repeat' split) <;> rfl

@[simp] theorem State.postRecord_tensors (s : State) (r : Rec) : (s.postRecord r).tensors = s.tensors := by
  unfold State.postRecord; dsimp only; split
  · rfl
  · exact State.writeRecord_tensors ..

@[simp] theorem State.complete_tensors (s : State) (d : Desc) (r : Rec) : (s.complete d r).tensors = s.tensors := by
  unfold State.complete; dsimp only; split
  · rfl
  · exact State.postRecord_tensors ..

@[simp] theorem State.completeStatus_tensors (s : State) (d : Desc) (a b c : Nat) : (s.completeStatus d a b c).tensors = s.tensors :=
  State.complete_tensors ..

@[simp] theorem State.writeRecord_courses (s : State) (n : Nat) (r : Rec) : (s.writeRecord n r).courses = s.courses := by
  unfold State.writeRecord State.raiseIrq; dsimp only; (repeat' split) <;> rfl

@[simp] theorem State.postRecord_courses (s : State) (r : Rec) : (s.postRecord r).courses = s.courses := by
  unfold State.postRecord; dsimp only; split
  · rfl
  · exact State.writeRecord_courses ..

@[simp] theorem State.complete_courses (s : State) (d : Desc) (r : Rec) : (s.complete d r).courses = s.courses := by
  unfold State.complete; dsimp only; split
  · rfl
  · exact State.postRecord_courses ..

@[simp] theorem State.completeStatus_courses (s : State) (d : Desc) (a b c : Nat) : (s.completeStatus d a b c).courses = s.courses :=
  State.complete_courses ..

@[simp] theorem State.writeRecord_copies (s : State) (n : Nat) (r : Rec) : (s.writeRecord n r).copies = s.copies := by
  unfold State.writeRecord State.raiseIrq; dsimp only; (repeat' split) <;> rfl

@[simp] theorem State.postRecord_copies (s : State) (r : Rec) : (s.postRecord r).copies = s.copies := by
  unfold State.postRecord; dsimp only; split
  · rfl
  · exact State.writeRecord_copies ..

@[simp] theorem State.complete_copies (s : State) (d : Desc) (r : Rec) : (s.complete d r).copies = s.copies := by
  unfold State.complete; dsimp only; split
  · rfl
  · exact State.postRecord_copies ..

@[simp] theorem State.completeStatus_copies (s : State) (d : Desc) (a b c : Nat) : (s.completeStatus d a b c).copies = s.copies :=
  State.complete_copies ..

@[simp] theorem State.writeRecord_steps (s : State) (n : Nat) (r : Rec) : (s.writeRecord n r).steps = s.steps := by
  unfold State.writeRecord State.raiseIrq; dsimp only; (repeat' split) <;> rfl

@[simp] theorem State.postRecord_steps (s : State) (r : Rec) : (s.postRecord r).steps = s.steps := by
  unfold State.postRecord; dsimp only; split
  · rfl
  · exact State.writeRecord_steps ..

@[simp] theorem State.complete_steps (s : State) (d : Desc) (r : Rec) : (s.complete d r).steps = s.steps := by
  unfold State.complete; dsimp only; split
  · rfl
  · exact State.postRecord_steps ..

@[simp] theorem State.completeStatus_steps (s : State) (d : Desc) (a b c : Nat) : (s.completeStatus d a b c).steps = s.steps :=
  State.complete_steps ..

@[simp] theorem State.writeRecord_journal (s : State) (n : Nat) (r : Rec) : (s.writeRecord n r).journal = s.journal := by
  unfold State.writeRecord State.raiseIrq; dsimp only; (repeat' split) <;> rfl

@[simp] theorem State.postRecord_journal (s : State) (r : Rec) : (s.postRecord r).journal = s.journal := by
  unfold State.postRecord; dsimp only; split
  · rfl
  · exact State.writeRecord_journal ..

@[simp] theorem State.complete_journal (s : State) (d : Desc) (r : Rec) : (s.complete d r).journal = s.journal := by
  unfold State.complete; dsimp only; split
  · rfl
  · exact State.postRecord_journal ..

@[simp] theorem State.completeStatus_journal (s : State) (d : Desc) (a b c : Nat) : (s.completeStatus d a b c).journal = s.journal :=
  State.complete_journal ..

@[simp] theorem State.writeRecord_mesh (s : State) (n : Nat) (r : Rec) : (s.writeRecord n r).mesh = s.mesh := by
  unfold State.writeRecord State.raiseIrq; dsimp only; (repeat' split) <;> rfl

@[simp] theorem State.postRecord_mesh (s : State) (r : Rec) : (s.postRecord r).mesh = s.mesh := by
  unfold State.postRecord; dsimp only; split
  · rfl
  · exact State.writeRecord_mesh ..

@[simp] theorem State.complete_mesh (s : State) (d : Desc) (r : Rec) : (s.complete d r).mesh = s.mesh := by
  unfold State.complete; dsimp only; split
  · rfl
  · exact State.postRecord_mesh ..

@[simp] theorem State.completeStatus_mesh (s : State) (d : Desc) (a b c : Nat) : (s.completeStatus d a b c).mesh = s.mesh :=
  State.complete_mesh ..

@[simp] theorem State.writeRecord_ve (s : State) (n : Nat) (r : Rec) : (s.writeRecord n r).ve = s.ve := by
  unfold State.writeRecord State.raiseIrq; dsimp only; (repeat' split) <;> rfl

@[simp] theorem State.postRecord_ve (s : State) (r : Rec) : (s.postRecord r).ve = s.ve := by
  unfold State.postRecord; dsimp only; split
  · rfl
  · exact State.writeRecord_ve ..

@[simp] theorem State.complete_ve (s : State) (d : Desc) (r : Rec) : (s.complete d r).ve = s.ve := by
  unfold State.complete; dsimp only; split
  · rfl
  · exact State.postRecord_ve ..

@[simp] theorem State.completeStatus_ve (s : State) (d : Desc) (a b c : Nat) : (s.completeStatus d a b c).ve = s.ve :=
  State.complete_ve ..

@[simp] theorem State.writeRecord_resume (s : State) (n : Nat) (r : Rec) : (s.writeRecord n r).resume = s.resume := by
  unfold State.writeRecord State.raiseIrq; dsimp only; (repeat' split) <;> rfl

@[simp] theorem State.postRecord_resume (s : State) (r : Rec) : (s.postRecord r).resume = s.resume := by
  unfold State.postRecord; dsimp only; split
  · rfl
  · exact State.writeRecord_resume ..

@[simp] theorem State.complete_resume (s : State) (d : Desc) (r : Rec) : (s.complete d r).resume = s.resume := by
  unfold State.complete; dsimp only; split
  · rfl
  · exact State.postRecord_resume ..

@[simp] theorem State.completeStatus_resume (s : State) (d : Desc) (a b c : Nat) : (s.completeStatus d a b c).resume = s.resume :=
  State.complete_resume ..

@[simp] theorem State.writeRecord_cores (s : State) (n : Nat) (r : Rec) : (s.writeRecord n r).cores = s.cores := by
  unfold State.writeRecord State.raiseIrq; dsimp only; (repeat' split) <;> rfl

@[simp] theorem State.postRecord_cores (s : State) (r : Rec) : (s.postRecord r).cores = s.cores := by
  unfold State.postRecord; dsimp only; split
  · rfl
  · exact State.writeRecord_cores ..

@[simp] theorem State.complete_cores (s : State) (d : Desc) (r : Rec) : (s.complete d r).cores = s.cores := by
  unfold State.complete; dsimp only; split
  · rfl
  · exact State.postRecord_cores ..

@[simp] theorem State.completeStatus_cores (s : State) (d : Desc) (a b c : Nat) : (s.completeStatus d a b c).cores = s.cores :=
  State.complete_cores ..

@[simp] theorem State.writeRecord_dm (s : State) (n : Nat) (r : Rec) : (s.writeRecord n r).dm = s.dm := by
  unfold State.writeRecord State.raiseIrq; dsimp only; (repeat' split) <;> rfl

@[simp] theorem State.postRecord_dm (s : State) (r : Rec) : (s.postRecord r).dm = s.dm := by
  unfold State.postRecord; dsimp only; split
  · rfl
  · exact State.writeRecord_dm ..

@[simp] theorem State.complete_dm (s : State) (d : Desc) (r : Rec) : (s.complete d r).dm = s.dm := by
  unfold State.complete; dsimp only; split
  · rfl
  · exact State.postRecord_dm ..

@[simp] theorem State.completeStatus_dm (s : State) (d : Desc) (a b c : Nat) : (s.completeStatus d a b c).dm = s.dm :=
  State.complete_dm ..

@[simp] theorem State.writeRecord_stackTab (s : State) (n : Nat) (r : Rec) : (s.writeRecord n r).stackTab = s.stackTab := by
  unfold State.writeRecord State.raiseIrq; dsimp only; (repeat' split) <;> rfl

@[simp] theorem State.postRecord_stackTab (s : State) (r : Rec) : (s.postRecord r).stackTab = s.stackTab := by
  unfold State.postRecord; dsimp only; split
  · rfl
  · exact State.writeRecord_stackTab ..

@[simp] theorem State.complete_stackTab (s : State) (d : Desc) (r : Rec) : (s.complete d r).stackTab = s.stackTab := by
  unfold State.complete; dsimp only; split
  · rfl
  · exact State.postRecord_stackTab ..

@[simp] theorem State.completeStatus_stackTab (s : State) (d : Desc) (a b c : Nat) : (s.completeStatus d a b c).stackTab = s.stackTab :=
  State.complete_stackTab ..

@[simp] theorem State.writeRecord_secure (s : State) (n : Nat) (r : Rec) : (s.writeRecord n r).secure = s.secure := by
  unfold State.writeRecord State.raiseIrq; dsimp only; (repeat' split) <;> rfl

@[simp] theorem State.postRecord_secure (s : State) (r : Rec) : (s.postRecord r).secure = s.secure := by
  unfold State.postRecord; dsimp only; split
  · rfl
  · exact State.writeRecord_secure ..

@[simp] theorem State.complete_secure (s : State) (d : Desc) (r : Rec) : (s.complete d r).secure = s.secure := by
  unfold State.complete; dsimp only; split
  · rfl
  · exact State.postRecord_secure ..

@[simp] theorem State.completeStatus_secure (s : State) (d : Desc) (a b c : Nat) : (s.completeStatus d a b c).secure = s.secure :=
  State.complete_secure ..

@[simp] theorem State.writeRecord_net (s : State) (n : Nat) (r : Rec) : (s.writeRecord n r).net = s.net := by
  unfold State.writeRecord State.raiseIrq; dsimp only; (repeat' split) <;> rfl

@[simp] theorem State.postRecord_net (s : State) (r : Rec) : (s.postRecord r).net = s.net := by
  unfold State.postRecord; dsimp only; split
  · rfl
  · exact State.writeRecord_net ..

@[simp] theorem State.complete_net (s : State) (d : Desc) (r : Rec) : (s.complete d r).net = s.net := by
  unfold State.complete; dsimp only; split
  · rfl
  · exact State.postRecord_net ..

@[simp] theorem State.completeStatus_net (s : State) (d : Desc) (a b c : Nat) : (s.completeStatus d a b c).net = s.net :=
  State.complete_net ..

@[simp] theorem State.writeRecord_power (s : State) (n : Nat) (r : Rec) : (s.writeRecord n r).power = s.power := by
  unfold State.writeRecord State.raiseIrq; dsimp only; (repeat' split) <;> rfl

@[simp] theorem State.postRecord_power (s : State) (r : Rec) : (s.postRecord r).power = s.power := by
  unfold State.postRecord; dsimp only; split
  · rfl
  · exact State.writeRecord_power ..

@[simp] theorem State.complete_power (s : State) (d : Desc) (r : Rec) : (s.complete d r).power = s.power := by
  unfold State.complete; dsimp only; split
  · rfl
  · exact State.postRecord_power ..

@[simp] theorem State.completeStatus_power (s : State) (d : Desc) (a b c : Nat) : (s.completeStatus d a b c).power = s.power :=
  State.complete_power ..

/-- A completion ring that takes a record at once: the record is written. -/
theorem State.postRecord_open {s : State} {r : Rec} (h : s.ringOpen r.ring = true) :
    s.postRecord r = s.writeRecord (s.cqOf r.ring) r := by
  unfold State.ringOpen at h
  unfold State.postRecord
  simp only [Bool.and_eq_true, Bool.not_eq_true'] at h
  dsimp only
  rw [if_neg (by simp [h.1.1, h.1.2, h.2])]

/-- A completion ring that does not: the record is held behind those that are held (R402). -/
theorem State.postRecord_held {s : State} {r : Rec} (h : s.ringOpen r.ring = false) :
    s.postRecord r = s.setCq (s.cqOf r.ring) { s.cq (s.cqOf r.ring) with held := (s.cq (s.cqOf r.ring)).held ++ [r] } := by
  unfold State.ringOpen at h
  unfold State.postRecord
  dsimp only at h ⊢
  rw [if_pos]
  revert h
  cases s.cqFull (s.cqOf r.ring) <;> cases s.cqEnabled (s.cqOf r.ring) <;> cases (s.cq (s.cqOf r.ring)).held.isEmpty <;> simp

/-- The descriptor that is due on a ring: in flight, not acted on, of the type. -/
theorem State.dueDesc_spec {s : State} {ring ty : Nat} {d : Desc} (h : s.dueDesc ring ty = some d) :
    d ∈ s.host.inflight ∧ d.ring = ring ∧ d.acted = false ∧ d.ty = ty := by
  unfold State.dueDesc at h
  split at h
  · rename_i e he
    split at h
    · rename_i hty
      cases h
      have hp := List.find?_some he
      simp only [Bool.and_eq_true, decide_eq_true_eq, Bool.not_eq_true'] at hp
      exact ⟨List.mem_of_find?_eq_some he, hp.1, hp.2, hty⟩
    · cases h
  · cases h

/-- A host access has its effect where the host reaches the package, and none elsewhere. -/
theorem State.viaHost_spec (s : State) (f : State → State) : s.viaHost f = if s.hostLink = true then f s else s := rfl

/-! ## Courses and tasks -/

/-- The course that was written is the course of its id. -/
theorem State.course_setCourse {s : State} {c d : Course} (h : s.course c.id = some d) : (s.setCourse c).course c.id = some c := by
  unfold State.course State.setCourse at *
  dsimp only
  generalize s.courses = l at h ⊢
  induction l with
  | nil => cases h
  | cons e l ih =>
    rw [List.find?_cons] at h
    rw [List.map_cons, List.find?_cons]
    by_cases he : e.id = c.id
    · simp [he]
    · simp only [he, decide_false, if_false] at h ⊢
      exact ih h

/-- Every other course stands. -/
theorem State.course_setCourse_ne (s : State) {c : Course} {n : Nat} (h : n ≠ c.id) :
    (s.setCourse c).course n = s.course n := by
  unfold State.course State.setCourse
  dsimp only
  generalize s.courses = l
  induction l with
  | nil => rfl
  | cons e l ih =>
    rw [List.map_cons, List.find?_cons, List.find?_cons, ih]
    by_cases he : e.id = c.id
    · have h1 : ¬ e.id = n := fun e' => h (e'.symm.trans he)
      have h2 : ¬ c.id = n := fun e' => h e'.symm
      simp [he, h2]
    · simp [he]

/-- What a running task is: an issued, unfinished entry of a course that runs, at a station of the type. -/
theorem State.task_spec {s : State} {j typ : Nat} {t : Task} (h : s.task j typ = some t) :
    t.j = j ∧ s.entry j = some t.e ∧ s.course t.e.course = some t.c ∧ t.c.station t.e.station = some t.st ∧
      t.e.state = .issued ∧ t.e.finished = false ∧ t.c.running = true ∧ s.issuing = true ∧ t.st.typ = typ := by
  unfold State.task at h
  split at h
  · cases h
  · rename_i e he
    split at h
    · cases h
    · rename_i c hc
      split at h
      · cases h
      · rename_i st hst
        split at h
        · rename_i hg
          cases h
          simp only [Bool.and_eq_true, beq_iff_eq, Bool.not_eq_true'] at hg
          exact ⟨rfl, he, hc, hst, hg.1.1.1.1, hg.1.1.1.2, hg.1.1.2, hg.1.2, hg.2⟩
        · cases h

/-- A task that nothing stops at its reads has its meaning. -/
theorem State.runTask_runs {s : State} {t : Task} {agg : Option Nat} {part : Nat → Bool} (h : s.runs t agg part) (f : Task → State) :
    s.runTask t.j t.st.typ f = .next (f t) := by
  unfold State.runTask
  rw [h.1]; dsimp only; rw [h.2.1]; rfl

/-- A guarded effect of a task that runs happens. -/
theorem State.guarded_runs {s : State} {t : Task} {agg : Option Nat} {part : Nat → Bool} (h : s.runs t agg part)
    (f : State → State) : s.guarded t agg part f = f s := by
  unfold State.guarded; rw [h.2.2.1]

/-! ## Tiles that tasks make -/

/-- A tile of converted values is never one of partials. -/
@[simp] theorem State.convInto_longSum (s : State) (t : Task) (id conv k : Nat) (v : Nat → Nat → Val) :
    (s.convInto t id conv k v).1.hdr.longSum = false := rfl

@[simp] theorem State.convTile_longSum (s : State) (t : Task) (port conv k : Nat) (v : Nat → Nat → Val) :
    (s.convTile t port conv k v).1.hdr.longSum = false := by
  unfold State.convTile; dsimp only; split <;> rfl

@[simp] theorem State.copiedTile_longSum (s : State) (t : Task) (port k : Nat) (src : Nat → Option Nat) (p : Bool) :
    (s.copiedTile t port k src p).hdr.longSum = false := rfl

@[simp] theorem State.partTile_longSum (s : State) (t : Task) (port k : Nat) (v : Nat → Nat → Nat) :
    (s.partTile t port k v).hdr.longSum = true := rfl

/-- No conversion of a plain course waits for a probe. -/
theorem State.needsProbe_plain (s : State) {c : Course} (h : c.stepMode = false) (id : Nat) : s.needsProbe c id = false := by
  unfold State.needsProbe; split <;> simp [h]

/-- A course waits for no probe where no tensor takes an outer scale. -/
theorem State.needsProbe_unscaled (s : State) (c : Course)
    (h : s.tensors.all (fun kv => kv.2.all (fun t => !t.desc.outerScaled)) = true) (id : Nat) : s.needsProbe c id = false := by
  unfold State.needsProbe
  split
  · rfl
  · rename_i t ht
    have hm : (id, some t) ∈ s.tensors := by
      have := FMap.mem_of_get_ne (d := fun _ => (none : Option Tensor)) (m := s.tensors) (k := id)
        (by unfold State.tensor at ht; rw [ht]; simp)
      unfold State.tensor at ht; rwa [ht] at this
    have := List.all_eq_true.1 h _ hm
    simp at this
    simp [this]

end Sys2Proof.Machine
end

