-- ==== Sys2Proof/Laws/Memory.lean ====
section
/-! SUPPORT. Every operation over the stacks keeps the memory in canonical form, and the memory after reset has it. -/

namespace Sys2Proof.Machine

/-- A stack's lines are in canonical form. -/
def Stack.linesOk (k : Stack) : Prop := FMap.wf (fun _ => ({} : Line)) k.lines = true

/-- The canonical form of the memory, part by part. -/
theorem Memory.wf_iff (s : State) :
    Memory.wf s = true ↔ FMap.wf (fun _ => ({} : Stack)) s.stackTab = true ∧ ∀ kv ∈ s.stackTab, kv.2.linesOk := by
  simp only [Memory.wf, Bool.and_eq_true, List.all_eq_true, Stack.linesOk]

/-- The memory after reset is in canonical form. -/
theorem Memory.wf_reset : Memory.wf State.reset = true := rfl

/-- The form depends on the table of stacks alone. -/
theorem Memory.wf_congr {s t : State} (h : t.stackTab = s.stackTab) : Memory.wf t = Memory.wf s := by
  unfold Memory.wf; rw [h]

/-- In canonical memory every stack's lines are in canonical form. -/
theorem Memory.linesOk_stack {s : State} (h : Memory.wf s = true) (n : Nat) : (s.stack n).linesOk := by
  rw [Memory.wf_iff] at h
  by_cases hn : FMap.get (fun _ => ({} : Stack)) s.stackTab n = {}
  · unfold State.stack; rw [hn]; rfl
  · exact h.2 _ (FMap.mem_of_get_ne hn)

/-- A stack whose lines are in canonical form may be written. -/
theorem Memory.wf_setStack {s : State} (h : Memory.wf s = true) (n : Nat) {k : Stack} (hk : k.linesOk) :
    Memory.wf (s.setStack n k) = true := by
  rw [Memory.wf_iff] at h ⊢
  refine ⟨FMap.wf_set n k h.1, fun kv hkv => ?_⟩
  have hr := ((FMap.wf_iff _ _).mp (FMap.wf_set (d := fun _ => ({} : Stack)) n k h.1)).1
  have hg : FMap.get (fun _ => ({} : Stack)) (FMap.set (fun _ => {}) s.stackTab n k) kv.1 = kv.2 := FMap.get_of_mem hr hkv
  rw [FMap.get_set] at hg
  split at hg
  · rw [← hg]; exact hk
  · rw [← hg]; exact Memory.linesOk_stack ((Memory.wf_iff s).mpr h) kv.1

/-! ## Operations on one stack -/

theorem Stack.linesOk_setLine {k : Stack} (h : k.linesOk) (n : Nat) (l : Line) : (k.setLine n l).linesOk := FMap.wf_set n l h

theorem Stack.linesOk_writeFresh {k : Stack} (h : k.linesOk) (n : Nat) (d : List Byte) : (k.writeFresh n d).linesOk :=
  FMap.wf_set n _ h

theorem Stack.linesOk_enter {k : Stack} (h : k.linesOk) (n : Nat) : (k.enter n).linesOk := h

/-- What lies in a stack after several lines are written fresh. -/
theorem Stack.linesOk_foldl_writeFresh (ls : List Nat) (d : List Byte) {k : Stack} (h : k.linesOk) :
    (ls.foldl (fun k l => k.writeFresh l d) k).linesOk := by
  induction ls generalizing k with
  | nil => exact h
  | cons l ls ih => exact ih (Stack.linesOk_writeFresh h l d)

/-! ## Operations on the memory -/

/-- An operation that keeps the form, repeated over a list, keeps it. -/
theorem Memory.wf_foldl {α : Type} (f : State → α → State) (hf : ∀ s a, Memory.wf s = true → Memory.wf (f s a) = true)
    (xs : List α) {s : State} (h : Memory.wf s = true) : Memory.wf (xs.foldl f s) = true := by
  induction xs generalizing s with
  | nil => exact h
  | cons x xs ih => exact ih (hf s x h)

theorem Memory.wf_writeMark {s : State} (h : Memory.wf s = true) (n l : Nat) (d : List Byte) :
    Memory.wf (s.writeMark n l d) = true := by
  have hk : ((s.stack n).setLine l (markedLine d)).linesOk := Stack.linesOk_setLine (Memory.linesOk_stack h n) l _
  unfold State.writeMark
  dsimp only
  split
  · exact Memory.wf_setStack h n hk
  · split
    · exact Memory.wf_setStack h n hk
    · rw [Memory.wf_congr (State.logEntry_stackTab ..)]; exact Memory.wf_setStack h n hk

/-- Writing a line. -/
theorem Memory.wf_writeLine {s : State} (h : Memory.wf s = true) (n l : Nat) (p : Bool) (d : List Byte) :
    Memory.wf (s.writeLine n l p d) = true := by
  unfold State.writeLine
  split
  · rw [Memory.wf_congr (State.logEntry_stackTab ..)]; exact h
  · dsimp only
    split
    · exact Memory.wf_writeMark h n l _
    · exact Memory.wf_setStack h n (Stack.linesOk_writeFresh (Memory.linesOk_stack h n) l _)

/-- Writing bytes of a home. -/
theorem Memory.wf_writeHome {s : State} (h : Memory.wf s = true) (t : Tensor) (b : Nat) (p : Bool) (bs : List Byte) :
    Memory.wf (s.writeHome t b p bs) = true := by
  unfold State.writeHome
  split
  · exact h
  · exact Memory.wf_foldl _ (fun s l hs => Memory.wf_writeLine hs _ _ _ _) _ h

/-- Filling a home. -/
theorem Memory.wf_fillHome {s : State} (h : Memory.wf s = true) (t : Tensor) : Memory.wf (s.fillHome t) = true := by
  have h1 : Memory.wf (t.stackIds.foldl (fun s n =>
      let k := s.stack n
      s.setStack n
        { k with lines := FMap.keep (fun l _ => !t.hasLine n l) k.lines
                 dir := k.dir.filter (fun l => !t.hasLine n l)
                 heals := k.heals.filter (fun h => !t.hasLine n h.1) }) s) = true := by
    refine Memory.wf_foldl _ (fun s n hs => ?_) _ h
    refine Memory.wf_setStack hs n ?_
    exact FMap.wf_keep (m := (s.stack n).lines) (fun l _ => !t.hasLine n l) (Memory.linesOk_stack hs n)
  unfold State.fillHome
  dsimp only at h1 ⊢
  split
  · exact h1
  · exact Memory.wf_foldl _ (fun s i hs => Memory.wf_writeLine hs _ _ _ _) _ h1

/-- Clearing the marks of a home at its release. -/
theorem Memory.wf_clearMarks {s : State} (h : Memory.wf s = true) (t : Tensor) : Memory.wf (s.clearMarks t) = true := by
  unfold State.clearMarks
  exact Memory.wf_foldl _ (fun s n hs =>
    Memory.wf_setStack hs n (Stack.linesOk_foldl_writeFresh _ _ (Memory.linesOk_stack hs n))) _ h

/-- What the cells do to a line between two accesses. -/
theorem Memory.wf_damage {s : State} (h : Memory.wf s = true) (n l : Nat) (ds : List (Nat × Byte)) :
    Memory.wf (s.damage n l ds) = true := by
  unfold State.damage
  dsimp only
  split
  · exact h
  · exact Memory.wf_setStack h n (Stack.linesOk_setLine (Memory.linesOk_stack h n) l _)

/-- Queueing a heal write. -/
theorem Memory.wf_queueHeal {s : State} (h : Memory.wf s = true) (n l : Nat) (r : ReadStep) :
    Memory.wf (s.queueHeal n l r) = true := by
  unfold State.queueHeal
  split
  · split
    · exact Memory.wf_setStack h n (Memory.linesOk_stack h n)
    · exact h
  · exact h

@[simp] theorem State.latchUe_stackTab (s : State) (n l : Nat) : (s.latchUe n l).stackTab = s.stackTab := by
  unfold State.latchUe; dsimp only; split
  · rfl
  · exact State.setReg_stackTab ..

/-- Counting a read. -/
theorem Memory.wf_countRead {s : State} (h : Memory.wf s = true) (n l c : Nat) (r : ReadStep) :
    Memory.wf (s.countRead n l c r) = true := by
  have hc : ∀ (q : Reg) (hi lo m : Nat), Memory.wf (s.countReg q hi lo m) = true := fun q hi lo m => by
    rw [Memory.wf_congr (State.countReg_stackTab ..)]; exact h
  unfold State.countRead
  dsimp only
  split
  · exact hc _ _ _ _
  · exact h
  · split
    · exact Memory.wf_setStack (hc _ _ _ _) n (Stack.linesOk_enter (Memory.linesOk_stack (hc _ _ _ _) n) l)
    · exact hc _ _ _ _
  · rw [Memory.wf_congr (State.logEntry_stackTab ..)]; exact hc _ _ _ _
  · rw [Memory.wf_congr (State.logEntry_stackTab ..), Memory.wf_congr (State.latchUe_stackTab ..)]; exact hc _ _ _ _

/-- Delivering a line. -/
theorem Memory.wf_deliverLine {s : State} (h : Memory.wf s = true) (n l : Nat) (b : List Byte × Bool) :
    Memory.wf (s.deliverLine n l b) = true := by
  unfold State.deliverLine
  dsimp only
  split
  · have h' : Memory.wf (s.logEntry 0x0025 (n / 8) n deviceWide (64 * l) 0) = true := by
      rw [Memory.wf_congr (State.logEntry_stackTab ..)]; exact h
    exact Memory.wf_setStack h' n (Memory.linesOk_stack h' n)
  · exact Memory.wf_setStack h n (Memory.linesOk_stack h n)

/-- The poison of a dense tile follows its lines: no stack changes. -/
@[simp] theorem State.syncPoison_stackTab (s : State) (n l : Nat) : (s.syncPoison n l).stackTab = s.stackTab := by
  unfold State.syncPoison
  split
  · rfl
  · dsimp only; split <;> rfl

/-- What the scrub rewrites. -/
theorem Memory.wf_scrubbed {s : State} (h : Memory.wf s = true) (n l : Nat) (r : ReadStep) :
    Memory.wf (s.scrubbed n l r) = true := by
  unfold State.scrubbed
  dsimp only
  split
  · exact Memory.wf_setStack h n (Stack.linesOk_setLine (Memory.linesOk_stack h n) l _)
  · split
    · rw [Memory.wf_congr (State.syncPoison_stackTab ..)]; exact Memory.wf_writeMark h n l _
    · exact Memory.wf_setStack h n (Stack.linesOk_writeFresh (Memory.linesOk_stack h n) l _)
  · exact h

/-! ## Reading a line after a write -/

/-- A line written fresh reads as its data with valid check bytes, and every other line stands. -/
theorem Stack.line_writeFresh (k : Stack) (n m : Nat) (d : List Byte) :
    (k.writeFresh n d).line m = if m = n then goodLine d else k.line m := by
  unfold Stack.writeFresh Stack.line Stack.setLine
  exact FMap.get_set _ _ _ _ _

/-- A line with the mark, and every other line. -/
theorem State.line_writeMark (s : State) (n l m i : Nat) (d : List Byte) :
    ((s.writeMark n l d).stack m).line i
      = if m = n ∧ i = l then markedLine d else (s.stack m).line i := by
  have key : ∀ k : Stack, k.lines = ((s.stack n).setLine l (markedLine d)).lines →
      ((s.setStack n k).stack m).line i = if m = n ∧ i = l then markedLine d else (s.stack m).line i := by
    intro k hk
    by_cases hm : m = n
    · subst hm
      rw [State.stack_setStack]
      unfold Stack.line at *
      rw [hk]
      unfold Stack.setLine
      rw [FMap.get_set]
      by_cases hi : i = l <;> simp [hi]
    · rw [State.stack_setStack_ne _ _ hm]; simp [hm]
  unfold State.writeMark
  dsimp only
  split
  · exact key _ rfl
  · split
    · exact key _ rfl
    · have : ∀ u : State, ((u.logEntry 0x0029 (n / 8) n deviceWide (64 * l) 0).stack m) = u.stack m := by
        intro u; unfold State.stack; rw [State.logEntry_stackTab]
      rw [this]; exact key _ rfl

end Sys2Proof.Machine
end

