-- ==== Sys2Proof/Laws/Net.lean ====
section
/-! SUPPORT. What sending does, said once: sessions, the packets that an exchange has sent, and `out`, and nothing else. -/

namespace Sys2Proof.Machine

/-- From s to t only sessions, packet numbers of MACsec and what leaves the package differ. -/
def State.SentOnly (s t : State) : Prop := ∃ ss aa o, t = { s with net := { s.net with sessions := ss, sas := aa }, out := o }

theorem State.SentOnly.refl (s : State) : s.SentOnly s := ⟨s.net.sessions, s.net.sas, s.out, rfl⟩

theorem State.SentOnly.trans {s t u : State} (h : s.SentOnly t) (g : t.SentOnly u) : s.SentOnly u := by
  obtain ⟨_, _, _, rfl⟩ := h
  obtain ⟨a, b, c, rfl⟩ := g
  exact ⟨a, b, c, rfl⟩

theorem State.setSession_sent (s : State) (p : Nat) (q : DnSession) : s.SentOnly (s.setSession p q) := ⟨_, s.net.sas, s.out, rfl⟩

theorem State.emit_sent (s : State) (o : Out) : s.SentOnly (s.emit o) := ⟨s.net.sessions, s.net.sas, _, rfl⟩

theorem State.sealFrame_sent (s : State) (port : Nat) : s.SentOnly (s.sealFrame port) := by
  unfold State.sealFrame
  split
  · exact .refl s
  · exact ⟨s.net.sessions, _, s.out, rfl⟩

theorem State.transmit_sent (s : State) (peer port : Nat) (h : DnHdr) (m : NetMsg) (data : List Byte) :
    s.SentOnly (s.transmit peer port h m data) := (s.sealFrame_sent port).trans (State.emit_sent _ _)

theorem State.foldl_sent {α : Type} (f : State → α → State) (hf : ∀ (s : State) a, s.SentOnly (f s a)) (xs : List α) (s : State) :
    s.SentOnly (xs.foldl f s) := by
  induction xs generalizing s with
  | nil => exact .refl s
  | cons x xs ih => exact (hf s x).trans (ih _)

theorem State.sendNow_sent (s : State) (peer port : Nat) (h : DnHdr) (m : NetMsg) (data : List Byte) :
    s.SentOnly (s.sendNow peer port h m data) :=
  (s.setSession_sent _ _).trans (State.transmit_sent _ _ _ _ _ _)

/-- What waits in a session goes or stays: nothing but sessions and packets changes. -/
theorem State.flush_sent (s : State) (peer : Nat) (full : Bool) (xs : List (DnHdr × NetMsg)) : s.SentOnly (s.flush peer full xs) := by
  induction xs generalizing s full with
  | nil => exact .refl s
  | cons x xs ih =>
    obtain ⟨h, m⟩ := x
    have keep (f : Bool) : s.SentOnly ((s.setSession peer
        { s.session peer with queue := (s.session peer).queue ++ [(h, m)] }).flush peer f xs) :=
      (s.setSession_sent _ _).trans (ih _ _)
    simp only [State.flush]
    split
    · exact keep _
    · split
      · exact keep _
      · split
        · exact keep _
        · exact (State.foldl_sent _ (fun s (x : DnHdr × NetMsg × List Byte) => s.sendNow_sent peer _ x.1 x.2.1 x.2.2) _ s).trans (ih _ _)

theorem State.push_sent (s : State) (peer : Nat) (new : List (DnHdr × NetMsg)) : s.SentOnly (s.push peer new) :=
  (s.setSession_sent _ _).trans (State.flush_sent _ _ _ _)

theorem State.sendData_sent (s : State) (peer : Nat) (h : DnHdr) (m : NetMsg) (n : Nat) : s.SentOnly (s.sendData peer h m n) := by
  unfold State.sendData
  split
  · exact .refl s
  · exact s.push_sent _ _

theorem State.sendCtrl_sent (s : State) (peer : Nat) (h : DnHdr) (m : NetMsg) : s.SentOnly (s.sendCtrl peer h m) := by
  unfold State.sendCtrl
  split
  · exact .refl s
  · exact s.push_sent _ _

theorem State.sendPlain_sent (s : State) (peer port : Nat) (m : NetMsg) (attempt first : Nat) :
    s.SentOnly (s.sendPlain peer port m attempt first) := by
  unfold State.sendPlain
  split
  · exact .refl s
  · exact (s.setSession_sent _ _).trans (State.transmit_sent _ _ _ _ _ _)

/-- VETO in what waits: sessions change. -/
theorem State.vetoQueued_sent (s : State) (k : XKey) : s.SentOnly (s.vetoQueued k) := ⟨_, s.net.sas, s.out, rfl⟩

theorem State.sendLoose_sent (s : State) (peer : Nat) (m : NetMsg) (attempt : Nat) : s.SentOnly (s.sendLoose peer m attempt) := by
  unfold State.sendLoose
  split
  · exact s.sendPlain_sent _ _ _ _ _
  · exact .refl s

/-- An instance that sends what it can: sessions, the record of what is sent, and packets. -/
theorem State.xAdvance_frame (s : State) (t : Task) (port : Nat) (ps : List MeshEntry) :
    ∃ ss aa xs o, s.xAdvance t port ps = { s with net := { s.net with sessions := ss, sas := aa, xsent := xs }, out := o } := by
  have hv : s.SentOnly (if s.xVeto t port ps then s.vetoQueued (t.xkey port) else s) := by
    split
    · exact s.vetoQueued_sent _
    · exact .refl s
  obtain ⟨s1, a1, o1, h1⟩ := hv
  have go (v : Bool) (xs : List (XSend × XLoad × Bool)) (u : State) := State.foldl_sent
    (fun (s : State) q => s.sendData q.1.dst (s.xHeader t port q.1.tile q.1.leg v q.2.2) (.part t.c.id t.st.id port v q.2.1)
      (s.loadBytes q.2.1)) (fun s q => s.sendData_sent _ _ _ _) xs u
  unfold State.xAdvance
  simp only [h1]
  obtain ⟨ss, aa, o, h⟩ := go _ _ _
  exact ⟨ss, aa, _, o, h⟩

/-- What a chunk yields does not rest on what has been sent. -/
theorem State.xChunk_sent (s : State) (t : Task) (port k : Nat) (ps : List MeshEntry) (ss : FMap DnSession) (aa : List MacSa)
    (xs : List XSend) (o : List Out) :
    State.xChunk { s with net := { s.net with sessions := ss, sas := aa, xsent := xs }, out := o } t port k ps = s.xChunk t port k ps := rfl

theorem State.xReady_sent (s : State) (t : Task) (port : Nat) (ps : List MeshEntry) (ss : FMap DnSession) (aa : List MacSa)
    (xs : List XSend) (o : List Out) :
    State.xReady { s with net := { s.net with sessions := ss, sas := aa, xsent := xs }, out := o } t port ps = s.xReady t port ps := rfl

end Sys2Proof.Machine
end

