-- ==== Sys2Proof/Laws/Sram.lean ====
section
/-! SUPPORT. Working copies: reads after writes of CM and DM, and what dropping and spilling copies leave. -/

namespace Sys2Proof.Machine

@[simp] theorem State.setCm_cm (s : State) (core : Nat) (m : Sram) : (s.setCm core m).cm core = m := by
  simp [State.setCm, State.cm]

theorem State.setCm_cm_other (s : State) {core n : Nat} (m : Sram) (h : n ≠ core) : (s.setCm core m).cm n = s.cm n := by
  simp [State.setCm, State.cm, State.setCore, State.core, FMap.get_set_ne, h]

@[simp] theorem State.setDm_dmOf (s : State) (die : Nat) (m : Sram) : (s.setDm die m).dmOf die = m := by
  simp [State.setDm, State.dmOf]

/-- A tile of a dropped slot stands no longer in the memory. -/
theorem Sram.drop_slot? (m : Sram) (p : Slot → Bool) (course stream tile : Nat)
    (h : ∀ q ∈ m.slots, q.course = course → q.stream = stream → q.tile = tile → p q = true) :
    (m.drop p).slot? course stream tile = none := by
  rw [Sram.slot?, List.find?_eq_none]
  intro q hq hd
  have hd := of_decide_eq_true hd
  simp only [Sram.drop] at hq
  split at hq
  · rename_i hg
    exact absurd (List.mem_filter.2 ⟨hq, h q hq hd.1 hd.2.1 hd.2.2⟩) (by simp [List.isEmpty_iff.1 hg])
  · have hq := List.mem_filter.1 hq
    simp [h q hq.1 hd.1 hd.2.1 hd.2.2] at hq

/-- Dropping slots changes nothing but CM and DM. -/
theorem State.dropSlots_frame (s : State) (p : Slot → Bool) :
    s.dropSlots p = { s with cores := (s.dropSlots p).cores, dm := (s.dropSlots p).dm } := by
  let P (t : State) : Prop := t = { s with cores := t.cores, dm := t.dm }
  have hcm (t : State) (n : Nat) (m : Sram) (h : P t) : P (t.setCm n m) := by
    have h : t = { s with cores := t.cores, dm := t.dm } := h
    generalize t.cores = cs, t.dm = ds at h
    subst h
    rfl
  have hdm (t : State) (n : Nat) (m : Sram) (h : P t) : P (t.setDm n m) := by
    have h : t = { s with cores := t.cores, dm := t.dm } := h
    generalize t.cores = cs, t.dm = ds at h
    subst h
    rfl
  exact State.foldl_preserves P _ (fun t kv h => hdm t _ _ h) _ (State.foldl_preserves P _ (fun t kv h => hcm t _ _ h) _ rfl)

end Sys2Proof.Machine
end

