-- ==== Sys2Proof/WellFormed.lean ====
section
/-! DEFINITION. Well-formed commands: every operand lies in the range that its field, its register or the largest part of the
family gives it (Tables 0.1, 10.2, 13.4, 14.4, 15.5, 17.3). A meaning judges by itself what a smaller part lacks. -/

namespace Sys2Proof

/-- The fields of a VE instruction fit Table 10.2, whose TYPE 0b11 is reserved. -/
def VeIns.wellFormed (i : VeIns) : Bool :=
  decide (i.typ < 3 ∧ 1 ≤ i.vl ∧ i.vl ≤ 128 ∧ i.d < 32 ∧ i.a < 64 ∧ i.b < 64 ∧ i.c < 64 ∧ i.msk < 8 ∧ i.imm < 2 ^ 19)

/-- The fields of a Dunnath header fit Table 13.4. -/
def DnHdr.wellFormed (h : DnHdr) : Bool :=
  decide (h.ver < 16 ∧ h.attempt < 4 ∧ h.channel < 64 ∧ h.leg < 4 ∧ h.session < 2 ^ 32 ∧ h.psn < 2 ^ 32 ∧ h.ackPsn < 2 ^ 32
    ∧ h.credit < 2 ^ 16 ∧ h.epoch < 2 ^ 16 ∧ h.gen < 2 ^ 16 ∧ h.xctx < 2 ^ 64)

/-- The ids of an expert CTRL payload fit Table 14.4. -/
def ExpertKey.wellFormed (k : ExpertKey) : Bool :=
  decide (k.operand < 2 ^ 24 ∧ k.course < 2 ^ 32 ∧ k.station < 2 ^ 20)

/-- What a REPEAT or a GIVE_UP names fits its fields. -/
def StepName.wellFormed (n : StepName) : Bool :=
  decide (n.func < 64 ∧ n.course < 2 ^ 32 ∧ n.step < 2 ^ 64 ∧ n.attempt < 4)

/-- A task order fits the journal entry that it becomes (Table 17.3). -/
def TaskOrder.wellFormed (o : TaskOrder) : Bool :=
  decide (o.course < 2 ^ 32 ∧ o.station < 2 ^ 20 ∧ o.tile < 2 ^ 40 ∧ o.reachFirst < 2 ^ 32 ∧ o.reachCount < 2 ^ 32
    ∧ o.engine < 5 ∧ o.core < 144 ∧ o.index < 64 ∧ o.slot < 131072)
    && o.ready.all (fun r => decide (r.course < 2 ^ 32 ∧ r.station < 2 ^ 20 ∧ r.tile < 2 ^ 40))

/-- A contradicting order names a master of R416. -/
def orderOk : Option Order → Bool
  | none => true
  | some o => decide (o.master ≤ 4 ∧ o.requester < 2 ^ 32 ∧ o.ring < 4096)

/-- The operands of a command are in range. -/
def Instr.wellFormed : Instr → Bool
  | .courseSubmit o => decide (o.ring < 4096) && orderOk o.against
  | .tensorDefine ring _ _ => decide (ring < 4096)
  | .tensorRelease ring => decide (ring < 4096)
  | .tensorReleaseDeferred id => decide (id < 2 ^ 24)
  | .stepCommit ring against _ => decide (ring < 4096) && orderOk against
  | .stepAbort ring against => decide (ring < 4096) && orderOk against
  | .fenceDesc ring => decide (ring < 4096)
  | .mesh ring => decide (ring < 4096)
  | .macsecSa ring => decide (ring < 4096)
  | .roceQp ring => decide (ring < 4096)
  | .cancelBatch ring against => decide (ring < 4096) && orderOk against
  | .polderCreate ring => decide (ring < 4096)
  | .polderDestroy ring => decide (ring < 4096)
  | .powerHint ring => decide (ring < 4096)
  | .queryIdentity ring => decide (ring < 4096)
  | .queryCapacity ring => decide (ring < 4096)
  | .queryErrorLog ring => decide (ring < 4096)
  | .placementReport ring => decide (ring < 4096)
  | .placementSnapshot course station => decide (course < 2 ^ 32) && decide (station < 2 ^ 20)
  | .sqTail func page value => decide (func < 64) && decide (page < 4096) && decide (value < 2 ^ 64)
  | .cqHead func page value => decide (func < 64) && decide (page < 4096) && decide (value < 2 ^ 64)
  | .descFetch _ _ => true
  | .descFetchBusError _ _ => true
  | .completionRecordResume cq => decide (cq < 4096)
  | .courseReleaseHeld course => decide (course < 2 ^ 32)
  | .courseComplete course => decide (course < 2 ^ 32)
  | .commit func mask against => decide (func < 64) && decide (mask < 2 ^ 32) && orderOk against
  | .commitGroupApply func group => decide (func < 64) && decide (group < 32)
  | .featuresOk => true
  | .featuresEvaluate => true
  | .dmaHaltedClear _ unit ch _ => decide (unit < 144) && decide (ch < 32)
  | .sqHaltedClear ring => decide (ring < 4096)
  | .isolatedClear port => decide (port < 16)
  | .ilunyCapRelease => true
  | .regWrite func off _ value => decide (func < 64) && decide (off < 2 ^ 28) && decide (value < 2 ^ 64)
  | .debugWindowAccess _ off => decide (off < 2 ^ 28)
  | .resumeRestore => true
  | .resumeDiscard => true
  | .mirrorModeEnter => true
  | .pairDescForward func ring _ _ => decide (func < 64) && decide (ring < 4096)
  | .pairCommitForward group _ => decide (group < 32)
  | .tqNop core q word => decide (core < 144) && decide (q < 48) && decide (word < 2 ^ 32)
  | .tqDropRemainder core q word _ => decide (core < 144) && decide (q < 48) && decide (word < 2 ^ 32)
  | .tqReservedCommand core q word => decide (core < 144) && decide (q < 48) && decide (word < 2 ^ 32)
  | .tqHeaderWrite core q _ _ => decide (core < 144) && decide (q < 48)
  | .tqHeaderRead core q _ _ _ _ => decide (core < 144) && decide (q < 48)
  | .taskIssue o => o.wellFormed
  | .taskRetire j => decide (j < 2 ^ 19)
  | .journalEntryRetire j => decide (j < 2 ^ 19)
  | .taskReplay j engine core index => decide (j < 2 ^ 19) && decide (engine < 5) && decide (core < 144) && decide (index < 64)
  | .engineHang engine core index _ => decide (engine < 5) && decide (core < 144) && decide (index < 64)
  | .slabStart core me j _ _ => decide (core < 144) && decide (me < 12) && decide (j < 2 ^ 19)
  | .reachFold core me _ _ _ => decide (core < 144) && decide (me < 12)
  | .bankDrain core me _ _ _ => decide (core < 144) && decide (me < 12)
  | .stationMove course station core me ve _ _ _ _ => decide (course < 2 ^ 32) && decide (station < 2 ^ 20) && decide (core < 144) && decide (me < 2 ^ 12) && decide (ve < 2 ^ 5)
  | .stationThermalMove core target => decide (core < 144) && decide (target < 144)
  | .loadTask j _ => decide (j < 2 ^ 19)
  | .storeTask j => decide (j < 2 ^ 19)
  | .gatherTask j => decide (j < 2 ^ 19)
  | .scatterAccTask j => decide (j < 2 ^ 19)
  | .matmulTask j => decide (j < 2 ^ 19)
  | .spmmTask j _ _ => decide (j < 2 ^ 19)
  | .spmmTTask j _ _ => decide (j < 2 ^ 19)
  | .sddmmTask j => decide (j < 2 ^ 19)
  | .spspTask j _ _ => decide (j < 2 ^ 19)
  | .vecTask j => decide (j < 2 ^ 19)
  | .attendTask j => decide (j < 2 ^ 19)
  | .reduceTask j => decide (j < 2 ^ 19)
  | .exchangeInstance course station port die => decide (course < 2 ^ 32) && decide (station < 2 ^ 20) && decide (port < 16) && decide (die < 4)
  | .exchangeAccumulate course station port die => decide (course < 2 ^ 32) && decide (station < 2 ^ 20) && decide (port < 16) && decide (die < 4)
  | .routeDispatch j => decide (j < 2 ^ 19)
  | .routeCombine j => decide (j < 2 ^ 19)
  | .routeRedispatch j => decide (j < 2 ^ 19)
  | .updateTask j => decide (j < 2 ^ 19)
  | .clipTask j => decide (j < 2 ^ 19)
  | .histTask j => decide (j < 2 ^ 19)
  | .pruneTask j => decide (j < 2 ^ 19)
  | .regrowTask j => decide (j < 2 ^ 19)
  | .rngTask j => decide (j < 2 ^ 19)
  | .gaugeTask j => decide (j < 2 ^ 19)
  | .fenceStation course station => decide (course < 2 ^ 32) && decide (station < 2 ^ 20)
  | .probeRun course tensor => decide (course < 2 ^ 32) && decide (tensor < 2 ^ 24)
  | .veNop core ve ctx ins => decide (core < 144) && decide (ve < 4) && decide (ctx < 4) && ins.wellFormed
  | .veAdd core ve ctx ins => decide (core < 144) && decide (ve < 4) && decide (ctx < 4) && ins.wellFormed
  | .veSub core ve ctx ins => decide (core < 144) && decide (ve < 4) && decide (ctx < 4) && ins.wellFormed
  | .veMul core ve ctx ins => decide (core < 144) && decide (ve < 4) && decide (ctx < 4) && ins.wellFormed
  | .veFma core ve ctx ins => decide (core < 144) && decide (ve < 4) && decide (ctx < 4) && ins.wellFormed
  | .veMin core ve ctx ins => decide (core < 144) && decide (ve < 4) && decide (ctx < 4) && ins.wellFormed
  | .veMax core ve ctx ins => decide (core < 144) && decide (ve < 4) && decide (ctx < 4) && ins.wellFormed
  | .veCmp core ve ctx ins => decide (core < 144) && decide (ve < 4) && decide (ctx < 4) && ins.wellFormed
  | .veSel core ve ctx ins => decide (core < 144) && decide (ve < 4) && decide (ctx < 4) && ins.wellFormed
  | .veMovs core ve ctx ins => decide (core < 144) && decide (ve < 4) && decide (ctx < 4) && ins.wellFormed
  | .veSplit core ve ctx ins => decide (core < 144) && decide (ve < 4) && decide (ctx < 4) && ins.wellFormed
  | .veJoin core ve ctx ins => decide (core < 144) && decide (ve < 4) && decide (ctx < 4) && ins.wellFormed
  | .vePerm core ve ctx ins => decide (core < 144) && decide (ve < 4) && decide (ctx < 4) && ins.wellFormed
  | .veRed core ve ctx ins => decide (core < 144) && decide (ve < 4) && decide (ctx < 4) && ins.wellFormed
  | .veLdq core ve ctx ins => decide (core < 144) && decide (ve < 4) && decide (ctx < 4) && ins.wellFormed
  | .veStq core ve ctx ins => decide (core < 144) && decide (ve < 4) && decide (ctx < 4) && ins.wellFormed
  | .veRng core ve ctx ins => decide (core < 144) && decide (ve < 4) && decide (ctx < 4) && ins.wellFormed
  | .veRcp core ve ctx ins => decide (core < 144) && decide (ve < 4) && decide (ctx < 4) && ins.wellFormed
  | .veRsq core ve ctx ins => decide (core < 144) && decide (ve < 4) && decide (ctx < 4) && ins.wellFormed
  | .veExp core ve ctx ins => decide (core < 144) && decide (ve < 4) && decide (ctx < 4) && ins.wellFormed
  | .veLog core ve ctx ins => decide (core < 144) && decide (ve < 4) && decide (ctx < 4) && ins.wellFormed
  | .veTanh core ve ctx ins => decide (core < 144) && decide (ve < 4) && decide (ctx < 4) && ins.wellFormed
  | .veSigmoid core ve ctx ins => decide (core < 144) && decide (ve < 4) && decide (ctx < 4) && ins.wellFormed
  | .veSilu core ve ctx ins => decide (core < 144) && decide (ve < 4) && decide (ctx < 4) && ins.wellFormed
  | .veSiluD core ve ctx ins => decide (core < 144) && decide (ve < 4) && decide (ctx < 4) && ins.wellFormed
  | .veGeluSig core ve ctx ins => decide (core < 144) && decide (ve < 4) && decide (ctx < 4) && ins.wellFormed
  | .veGeluSigD core ve ctx ins => decide (core < 144) && decide (ve < 4) && decide (ctx < 4) && ins.wellFormed
  | .veGeluTanh core ve ctx ins => decide (core < 144) && decide (ve < 4) && decide (ctx < 4) && ins.wellFormed
  | .veGeluTanhD core ve ctx ins => decide (core < 144) && decide (ve < 4) && decide (ctx < 4) && ins.wellFormed
  | .dmaTransferDone j _ => decide (j < 2 ^ 19)
  | .dmaBusError j _ unit ch _ _ _ => decide (j < 2 ^ 19) && decide (unit < 144) && decide (ch < 32)
  | .spill course stream tile _ => decide (course < 2 ^ 32) && decide (stream < 2 ^ 20) && decide (tile < 2 ^ 40)
  | .stackReadReturn stack line _ _ => decide (stack < 32) && decide (line < 2 ^ 30)
  | .stackWrite stack line _ _ => decide (stack < 32) && decide (line < 2 ^ 30)
  | .healWrite stack => decide (stack < 32)
  | .scrubRead stack _ _ => decide (stack < 32)
  | .stackTrainingDone stack bin => decide (stack < 32) && decide (bin < 4)
  | .stackZeroingDone stack => decide (stack < 32)
  | .stackTempRead stack _ _ => decide (stack < 32)
  | .stackTempMissing stack => decide (stack < 32)
  | .leveeWindow _ _ _ => true
  | .sensorMissing sensor => decide (sensor < 32)
  | .telemetryMissing => true
  | .voltageAck die _ => decide (die < 4)
  | .railFault die => decide (die < 4)
  | .ilunyPowerRead _ => true
  | .thermalTrip _ unit _ => decide (unit < 32)
  | .coreIdleGEnter core => decide (core < 144)
  | .coreIdleGExit core => decide (core < 144)
  | .idleHoldExpire => true
  | .powerStateEnter target _ _ => decide (target < 8)
  | .wakeTlp _ => true
  | .wakePin _ => true
  | .wakeMacFrame port _ => decide (port < 16)
  | .wakeFrame port _ _ _ => decide (port < 16)
  | .powerStateExitDone => true
  | .powerExitTimeout => true
  | .heartbeatWrite => true
  | .heartbeatMissed => true
  | .takeoverComplete => true
  | .dnData port _ hdr _ _ => decide (port < 16) && hdr.wellFormed
  | .dnAck port _ hdr _ => decide (port < 16) && hdr.wellFormed
  | .dnNak port _ hdr psn _ => decide (port < 16) && hdr.wellFormed && decide (psn < 2 ^ 32)
  | .dnCredit port _ hdr _ _ => decide (port < 16) && hdr.wellFormed
  | .dnOpen port _ hdr version _ => decide (port < 16) && hdr.wellFormed && decide (version < 256)
  | .dnOpenAck port _ hdr version _ => decide (port < 16) && hdr.wellFormed && decide (version < 256)
  | .dnClose port _ hdr _ => decide (port < 16) && hdr.wellFormed
  | .netStepDone port _ hdr _ _ => decide (port < 16) && hdr.wellFormed
  | .netRepeat port _ hdr msg _ against => decide (port < 16) && hdr.wellFormed && msg.wellFormed && orderOk against
  | .netGiveUp port _ hdr msg _ => decide (port < 16) && hdr.wellFormed && msg.wellFormed
  | .exFetch port _ hdr key _ => decide (port < 16) && hdr.wellFormed && key.wellFormed
  | .exShip port _ hdr key _ => decide (port < 16) && hdr.wellFormed && key.wellFormed
  | .exAnswerEnd port _ hdr key _ => decide (port < 16) && hdr.wellFormed && key.wellFormed
  | .exCancel port _ hdr key _ => decide (port < 16) && hdr.wellFormed && key.wellFormed
  | .exDeny port _ hdr key _ => decide (port < 16) && hdr.wellFormed && key.wellFormed
  | .dnReply port _ hdr code psn _ => decide (port < 16) && hdr.wellFormed && decide (code < 256) && decide (psn < 2 ^ 32)
  | .dunnathViolation port _ hdr _ raw _ => decide (port < 16 ∧ raw.length ≤ 65527) && hdr.wellFormed
  | .violWindow => true
  | .retransmitTimeout _ psn => decide (psn < 2 ^ 32)
  | .ackTimer _ => true
  | .nakTimer _ => true
  | .stepTimeout course => decide (course < 2 ^ 32)
  | .roceWrite port _ qp psn _ _ _ _ _ => decide (port < 16) && decide (qp < 2 ^ 24) && decide (psn < 2 ^ 32)
  | .roceSend port _ qp psn _ _ _ => decide (port < 16) && decide (qp < 2 ^ 24) && decide (psn < 2 ^ 32)
  | .ethFrameDropped port drop => decide (port < 16 ∧ drop.sub < 8) && (match drop.tag with
    | some g => decide (g.sc < 64 ∧ g.an < 4 ∧ g.pn < 2 ^ 64)
    | none => true)
  | .portLinkUp port sub => decide (port < 16) && decide (sub < 8)
  | .portLinkDown port sub => decide (port < 16) && decide (sub < 8)
  | .ethRefclkLoss die _ => decide (die < 4)
  | .pairLinkLoss => true
  | .mgmtLinkLoss => true
  | .ideStreamFailure stream => decide (stream < 4)
  | .sagDetect => true
  | .freeboardSaveDone _ => true
  | .norCopy _ => true
  | .auxSupplyLoss => true
  | .ref25mLoss => true
  | .inputOvervoltage _ => true
  | .ilunyReady => true
  | .mainEnable => true
  | .mctpRestart _ => true
  | .perstAssert _ => true
  | .perstDeassert _ _ _ => true
  | .hotReset => true
  | .flrPf => true
  | .flrVf vf => decide (1 ≤ vf ∧ vf < 64)
  | .moduleMateLive _ _ => true
  | .getVersion conn => decide (conn < 2)
  | .getCapabilities conn => decide (conn < 2)
  | .negotiateAlgorithms conn _ => decide (conn < 2)
  | .getDigests conn => decide (conn < 2)
  | .getCertificate conn slot => decide (conn < 2) && decide (slot < 8)
  | .spdmChallenge conn slot => decide (conn < 2) && decide (slot < 8)
  | .getMeasurements conn index _ => decide (conn < 2) && decide (index < 256)
  | .keyExchange conn => decide (conn < 2)
  | .spdmFinish session => decide (session < 4)
  | .spdmHeartbeat session => decide (session < 4)
  | .keyUpdate session => decide (session < 4)
  | .endSession session => decide (session < 4)
  | .ideKm session stream _ => decide (session < 4) && decide (stream < 4)
  | .lifecycleTransition session _ _ => decide (session < 4)
  | .spdmUnsupported conn => decide (conn < 2)
  | .controlClusterFault => true
  | .hostEngineFault => true
  | .rocev2MalformedRequest port _ qp psn => decide (port < 16) && decide (qp < 2 ^ 24) && decide (psn < 2 ^ 32)
  | .mainInputReturn => true
  | .jtagInstruction _ => true

end Sys2Proof
end

