-- ==== Sys2Proof/Tests/Slice0.lean ====
section
/-! SUPPORT. Own tests: commands that are not well-formed, worked examples of the spec, and for every statement a concrete state
and operands that meet its hypotheses. -/

namespace Sys2Proof.Tests

open Sys2Proof Sys2Proof.Machine

set_option Elab.async false

/-! ## Well-formed commands -/

/-- A task order, ids and a contradicting order for the terms below. -/
def okOrder : TaskOrder := { course := 1, station := 0, tile := 0, engine := 0, core := 0, index := 0, slot := 0 }
def okKey : ExpertKey := { operand := 1, expert := 0, course := 1, station := 0 }
def okName : StepName := { func := 0, course := 1, step := 0, attempt := 0 }
def okRound : StepRound := { func := 0, course := 1, step := 0, attempt := 0, final := true }
def badOrder : Order := { stop := true, master := 5, requester := 0, ring := 0 }

/-- Each field of each operand structure beyond its width is refused. -/
theorem test_wf_structures :
    ([{ typ := 3 }, { vl := 0 }, { vl := 129 }, { d := 32 }, { a := 64 }, { b := 64 }, { c := 64 }, { msk := 8 },
      { imm := 2 ^ 19 }] : List VeIns).all (fun i => !i.wellFormed) = true ∧
    ([{ ver := 16 }, { attempt := 4 }, { channel := 64 }, { leg := 4 }, { session := 2 ^ 32 }, { psn := 2 ^ 32 },
      { ackPsn := 2 ^ 32 }, { credit := 2 ^ 16 }, { epoch := 2 ^ 16 }, { gen := 2 ^ 16 },
      { xctx := 2 ^ 64 }] : List DnHdr).all (fun h => !h.wellFormed) = true ∧
    ([{ okKey with operand := 2 ^ 24 }, { okKey with course := 2 ^ 32 }, { okKey with station := 2 ^ 20 }] : List ExpertKey).all
      (fun k => !k.wellFormed) = true ∧
    ([{ okName with func := 64 }, { okName with course := 2 ^ 32 }, { okName with step := 2 ^ 64 },
      { okName with attempt := 4 }] : List StepName).all (fun n => !n.wellFormed) = true ∧
    ([{ okOrder with course := 2 ^ 32 }, { okOrder with station := 2 ^ 20 }, { okOrder with tile := 2 ^ 40 },
      { okOrder with reachFirst := 2 ^ 32 }, { okOrder with reachCount := 2 ^ 32 }, { okOrder with engine := 5 },
      { okOrder with core := 144 }, { okOrder with index := 64 }, { okOrder with slot := 131072 }] : List TaskOrder).all
      (fun o => !o.wellFormed) = true ∧
    ([{ badOrder with master := 5 }, { badOrder with master := 4, requester := 2 ^ 32 },
      { badOrder with master := 4, ring := 4096 }] : List Order).all (fun o => !orderOk (some o)) = true := by decide

/-! Every row's check refuses a term with one operand out of its range. -/

theorem test_wf_refuses_0 : ([
    .courseSubmit { ring := 4096 }, .tensorDefine 4096 [] 0, .tensorRelease 4096, .tensorReleaseDeferred 16777216, .stepCommit 4096 none {},
    .stepCommit 0 (some badOrder) {}, .stepAbort 4096 none, .stepAbort 0 (some badOrder), .fenceDesc 4096, .mesh 4096,
    .macsecSa 4096, .roceQp 4096, .cancelBatch 4096 none, .cancelBatch 0 (some badOrder), .polderCreate 4096,
    .polderDestroy 4096, .powerHint 4096, .queryIdentity 4096, .queryCapacity 4096, .queryErrorLog 4096, .placementReport 4096,
    .placementSnapshot 4294967296 0, .placementSnapshot 0 1048576, .sqTail 64 0 0, .sqTail 0 4096 0, .sqTail 0 0 18446744073709551616, .cqHead 64 0 0,
    .cqHead 0 4096 0, .cqHead 0 0 18446744073709551616, .completionRecordResume 4096, .courseReleaseHeld 4294967296] : List Instr).all (fun c => !c.wellFormed) = true := by decide

theorem test_wf_refuses_1 : ([
    .courseComplete 4294967296, .commit 64 0 none, .commit 0 4294967296 none, .commit 0 0 (some badOrder),
    .commitGroupApply 64 0, .commitGroupApply 0 32, .dmaHaltedClear false 144 0 none, .dmaHaltedClear false 0 32 none,
    .sqHaltedClear 4096, .isolatedClear 16, .regWrite 64 0 0 0, .regWrite 0 268435456 0 0, .regWrite 0 0 0 18446744073709551616,
    .debugWindowAccess false 268435456, .pairDescForward 64 0 [] [], .pairDescForward 0 4096 [] [], .pairCommitForward 32 [],
    .tqNop 144 0 0, .tqNop 0 48 0, .tqNop 0 0 4294967296, .tqDropRemainder 144 0 0 false, .tqDropRemainder 0 48 0 false,
    .tqDropRemainder 0 0 4294967296 false, .tqReservedCommand 144 0 0, .tqReservedCommand 0 48 0,
    .tqReservedCommand 0 0 4294967296, .tqHeaderWrite 144 0 none [], .tqHeaderWrite 0 48 none [],
    .tqHeaderRead 144 0 0 [] none none, .tqHeaderRead 0 48 0 [] none none] : List Instr).all (fun c => !c.wellFormed) = true := by decide

theorem test_wf_refuses_2 : ([
    .taskIssue { okOrder with engine := 5 }, .taskRetire 524288, .journalEntryRetire 524288, .taskReplay 524288 0 0 0,
    .taskReplay 0 5 0 0, .taskReplay 0 0 144 0, .taskReplay 0 0 0 64, .engineHang 5 0 0 0, .engineHang 0 144 0 0,
    .engineHang 0 0 64 0, .slabStart 144 0 0 0 none, .slabStart 0 12 0 0 none, .slabStart 0 0 524288 0 none,
    .reachFold 144 0 false none 0, .reachFold 0 12 false none 0, .bankDrain 144 0 false none 0, .bankDrain 0 12 false none 0,
    .stationMove 4294967296 0 0 0 0 0 0 false [], .stationMove 0 1048576 0 0 0 0 0 false [],
    .stationMove 0 0 144 0 0 0 0 false [], .stationMove 0 0 0 4096 0 0 0 false [], .stationMove 0 0 0 0 32 0 0 false [],
    .stationThermalMove 144 0, .stationThermalMove 0 144, .loadTask 524288 [], .storeTask 524288, .gatherTask 524288,
    .scatterAccTask 524288, .matmulTask 524288, .spmmTask 524288 [] none] : List Instr).all (fun c => !c.wellFormed) = true := by decide

theorem test_wf_refuses_3 : ([
    .spmmTTask 524288 [] none, .sddmmTask 524288, .spspTask 524288 [] none, .vecTask 524288, .attendTask 524288,
    .reduceTask 524288, .exchangeInstance 4294967296 0 0 0, .exchangeInstance 0 1048576 0 0, .exchangeInstance 0 0 16 0,
    .exchangeInstance 0 0 0 4, .exchangeAccumulate 4294967296 0 0 0, .exchangeAccumulate 0 1048576 0 0,
    .exchangeAccumulate 0 0 16 0, .exchangeAccumulate 0 0 0 4, .routeDispatch 524288, .routeCombine 524288,
    .routeRedispatch 524288, .updateTask 524288, .clipTask 524288, .histTask 524288, .pruneTask 524288, .regrowTask 524288,
    .rngTask 524288, .gaugeTask 524288, .fenceStation 4294967296 0, .fenceStation 0 1048576, .probeRun 4294967296 0,
    .probeRun 0 16777216, .veNop 144 0 0 {}, .veNop 0 4 0 {}] : List Instr).all (fun c => !c.wellFormed) = true := by decide

theorem test_wf_refuses_4 : ([
    .veNop 0 0 4 {}, .veNop 0 0 0 { vl := 0 }, .veAdd 144 0 0 {}, .veAdd 0 4 0 {}, .veAdd 0 0 4 {}, .veAdd 0 0 0 { vl := 0 },
    .veSub 144 0 0 {}, .veSub 0 4 0 {}, .veSub 0 0 4 {}, .veSub 0 0 0 { vl := 0 }, .veMul 144 0 0 {}, .veMul 0 4 0 {},
    .veMul 0 0 4 {}, .veMul 0 0 0 { vl := 0 }, .veFma 144 0 0 {}, .veFma 0 4 0 {}, .veFma 0 0 4 {}, .veFma 0 0 0 { vl := 0 },
    .veMin 144 0 0 {}, .veMin 0 4 0 {}, .veMin 0 0 4 {}, .veMin 0 0 0 { vl := 0 }, .veMax 144 0 0 {}, .veMax 0 4 0 {},
    .veMax 0 0 4 {}, .veMax 0 0 0 { vl := 0 }, .veCmp 144 0 0 {}, .veCmp 0 4 0 {}, .veCmp 0 0 4 {}, .veCmp 0 0 0 { vl := 0 }] : List Instr).all (fun c => !c.wellFormed) = true := by decide

theorem test_wf_refuses_5 : ([
    .veSel 144 0 0 {}, .veSel 0 4 0 {}, .veSel 0 0 4 {}, .veSel 0 0 0 { vl := 0 }, .veMovs 144 0 0 {}, .veMovs 0 4 0 {},
    .veMovs 0 0 4 {}, .veMovs 0 0 0 { vl := 0 }, .veSplit 144 0 0 {}, .veSplit 0 4 0 {}, .veSplit 0 0 4 {},
    .veSplit 0 0 0 { vl := 0 }, .veJoin 144 0 0 {}, .veJoin 0 4 0 {}, .veJoin 0 0 4 {}, .veJoin 0 0 0 { vl := 0 },
    .vePerm 144 0 0 {}, .vePerm 0 4 0 {}, .vePerm 0 0 4 {}, .vePerm 0 0 0 { vl := 0 }, .veRed 144 0 0 {}, .veRed 0 4 0 {},
    .veRed 0 0 4 {}, .veRed 0 0 0 { vl := 0 }, .veLdq 144 0 0 {}, .veLdq 0 4 0 {}, .veLdq 0 0 4 {}, .veLdq 0 0 0 { vl := 0 },
    .veStq 144 0 0 {}, .veStq 0 4 0 {}] : List Instr).all (fun c => !c.wellFormed) = true := by decide

theorem test_wf_refuses_6 : ([
    .veStq 0 0 4 {}, .veStq 0 0 0 { vl := 0 }, .veRng 144 0 0 {}, .veRng 0 4 0 {}, .veRng 0 0 4 {}, .veRng 0 0 0 { vl := 0 },
    .veRcp 144 0 0 {}, .veRcp 0 4 0 {}, .veRcp 0 0 4 {}, .veRcp 0 0 0 { vl := 0 }, .veRsq 144 0 0 {}, .veRsq 0 4 0 {},
    .veRsq 0 0 4 {}, .veRsq 0 0 0 { vl := 0 }, .veExp 144 0 0 {}, .veExp 0 4 0 {}, .veExp 0 0 4 {}, .veExp 0 0 0 { vl := 0 },
    .veLog 144 0 0 {}, .veLog 0 4 0 {}, .veLog 0 0 4 {}, .veLog 0 0 0 { vl := 0 }, .veTanh 144 0 0 {}, .veTanh 0 4 0 {},
    .veTanh 0 0 4 {}, .veTanh 0 0 0 { vl := 0 }, .veSigmoid 144 0 0 {}, .veSigmoid 0 4 0 {}, .veSigmoid 0 0 4 {},
    .veSigmoid 0 0 0 { vl := 0 }] : List Instr).all (fun c => !c.wellFormed) = true := by decide

theorem test_wf_refuses_7 : ([
    .veSilu 144 0 0 {}, .veSilu 0 4 0 {}, .veSilu 0 0 4 {}, .veSilu 0 0 0 { vl := 0 }, .veSiluD 144 0 0 {}, .veSiluD 0 4 0 {},
    .veSiluD 0 0 4 {}, .veSiluD 0 0 0 { vl := 0 }, .veGeluSig 144 0 0 {}, .veGeluSig 0 4 0 {}, .veGeluSig 0 0 4 {},
    .veGeluSig 0 0 0 { vl := 0 }, .veGeluSigD 144 0 0 {}, .veGeluSigD 0 4 0 {}, .veGeluSigD 0 0 4 {},
    .veGeluSigD 0 0 0 { vl := 0 }, .veGeluTanh 144 0 0 {}, .veGeluTanh 0 4 0 {}, .veGeluTanh 0 0 4 {},
    .veGeluTanh 0 0 0 { vl := 0 }, .veGeluTanhD 144 0 0 {}, .veGeluTanhD 0 4 0 {}, .veGeluTanhD 0 0 4 {},
    .veGeluTanhD 0 0 0 { vl := 0 }, .dmaTransferDone 524288 0, .dmaBusError 524288 false 0 0 0 false 0,
    .dmaBusError 0 false 144 0 0 false 0, .dmaBusError 0 false 0 32 0 false 0, .spill 4294967296 0 0 {}, .spill 0 1048576 0 {}] : List Instr).all (fun c => !c.wellFormed) = true := by decide

theorem test_wf_refuses_8 : ([
    .spill 0 0 1099511627776 {}, .stackReadReturn 32 0 [] none, .stackReadReturn 0 1073741824 [] none,
    .stackWrite 32 0 [] false, .stackWrite 0 1073741824 [] false, .healWrite 32, .scrubRead 32 [] 0, .stackTrainingDone 32 0,
    .stackTrainingDone 0 4, .stackZeroingDone 32, .stackTempRead 32 0 0, .stackTempMissing 32, .sensorMissing 32,
    .voltageAck 4 0, .railFault 4, .thermalTrip false 32 0, .coreIdleGEnter 144, .coreIdleGExit 144,
    .powerStateEnter 8 false none, .wakeMacFrame 16 false, .wakeFrame 16 false [] false, .dnData 16 0 {} .ack false,
    .dnData 0 0 { ver := 16 } .ack false, .dnAck 16 0 {} false, .dnAck 0 0 { ver := 16 } false, .dnNak 16 0 {} 0 false,
    .dnNak 0 0 { ver := 16 } 0 false, .dnNak 0 0 {} 4294967296 false, .dnCredit 16 0 {} none false,
    .dnCredit 0 0 { ver := 16 } none false] : List Instr).all (fun c => !c.wellFormed) = true := by decide

theorem test_wf_refuses_9 : ([
    .dnOpen 16 0 {} 0 false, .dnOpen 0 0 { ver := 16 } 0 false, .dnOpen 0 0 {} 256 false, .dnOpenAck 16 0 {} 0 false,
    .dnOpenAck 0 0 { ver := 16 } 0 false, .dnOpenAck 0 0 {} 256 false, .dnClose 16 0 {} false, .dnClose 0 0 { ver := 16 } false,
    .netStepDone 16 0 {} okRound false, .netStepDone 0 0 { ver := 16 } okRound false, .netRepeat 16 0 {} okName false none,
    .netRepeat 0 0 { ver := 16 } okName false none, .netRepeat 0 0 {} { okName with func := 64 } false none,
    .netRepeat 0 0 {} okName false (some badOrder), .netGiveUp 16 0 {} okName false, .netGiveUp 0 0 { ver := 16 } okName false,
    .netGiveUp 0 0 {} { okName with func := 64 } false, .exFetch 16 0 {} okKey false, .exFetch 0 0 { ver := 16 } okKey false,
    .exFetch 0 0 {} { okKey with station := 2 ^ 20 } false, .exShip 16 0 {} okKey false, .exShip 0 0 { ver := 16 } okKey false,
    .exShip 0 0 {} { okKey with station := 2 ^ 20 } false, .exAnswerEnd 16 0 {} okKey false,
    .exAnswerEnd 0 0 { ver := 16 } okKey false, .exAnswerEnd 0 0 {} { okKey with station := 2 ^ 20 } false,
    .exCancel 16 0 {} okKey false, .exCancel 0 0 { ver := 16 } okKey false,
    .exCancel 0 0 {} { okKey with station := 2 ^ 20 } false,
    .exDeny 16 0 {} okKey false] : List Instr).all (fun c => !c.wellFormed) = true := by decide

theorem test_wf_refuses_10 : ([
    .exDeny 0 0 { ver := 16 } okKey false, .exDeny 0 0 {} { okKey with station := 2 ^ 20 } false, .dnReply 16 0 {} 0 0 false,
    .dnReply 0 0 { ver := 16 } 0 0 false, .dnReply 0 0 {} 256 0 false, .dnReply 0 0 {} 0 4294967296 false,
    .dunnathViolation 16 0 {} .ack [] false, .dunnathViolation 0 0 { ver := 16 } .ack [] false,
    .ethFrameDropped 0 { sub := 8 }, .ethFrameDropped 0 { tag := some ⟨64, 0, 0, true⟩ },
    .retransmitTimeout 0 4294967296, .stepTimeout 4294967296, .roceWrite 16 0 0 0 0 0 0 [] false,
    .roceWrite 0 0 16777216 0 0 0 0 [] false, .roceWrite 0 0 0 4294967296 0 0 0 [] false, .roceSend 16 0 0 0 0 [] false,
    .roceSend 0 0 16777216 0 0 [] false, .roceSend 0 0 0 4294967296 0 [] false, .ethFrameDropped 16 {}, .portLinkUp 16 0,
    .portLinkUp 0 8, .portLinkDown 16 0, .portLinkDown 0 8, .ethRefclkLoss 4 false, .ideStreamFailure 4, .flrVf 0, .flrVf 64,
    .getVersion 2, .getCapabilities 2, .negotiateAlgorithms 2 false, .getDigests 2, .getCertificate 2 0] : List Instr).all (fun c => !c.wellFormed) = true := by decide

theorem test_wf_refuses_11 : ([
    .getCertificate 0 8, .spdmChallenge 2 0, .spdmChallenge 0 8, .getMeasurements 2 0 false, .getMeasurements 0 256 false,
    .keyExchange 2, .spdmFinish 4, .spdmHeartbeat 4, .keyUpdate 4, .endSession 4, .ideKm 4 0 [], .ideKm 0 4 [],
    .lifecycleTransition 4 false false, .spdmUnsupported 2, .rocev2MalformedRequest 16 0 0 0,
    .rocev2MalformedRequest 0 0 16777216 0, .rocev2MalformedRequest 0 0 0 4294967296] : List Instr).all (fun c => !c.wellFormed) = true := by decide

/-! A term of every row is well-formed. -/

theorem test_wf_admits_0 : ([
    .courseSubmit { ring := 0 }, .tensorDefine 0 [] 0, .tensorRelease 0, .tensorReleaseDeferred 0, .stepCommit 0 none {}, .stepAbort 0 none,
    .fenceDesc 0, .mesh 0, .macsecSa 0, .roceQp 0, .cancelBatch 0 none, .polderCreate 0, .polderDestroy 0, .powerHint 0,
    .queryIdentity 0, .queryCapacity 0, .queryErrorLog 0, .placementReport 0, .placementSnapshot 0 0, .sqTail 0 0 0,
    .cqHead 0 0 0, .descFetch [] [], .descFetchBusError 0 none, .completionRecordResume 0, .courseReleaseHeld 0,
    .courseComplete 0, .commit 0 0 none, .commitGroupApply 0 0, .featuresOk, .featuresEvaluate] : List Instr).all (fun c => c.wellFormed) = true := by decide

theorem test_wf_admits_1 : ([
    .dmaHaltedClear false 0 0 none, .sqHaltedClear 0, .isolatedClear 0, .ilunyCapRelease, .regWrite 0 0 0 0,
    .debugWindowAccess false 0, .resumeRestore, .resumeDiscard, .mirrorModeEnter, .pairDescForward 0 0 [] [],
    .pairCommitForward 0 [], .tqNop 0 0 0, .tqDropRemainder 0 0 0 false, .tqReservedCommand 0 0 0, .tqHeaderWrite 0 0 none [],
    .tqHeaderRead 0 0 0 [] none none, .taskIssue okOrder, .taskRetire 0, .journalEntryRetire 0, .taskReplay 0 0 0 0,
    .engineHang 0 0 0 0, .slabStart 0 0 0 0 none, .reachFold 0 0 false none 0, .bankDrain 0 0 false none 0,
    .stationMove 0 0 0 0 0 0 0 false [], .stationThermalMove 0 0, .loadTask 0 [], .storeTask 0, .gatherTask 0,
    .scatterAccTask 0] : List Instr).all (fun c => c.wellFormed) = true := by decide

theorem test_wf_admits_2 : ([
    .matmulTask 0, .spmmTask 0 [] none, .spmmTTask 0 [] none, .sddmmTask 0, .spspTask 0 [] none, .vecTask 0, .attendTask 0,
    .reduceTask 0, .exchangeInstance 0 0 0 0, .exchangeAccumulate 0 0 0 0, .routeDispatch 0, .routeCombine 0,
    .routeRedispatch 0, .updateTask 0, .clipTask 0, .histTask 0, .pruneTask 0, .regrowTask 0, .rngTask 0, .gaugeTask 0,
    .fenceStation 0 0, .probeRun 0 0, .veNop 0 0 0 {}, .veAdd 0 0 0 {}, .veSub 0 0 0 {}, .veMul 0 0 0 {}, .veFma 0 0 0 {},
    .veMin 0 0 0 {}, .veMax 0 0 0 {}, .veCmp 0 0 0 {}] : List Instr).all (fun c => c.wellFormed) = true := by decide

theorem test_wf_admits_3 : ([
    .veSel 0 0 0 {}, .veMovs 0 0 0 {}, .veSplit 0 0 0 {}, .veJoin 0 0 0 {}, .vePerm 0 0 0 {}, .veRed 0 0 0 {}, .veLdq 0 0 0 {},
    .veStq 0 0 0 {}, .veRng 0 0 0 {}, .veRcp 0 0 0 {}, .veRsq 0 0 0 {}, .veExp 0 0 0 {}, .veLog 0 0 0 {}, .veTanh 0 0 0 {},
    .veSigmoid 0 0 0 {}, .veSilu 0 0 0 {}, .veSiluD 0 0 0 {}, .veGeluSig 0 0 0 {}, .veGeluSigD 0 0 0 {}, .veGeluTanh 0 0 0 {},
    .veGeluTanhD 0 0 0 {}, .dmaTransferDone 0 0, .dmaBusError 0 false 0 0 0 false 0, .spill 0 0 0 {},
    .stackReadReturn 0 0 [] none, .stackWrite 0 0 [] false, .healWrite 0, .scrubRead 0 [] 0, .stackTrainingDone 0 0,
    .stackZeroingDone 0] : List Instr).all (fun c => c.wellFormed) = true := by decide

theorem test_wf_admits_4 : ([
    .stackTempRead 0 0 0, .stackTempMissing 0, .leveeWindow none [] [], .sensorMissing 0, .telemetryMissing, .voltageAck 0 0,
    .railFault 0, .ilunyPowerRead ⟨0, 0⟩, .thermalTrip false 0 0, .coreIdleGEnter 0, .coreIdleGExit 0, .idleHoldExpire,
    .powerStateEnter 0 false none, .wakeTlp false, .wakePin false, .wakeMacFrame 0 false, .wakeFrame 0 false [] false,
    .powerStateExitDone, .powerExitTimeout, .heartbeatWrite, .heartbeatMissed, .takeoverComplete, .dnData 0 0 {} .ack false,
    .dnAck 0 0 {} false, .dnNak 0 0 {} 0 false, .dnCredit 0 0 {} none false, .dnOpen 0 0 {} 0 false, .dnOpenAck 0 0 {} 0 false,
    .dnClose 0 0 {} false, .netStepDone 0 0 {} okRound false] : List Instr).all (fun c => c.wellFormed) = true := by decide

theorem test_wf_admits_5 : ([
    .netRepeat 0 0 {} okName false none, .netGiveUp 0 0 {} okName false, .exFetch 0 0 {} okKey false,
    .exShip 0 0 {} okKey false, .exAnswerEnd 0 0 {} okKey false, .exCancel 0 0 {} okKey false, .exDeny 0 0 {} okKey false,
    .dnReply 0 0 {} 0 0 false, .dunnathViolation 0 0 {} .ack [] false, .violWindow, .retransmitTimeout 0 0, .ackTimer 0,
    .nakTimer 0, .stepTimeout 0, .roceWrite 0 0 0 0 0 0 0 [] false, .roceSend 0 0 0 0 0 [] false, .ethFrameDropped 0 {},
    .portLinkUp 0 0, .portLinkDown 0 0, .ethRefclkLoss 0 false, .pairLinkLoss, .mgmtLinkLoss, .ideStreamFailure 0, .sagDetect,
    .freeboardSaveDone false, .norCopy false, .auxSupplyLoss, .ref25mLoss, .inputOvervoltage false, .ilunyReady] : List Instr).all (fun c => c.wellFormed) = true := by decide

theorem test_wf_admits_6 : ([
    .mainEnable, .mctpRestart false, .perstAssert 0, .perstDeassert false 0 false, .hotReset, .flrPf, .flrVf 1,
    .moduleMateLive false false, .getVersion 0, .getCapabilities 0, .negotiateAlgorithms 0 false, .getDigests 0,
    .getCertificate 0 0, .spdmChallenge 0 0, .getMeasurements 0 0 false, .keyExchange 0, .spdmFinish 0, .spdmHeartbeat 0,
    .keyUpdate 0, .endSession 0, .ideKm 0 0 [], .lifecycleTransition 0 false false, .spdmUnsupported 0, .controlClusterFault,
    .hostEngineFault, .rocev2MalformedRequest 0 0 0 0, .mainInputReturn, .jtagInstruction .idcode] : List Instr).all (fun c => c.wellFormed) = true := by decide

/-! ## States for the witnesses -/

/-- The state of an outcome. -/
def nx (o : Host.Outcome State Fault Refusal) : State := match o with
  | .next t => t
  | _ => State.reset

/-- A descriptor of the PF's ring 0 of a type, with fields (offset, bytes, value). -/
def mkDesc (seq ty : Nat) (fields : List (Nat × Nat × Nat)) (blocks : List (List Byte) := []) : Desc :=
  { seq := seq, func := 0, ring := 0, blocks := blocks
    bytes := fields.foldl (fun (b : List Byte) f => b.take f.1 ++ toLe f.2.1 f.2.2 ++ b.drop (f.1 + f.2.1)) (toLe 128 ty) }

/-- Submission ring 0 and completion ring 0 are enabled with 16 entries each, and ring 0 has three descriptors to fetch. -/
def up : State :=
  ((State.reset.setReg ⟨.sqCtl, 0, 0⟩ 0x80000004).setReg ⟨.cqCtl, 0, 0⟩ 0x80000004).setSq 0 { tail := 3 }

/-- The same with descriptors in flight. -/
def flying (ds : List Desc) : State := { up with host := { up.host with inflight := ds, nextSeq := 8 } }

/-- The features of a set are confirmed. -/
def confirmed (s : State) (w : Nat) : State :=
  (s.setReg ⟨.featuresCtl, 0, 0⟩ 3).setReg ⟨.drvFeatures, 0, 0⟩ (BitVec.ofNat 64 w)

/-! ## Witnesses of the host interface -/

theorem wit_StepRunsFrontCommand :
    step { State.reset with pending := [.violWindow, .tqNop 0 0 0] } = exec .violWindow { State.reset with pending := [.tqNop 0 0 0] } :=
  rfl

theorem wit_EveryCommandIsAnswered_idle : State.reset.pending = [] := rfl

theorem wit_Completions_open : (mkDesc 1 6 []).forwarded = false ∧ up.ringOpen ((mkDesc 1 6 []).record 0).ring = true := by
  decide +kernel

theorem wit_Completions_held : (mkDesc 1 6 []).forwarded = false ∧
    State.reset.ringOpen ((mkDesc 1 6 []).record 0).ring = false := by decide +kernel

theorem wit_Completions_fence_waits :
    let f := mkDesc 2 6 []
    (flying [mkDesc 1 1 [], f]).host.inflight.find? (fun d => d.ring = 0 && d.ty = 0x06) = some f ∧
      ∃ d ∈ (flying [mkDesc 1 1 [], f]).host.inflight, d.seq < f.seq ∧ up.inScope f d = true := by decide +kernel

theorem wit_Completions_fence_completes :
    let f := mkDesc 1 6 []
    (flying [f, mkDesc 2 1 []]).host.inflight.find? (fun d => d.ring = 0 && d.ty = 0x06) = some f ∧
      ∀ d ∈ (flying [f, mkDesc 2 1 []]).host.inflight, up.inScope f d = true → f.seq ≤ d.seq := by decide +kernel

theorem wit_Completions_hint : (flying [mkDesc 1 8 [(16, 4, 700)]]).dueDesc 0 0x08 = some (mkDesc 1 8 [(16, 4, 700)]) := by
  decide +kernel

theorem wit_Completions_resume :
    let r := (mkDesc 1 6 []).record 0
    let s := up.setCq 0 { held := [r] }
    (s.cq 0).held = [r] ∧ s.cqEnabled 0 = true ∧ s.cqFull 0 = false ∧ s.cqOf r.ring = 0 := by decide +kernel

theorem wit_Doorbells : up.hostLink = true ∧ up.pageRing 0 0 = some 0 ∧ up.tailOk 0 (0x50003 % 2 ^ 16) = true ∧
    up.tailOk 0 (16 % 2 ^ 16) = false ∧ (up.setCq 0 { tail := 2 }).headOk 0 (2 % 2 ^ 16) = true ∧
    up.headOk 0 (1 % 2 ^ 16) = false := by decide +kernel

theorem wit_Turns : FMap.wf (fun _ => ({} : SqRun)) up.host.sq = true ∧ up.nextRing = some 0 := by decide +kernel

theorem wit_BusErrors : up.nextRing = some 0 ∧ up.hostLink = true ∧ up.stagedOf (up.ringFunc 0) = none := by decide +kernel

/-- A FENCE that passes the structural checks, and a descriptor of a reserved type. -/
def fenceBytes : List Byte := (mkDesc 0 6 []).bytes
theorem wit_Fetch : up.nextRing = some 0 ∧ up.malformed (up.fetched 0 fenceBytes []) = none ∧
    up.malformed (up.fetched 0 (mkDesc 0 0x0B []).bytes []) = some 1 ∧ up.host.deviceFault = none ∧
    (up.mirror && up.pkg == .b) = false := by decide +kernel

theorem wit_Fetch_fault : { up with host := { up.host with deviceFault := some 6 } }.nextRing = some 0 ∧
    (up.fetched 0 fenceBytes []).ty ≠ 0x09 ∧ (up.fetched 0 (mkDesc 0 9 [(24, 8, 64), (32, 4, 64)]).bytes []).ty = 0x09 ∧
    up.malformed (up.fetched 0 (mkDesc 0 9 [(24, 8, 64), (32, 4, 64)]).bytes []) = none := by decide +kernel

theorem wit_Fetch_mirror : let s := { (up.setReg ⟨.pairStat, 0, 0⟩ 0x80000000) with pkg := .b, part := .cn4p64 }
    s.nextRing = some 0 ∧ s.malformed (s.fetched 0 fenceBytes []) = none ∧ (s.mirror && s.pkg == .b) = true := by
  decide +kernel

/-! ## Witnesses of registers, features and commits -/

theorem wit_OffsetsAndHalves_offsets : pfRegAt .cn4b32 0x40000 = some (⟨.sqBase, 0, 0⟩, .whole) ∧
    pfRegAt .cn1b08 0x11F062F = none ∧ pfRegAt .cn1b08 0x40010 = some (⟨.sqCtl, 0, 0⟩, .whole) := by decide +kernel

theorem wit_OffsetsAndHalves_halves : State.reset.hostLink = true ∧ State.reset.stagedOf 0 = none ∧ 0x40000 % 8 = 0 ∧
    msixKey 0 0x40000 = none ∧ msixKey 0 0x40004 = none ∧ msixPending 0 0x40000 = false ∧ msixPending 0 0x40004 = false ∧
    State.reset.regAt 0 0x40000 = some (⟨.sqBase, 0, 0⟩, .whole) ∧ State.reset.regAt 0 0x40004 = some (⟨.sqBase, 0, 0⟩, .high) ∧
    RegKind.sqBase.wide = true ∧ RegKind.sqBase.writable = true ∧ State.reset.inRetiredCore ⟨.sqBase, 0, 0⟩ = false := by
  decide +kernel

theorem wit_Writes_committed : State.reset.regAt 0 0x1010040 = some (⟨.leveeCtl, 0, 0⟩, .whole) ∧
    RegKind.leveeCtl.group.isSome = true ∧ msixKey 0 0x1010040 = none ∧ msixPending 0 0x1010040 = false ∧
    0x1010040 % (if RegKind.leveeCtl.wide then 8 else 4) = 0 := by decide +kernel

theorem wit_Writes_bad : 5 ≠ 4 ∧ 5 ≠ 8 ∧ 0x1010042 % 4 ≠ 0 ∧
    (msixKey 0 0x3F000 = none ∧ msixPending 0 0x3F000 = false ∧ State.reset.regAt 0 0x3F000 = none) ∧
    (State.reset.regAt 0 0 = some (⟨.identity, 0, 0⟩, .whole) ∧ RegKind.identity.writable = false ∧
      State.reset.inRetiredCore ⟨.identity, 0, 0⟩ = false) := by decide +kernel

theorem wit_Writes_mirror : let s := { State.reset.setReg ⟨.pairStat, 0, 0⟩ 0x80000000 with pkg := .b, part := .cn4p64 }
    s.mirror = true ∧ s.pkg = .b ∧ 2 ∈ [1, 2, 3, 4, 6, 8] := by decide +kernel

/-- Group 2 with a level in the shadow copy of LEVEE_CTL, as a commit finds it. -/
def levelled : State := State.reset.setShadow ⟨.leveeCtl, 0, 0⟩ 0xEB695F54

theorem wit_Commit_waits : levelled.pendCommit 0 = none ∧ maskBits (4 % 2 ^ 32) = [2] ∧
    levelled.commitCheck 0 [2] (levelled.snapshot 0 [2]) = none ∧ levelled.commitBusy 0 [2] = [] ∧
    levelled.hostLink = true ∧ levelled.stagedOf 0 = none := by decide +kernel

theorem wit_Commit_refused : maskBits (2 ^ 31 % 2 ^ 32) = [31] ∧
    levelled.commitCheck 0 [31] (levelled.snapshot 0 [31]) = some (1, 31) := by decide +kernel

theorem wit_Commit_busy : let s := confirmed up 0
    s.pendCommit 0 = none ∧ s.commitCheck 0 [0] (s.snapshot 0 [0]) = none ∧ (s.commitBusy 0 [0]).length = 2 := by decide +kernel

theorem wit_Commit_dropped : (levelled.setPend 0 (some { groups := [2], snap := [] })).pendCommit 0 ≠ none := by decide +kernel

theorem wit_Commit_beaten : let m := levelled.commitOrder 0 [2] (levelled.snapshot 0 [2])
    beatenBy m (some { stop := true, master := 3, requester := 1, ring := 0 }) = some 1 ∧
      beatenBy m (some { stop := false, master := 3, requester := 1, ring := 0 }) = none := by decide +kernel

theorem wit_Conflict : let ws := [0x84, 0, 0, 0, 0, 0, 0, 0]
    featureBit ws 2 = true ∧ featureBit ws 7 = true ∧
      ∀ b, b < 256 → featureBit ws b = true → (offeredFeatures .cn4p64).testBit b = true := by decide +kernel

theorem wit_Features : State.reset.featuresConfirmed = false ∧ (confirmed State.reset 0).featuresConfirmed = true ∧
    featureFault .cn4b32 [0x0B, 0, 0, 0, 0, 0, 0, 0] = none := by decide +kernel

theorem wit_Latches : State.reset.hostLink = true ∧ State.reset.stagedOf 0 = none ∧ State.reset.stagedOf (State.reset.ringFunc 7) = none ∧
    State.reset.secure.lifecycle = 2 := by decide +kernel

/-! ## Witnesses of tensors, courses and queries -/

/-- Bytes of a structure of some length, with fields (offset, bytes, value). -/
def block (n : Nat) (fields : List (Nat × Nat × Nat)) : List Byte :=
  fields.foldl (fun (b : List Byte) f => b.take f.1 ++ toLe f.2.1 f.2.2 ++ b.drop (f.1 + f.2.1)) (List.replicate n 0)

/-- A description of a 100 × 70 FP32 tensor with an id and a generation policy. -/
def descOf (id policy : Nat) : List Byte := block 128 [(0, 3, id), (4, 1, 2), (9, 1, policy), (16, 8, 100), (24, 8, 70)]

/-- A CN1-B08 whose stacks are zeroed, with ring 0 enabled and some descriptors in flight. -/
def zeroed (ds : List Desc) : State :=
  { flying ds with part := .cn1b08, stackTab := (List.range 8).map (fun n => (n, { trained := true, zeroed := true })) }

/-- A TENSOR_DEFINE of tensor 5, and one that is broken. -/
def defineDesc : Desc := mkDesc 1 2 [(16, 8, 64)] [descOf 5 1]
def defineBad : Desc := mkDesc 1 2 [(16, 8, 64)] [descOf 0 1]
def defineView (base : Nat) : Desc := mkDesc 1 2 [(16, 8, 64), (64, 8, 64)] [descOf 5 1, block 72 [(0, 3, base)]]

theorem wit_Define_ready : (zeroed [defineDesc]).dueDesc 0 0x02 = some defineDesc ∧ (zeroed [defineDesc]).stacksReady = true := by
  decide +kernel

theorem wit_Define_checks : let s := zeroed []
    (s.descChecks 0 (defineBad.block 0) (parseDesc (defineBad.block 0) 0)).find? (fun c => c.1) = some (true, 9) ∧
      (s.descChecks 0 (defineDesc.block 0) (parseDesc (defineDesc.block 0) 0)).all (fun c => !c.1) = true := by decide +kernel

theorem wit_Define_view : let s := zeroed []
    let td := parseDesc ((defineView 9).block 0) 0
    (s.descChecks 0 ((defineView 9).block 0) td).all (fun c => !c.1) = true ∧
      s.viewDenied 0 td (parseView ((defineView 9).block 1)) = some 1 := by decide +kernel

theorem wit_Define_nospace : let s := (zeroed []).setTensor 7 (some { bytes := 412249751000 })
    s.freeBytes < s.homeOf (parseDesc (descOf 5 1) 0) [0, 1] false := by decide +kernel

theorem wit_Define_accepts : let s := zeroed []
    let td := parseDesc (descOf 5 1) 0
    s.homeOf td [0, 1] false = 65536 ∧ 65536 ≤ s.freeBytes ∧ s.placeOk (newTensor 0 td none [0, 1] 0x800000 65536) = true ∧
      s.sysChannelsHalted = false := by
  decide +kernel

/-- Tensors 1 and 2 of the PF, 100 × 70 FP32. -/
def held (s : State) : State :=
  (s.setTensor 1 (some { desc := parseDesc (descOf 1 1) 0 })).setTensor 2 (some { desc := parseDesc (descOf 2 1) 0 })

/-- A course that copies tensor 1 into tensor 2: LOAD, STORE and the stream between them. -/
def copyCourse (id seq : Nat) : Desc := mkDesc seq 1 [(16, 8, 64)]
  [block 64 [(0, 4, id), (4, 4, 2), (8, 4, 1), (12, 1, 12)],
   block 32 [(4, 1, 1), (6, 1, 1), (10, 2, 40)] ++ block 32 [(0, 4, 1), (4, 1, 2), (5, 1, 1), (10, 2, 24)],
   block 32 [(8, 4, 1), (12, 3, 2)], block 40 [(4, 3, 1), (8, 3, 0xFAC688)], block 24 []]

/-- The course as submitted, held without contexts. -/
def copying (id seq : Nat) : Course := { (readCourse (copyCourse id seq)).course with desc := { copyCourse id seq with acted := true } }

/-- The same running, of tensors 1 and 2. -/
def running (id seq : Nat) : Course := { copying id seq with ctx := true, started := true }

theorem wit_Release_defers : let s := { held (flying [mkDesc 1 3 [(16, 3, 2)]]) with courses := [running 3 0] }
    s.dueDesc 0 0x03 = some (mkDesc 1 3 [(16, 3, 2)]) ∧ (s.usable 0 2).isSome = true ∧ s.namedByCourse 2 = true := by
  decide +kernel

theorem wit_Release_frees : let s := held (flying [mkDesc 1 3 [(16, 3, 2)]])
    (s.usable 0 2).isSome = true ∧ s.releaseHeld 2 = false ∧ s.usable 0 3 = none := by decide +kernel

theorem wit_Release_deferred : let t : Tensor := { releasing := some (mkDesc 1 3 [(16, 3, 2)]) }
    ((held up).setTensor 2 (some t)).tensor 2 = some t ∧ ((held up).setTensor 2 (some t)).releaseHeld 2 = false ∧
      ({ (held up).setTensor 2 (some t) with courses := [running 3 0] } : State).releaseHeld 2 = true := by decide +kernel

theorem wit_Courses_accepts : let s := held (flying [copyCourse 3 1])
    s.dueDesc 0 0x01 = some (copyCourse 3 1) ∧ s.countsBad (fitBytes 64 ((copyCourse 3 1).block 0)) = false ∧
      s.refusal 0 (readCourse (copyCourse 3 1)) = none ∧ s.ringOpen 0 = true := by decide +kernel

theorem wit_Courses_beaten : let d := copyCourse 3 1
    (flying [d]).dueDesc 0 0x01 = some d ∧
      beatenBy (d.order false 0) (some { stop := true, master := 3, requester := 1, ring := 0 }) = some 1 := by decide +kernel

theorem wit_Courses_refuses : let s := flying []
    s.countsBad (fitBytes 64 []) = true ∧ s.refusal 0 (readCourse (copyCourse 3 1)) = some (2, 0x15, 2 ^ 31) := by
  decide +kernel

theorem wit_Courses_starts : let s := { held up with courses := [copying 3 1] }
    s.course 3 = some (copying 3 1) ∧ (copying 3 1).started = false ∧
      (s.setCourse (s.grantCtx (copying 3 1))).mayStart (s.grantCtx (copying 3 1)) false = true := by decide +kernel

theorem wit_Courses_waits : let s := { held up with courses := [running 2 0, copying 3 1] }
    (s.setCourse (s.grantCtx (copying 3 1))).mayStart (s.grantCtx (copying 3 1)) false = false ∧
      (s.setCourse (s.grantCtx (copying 3 1))).failsAtOnce (s.grantCtx (copying 3 1)) = false := by decide +kernel

theorem wit_Courses_failed :
    let c := { copying 3 1 with stepMode := true, step := 4 }
    let s := { held up with courses := [c], steps := [(0, { state := .failed, step := 4 })] }
    (s.setCourse (s.grantCtx c)).mayStart (s.grantCtx c) false = true ∧ (s.stepM 0).state = .failed := by decide +kernel

theorem wit_Queries : ∀ k, k < 3 →
    let d := mkDesc 1 9 [(16, 1, k), (24, 8, 64), (32, 4, 64)]
    (flying [d]).dueDesc 0 0x09 = some d ∧ d.field 16 1 = k ∧ d.field 32 4 = 64 ∧ ((flying [d]).errorLog 0).length = 64 ∧
      ((flying [d]).capacity 0).length = 64 := by decide +kernel

theorem wit_Queries_short : let d := mkDesc 1 9 [(16, 1, 2), (24, 8, 64), (32, 4, 64)]
    ¬ (((flying [d]).logFor 0x0001 0 0 0).errorLog 0).length ≤ d.field 32 4 := by decide +kernel

theorem wit_Reports : let d := mkDesc 1 10 [(16, 4, 3), (24, 8, 64), (32, 4, 256)]
    let s := { held (flying [d]) with courses := [running 3 0] }
    s.dueDesc 0 0x0A = some d ∧ d.field 16 4 = 3 ∧
      s.course 3 = some (running 3 0) ∧ d.func = 0 ∧ (flying [d]).course 3 = none := by decide +kernel

theorem wit_Reports_denied : let d := { mkDesc 1 10 [(16, 4, 3), (24, 8, 64), (32, 4, 256)] with func := 1 }
    let s := { held (flying [d]) with courses := [running 3 0] }
    s.dueDesc 0 0x0A = some d ∧ s.course 3 = some (running 3 0) ∧ d.func ≠ 0 ∧ d.func ≠ (running 3 0).desc.func := by
  decide +kernel

theorem wit_Reports_snapshot : let d := mkDesc 1 10 [(16, 4, 3), (24, 8, 64), (32, 4, 256)]
    let s := { held (flying [d]) with courses := [{ running 3 0 with reports := [d] }] }
    s.course 3 = some { running 3 0 with reports := [d] } ∧ (running 3 0).started = true ∧ 64 ≤ d.field 32 4 ∧
      ((running 3 0).station 0).any (s.atBoundary (running 3 0)) = true := by
  decide +kernel

/-! ## Witnesses of steps and configuration -/

/-- The step machine of the PF in a state of step 4. -/
def inStep (s : State) (st : StepState) (at_ : Nat := 0) : State :=
  { s with steps := [(0, { state := st, step := 4, attempt := at_, seed := 77 })] }

/-- STEP_COMMIT and STEP_ABORT of step 4. -/
def commitDesc : Desc := mkDesc 5 4 [(16, 8, 4)]
def abortDesc : Desc := mkDesc 5 5 [(16, 8, 4)]

/-- The copying course as a step course of step 4. -/
def stepping : Course := { running 3 1 with stepMode := true, step := 4 }

theorem wit_StepCommit : ∀ st ∈ [StepState.idle, .failed, .complete, .vetoed],
    let s := inStep (held (flying [commitDesc])) st
    s.dueDesc 0 0x04 = some commitDesc ∧ commitDesc.field 16 8 = 4 ∧ commitDesc.func = 0 ∧
      FMap.wf (fun _ => (none : Option Tensor)) s.tensors = true ∧ s.stepIs 0 4 = (st != .idle) ∧ (s.stepM 0).state = st ∧
      s.stepWaits commitDesc 4 = false ∧ s.mirror = false ∧ (s.usable 0 2).isSome = true := by decide +kernel

theorem wit_StepCommit_waits :
    let s := { inStep (held (flying [commitDesc])) .opened with courses := [stepping] }
    s.stepIs 0 4 = true ∧ (s.stepM 0).state ≠ .failed ∧ s.stepWaits commitDesc 4 = true := by decide +kernel

theorem wit_Abort :
    let s := inStep (held (flying [abortDesc])) .opened
    s.dueDesc 0 0x05 = some abortDesc ∧ abortDesc.field 16 8 = 4 ∧ s.stepIs 0 4 = true ∧ s.stepWaits abortDesc 4 = false ∧
      (inStep s .idle).stepIs 0 4 = false := by decide +kernel

/-- The copying course with its stations closed and its streams drained. -/
def finished (c : Course) : Course :=
  { c with
    stations := c.stations.map (fun st => { st with closed := true })
    streams := c.streams.map (fun x => { x with state := .drained }) }

theorem wit_Complete : ∀ c ∈ [finished (running 3 1), finished stepping],
    let s := inStep { held up with courses := [c] } .opened
    (s.closeUp 3).course 3 = some c ∧ c.started = true ∧ (s.closeUp 3).issuing = true ∧ c.cancelled = none ∧ c.halt = none ∧
      c.allClosed = true ∧ c.joined = false ∧ c.veto = false ∧ (s.closeUp 3).peers = [] ∧
      (∀ n ∈ c.writes, ((s.closeUp 3).tensor n).all (fun x => !x.desc.sparse) = true) ∧
      ((s.closeUp 3).stepM 0).state = .opened ∧ ((s.closeUp 3).stepM 0).step = 4 ∧
      ((s.closeUp 3).stepM 0).vetoed = false := by decide +kernel

theorem wit_Complete_stops : ∀ c ∈ [running 3 1, { running 3 1 with cancelled := some 1 }, { running 3 1 with halt := some { status := 5 } }],
    let s := { held up with courses := [c] }
    (s.closeUp 3).course 3 = some c ∧ (s.closeUp 3).issuing = true ∧ c.allClosed = false ∧ (s.closeUp 3).tasksEnd c = true := by
  decide +kernel

theorem wit_Complete_waits : let c := { running 3 1 with cancelled := some 1 }
    let s := { held up with courses := [c], journal := [(0, some { course := 3, station := 0, tile := 0, state := .issued })] }
    (s.closeUp 3).course 3 = some c ∧ (s.closeUp 3).issuing = true ∧ c.cancelled.isSome = true ∧
      (s.closeUp 3).tasksEnd c = false := by decide +kernel

theorem wit_Timeout : ∀ c ∈ [running 3 1, stepping, { stepping with attempt := 3 }],
    let s := { held up with
      courses := [c], net := { State.reset.net with requests := [{ key := ⟨20, 1, 3, 1⟩, owner := 1, shipped := false, sent := true }] } }
    s.course 3 = some c ∧ c.active = true ∧ s.issuing = true ∧ s.awaits c = true ∧ ({ held up with courses := [c] }).awaits c = false := by
  decide +kernel

/-- A CONFIG_APPLY of one item. -/
def configOf (kind : Nat) (body : List Byte) : Desc :=
  mkDesc 1 7 [(24, 4, 8 + body.length)] [block 8 [(0, 2, kind), (4, 4, body.length)] ++ body]

/-- The bodies of accepted items: a mesh of one, an SA, a queue pair, CANCEL_BATCH, and polder 2's creation and destruction. -/
def meshBody : List Byte := block 64 [(0, 2, 1), (12, 4, 1)]
def saBody : List Byte := block 56 [(0, 1, 1), (2, 1, 2), (4, 1, 1), (24, 4, 99)]
def qpBody : List Byte := block 24 [(0, 2, 6), (2, 1, 1), (4, 3, 2), (12, 4, 5)]
def cancelBody : List Byte := block 8 [(0, 4, 3)]
def polderBody : List Byte := block 64 [(0, 1, 2), (1, 1, 1), (4, 4, 12)]
def destroyBody : List Byte := block 8 [(0, 1, 2)]

/-- The polder feature is confirmed and course 3 runs. -/
def configState (d : Desc) : State := confirmed { held (flying [d]) with courses := [running 3 0] } 0xA

theorem wit_Config : ∀ q ∈ [(1, meshBody), (2, saBody), (3, qpBody), (4, cancelBody), (0x10, polderBody), (0x11, destroyBody)],
    let d := configOf q.1 q.2
    let s := { configState d with courses := if q.1 = 4 then [running 3 0] else [] }
    s.dueDesc 0 0x07 = some d ∧ d.items.length = 1 ∧ d.forKind q.1 = true ∧ s.itemsCheck d.func 0 d.items = none ∧
      (d.items.map (fun it => (it.kind, it.body))) = [(q.1, q.2)] := by decide +kernel

theorem wit_Config_cancel : (configState (configOf 4 cancelBody)).runningCourse 3 = some (running 3 0) := by decide +kernel

theorem wit_Config_refused : ∀ k ∈ [1, 2, 3, 4, 0x10, 0x11],
    let d := configOf k [1]
    (configState d).itemsCheck 0 0 d.items = some (0, 0x000A, 2) := by decide +kernel

theorem wit_Polders_destroy : let d := configOf 0x11 destroyBody
    let s := (configState d).createPolder polderBody
    s.dueDesc 0 0x07 = some d ∧ s.itemsCheck 0 0 d.items = none ∧ s.polderExists 2 = true := by decide +kernel

/-! ## Witnesses of stacks and the levee -/

theorem wit_Train : 0 < State.reset.part.stackCount ∧ (State.reset.stack 0).trained = false ∧
    (let s := State.reset.setStack 0 { trained := true }
     s.stackRetired 0 = false ∧ (s.stack 0).trained = true ∧ (s.stack 0).zeroed = false) := by decide +kernel

theorem wit_StackTemps : ∀ m, m < 4 → (State.reset.setStack 0 { trained := true, missing := m }).stackOn 0 = true ∧
    ((State.reset.setStack 0 { trained := true, missing := m }).stack 0).missing = m := by decide +kernel

/-- Stack 1 of a CN1-B08 with one line stored, in the directory or not, and heal writes queued. -/
def lineState (w : Line) (dir : List Nat) (heals : List (Nat × Line)) : State :=
  (zeroed []).setStack 1 { (({ trained := true, zeroed := true } : Stack).setLine 5 w) with dir := dir, heals := heals, scrub := 5 }

/-- A line of 64 bytes, and the same with some bytes changed. -/
def line64 : Line := goodLine (block 64 [(0, 4, 0xDEADBEEF), (60, 4, 1)])
def hurt (n : Nat) : Line := damageLine line64 ((List.range n).map (fun i => (7 * i, 0x5A)))

theorem wit_StackWrite : (zeroed []).lineOk 1 5 = true ∧ (zeroed []).lineKey 1 5 ≠ some none ∧
    ((zeroed []).stack 1).dir.length < 4096 := by decide +kernel

theorem wit_StackRead_clean : let s := lineState line64 [] []
    s.lineOk 1 5 = true ∧ s.lineKey 1 5 ≠ some none ∧ (s.stack 1).dir.contains 5 = false ∧
      decodeLine (s.eccMode 1) ((s.stack 1).line 5) = .clean ∧ ((lineState line64 [5] []).stack 1).dir.contains 5 = true := by
  decide +kernel

theorem wit_StackRead_mark : let s := lineState (markedLine line64.data) [] []
    decodeLine (s.eccMode 1) ((s.stack 1).line 5) = .mark := by decide +kernel

theorem wit_StackRead_corrected : ∀ n ∈ [1, 3],
    let s := lineState (hurt n) [] []
    decodeLine (s.eccMode 1) ((s.stack 1).line 5) = .corrected line64 n := by decide +kernel

theorem wit_StackRead_bad : let s := lineState (hurt 9) [] []
    decodeLine (s.eccMode 1) ((s.stack 1).line 5) = .bad ∧ getBit (s.reg ⟨.memUeAddr, 1, 0⟩) 63 = false := by decide +kernel

theorem wit_Heal : ((lineState (hurt 3) [] [(5, line64)]).stack 1).heals = [(5, line64)] := by decide +kernel

theorem wit_Scrub : let s := lineState line64 [] []
    (s.stack 1).scrub = 5 ∧ s.lineOk 1 5 = true ∧ s.regF .stackCtl 1 7 0 ≠ 0 ∧ s.scrubChannel 1 = true ∧ (s.stack 1).dir.contains 5 = false := by
  decide +kernel

theorem wit_Window : up.hostLink = true ∧ 3 < up.part.cores ∧ up.coreRetired 3 = false ∧
    readingOf [(coreSensor 3, 70)] (coreSensor 3) = some 70 ∧
    (∀ c ∈ up.courses, ∀ x ∈ c.streams, x.queued = false) := by decide +kernel

theorem wit_Allowances : ([(0, 5), (1, 7)].map (fun q : Nat × Nat => q.1)).Nodup ∧
    ([(0, 5), (1, 7)].map (fun q : Nat × Nat => q.2)).foldl (· + ·) 0 ≠ 0 := by decide +kernel

/-- Die 0 with a voltage requested, and core 2 waiting for it. -/
def railState (mv faults : Nat) : State :=
  (State.reset.setRail 0 { mv := 800, request := some mv, faults := faults }).setCore 2 { step := 17, wanted := some 18 }

theorem wit_Voltages : ∀ mv ∈ [775, 850], let s := railState mv 2
    (s.rail 0).request = some mv ∧ s.power.phase = .run ∧ s.power.exiting = none ∧ 2 / coresPerDie = 0 ∧
      (s.core 2).wanted = some 18 ∧ stepMv 18 ≤ mv ∧ 2 ≤ (s.rail 0).faults ∧ 3 ≤ topStep := by decide +kernel

theorem wit_SensorMissing : let s := { State.reset with power := { State.reset.power with levee := { silent := [(9, 10)] } } }
    10 ≤ FMap.get (fun _ => 0) s.power.levee.silent 9 ∧ 9 < 8 * s.part.dies ∧ 9 ∉ s.power.levee.limited := by decide +kernel

/-- Iluny has read the guard exceeded some times in a row. -/
def overState (n : Nat) : State :=
  { State.reset with power := { State.reset.power with iluny := { State.reset.power.iluny with overReads := n } } }

theorem wit_Guard : (overState 1).power.phase = .run ∧ (overState 1).power.iluny.ready = true ∧
    (overState 1).power.iluny.airHot = false ∧
    ((overState 1).noteAir 45).overLevel 100 = false ∧ ((overState 1).noteAir 45).overLevel 60000 = true ∧
    ((overState 1).noteAir 45).power.iluny.overReads ≠ 0 ∧ ((overState 0).noteAir 45).power.iluny.overReads = 0 ∧
    ((overState 1).noteAir 45).power.iluny.overvolt = false ∧ ((overState 1).noteAir 46).power.iluny.airHot = true := by decide +kernel

/-! ## Witnesses of power, the module and the pair -/

/-- The machine after reset with some of its power state changed. -/
def powered (f : PowerState → PowerState) : State := { State.reset with power := f State.reset.power }

/-- The machine asleep in a state, with an exit under way or not. -/
def asleep (n : Nat) (exiting : Option Nat) : State := powered (fun p => { p with state := n, exiting := exiting })

theorem wit_Power_core : State.reset.hostUp = true ∧ State.reset.maxState ≠ 0 ∧ 1 < State.reset.part.cores ∧
    State.reset.coreRetired 1 = false ∧ State.reset.runningOn 1 = [] ∧ State.reset.readyOn 1 = false ∧
    State.reset.deviceIdle = true := by decide +kernel

/-- The copying course with its LOAD placed on core 0, which idles. -/
def idleCore : State := ({ held up with courses := [running 3 1] }).setCore 0 { idle := true }

theorem wit_Power_ready : idleCore.hostUp = true ∧ (idleCore.core 0).idle = true ∧ idleCore.readyOn 0 = true := by decide +kernel

theorem wit_Power_enter : ∀ n ∈ [1, 2, 3, 4, 5, 7], let s := powered (fun p => { p with chosen := n })
    s.hostUp = true ∧ s.power.cluster = .first ∧ s.power.chosen = n ∧ s.deviceIdle = true ∧ (s.rail 0).locked = false := by
  decide +kernel

theorem wit_Power_exit : (asleep 3 (some 2)).power.exiting = some 2 ∧ (asleep 3 (some 2)).railsUp = true ∧
    (asleep 3 (some 2)).host.deviceFault = none := by decide +kernel

/-- Asleep with every wake source enabled and a mesh. -/
def wakeful : State := { (((asleep 2 none).setReg ⟨.wakeCtl, 0, 0⟩ 0xF).setReg ⟨.portStat, 0, 0⟩ 1) with mesh := some (parseMesh meshBody) }

theorem wit_Wakes : wakeful.power.phase = .run ∧ wakeful.power.state ≠ 0 ∧ wakeful.power.exiting = none ∧
    (∀ n, n < 4 → wakeful.wakeEnabled n = true) ∧ wakeful.mesh.isSome = true ∧ wakeful.frameHeard 0 = true ∧
    (wakeful.wakePattern).take 16 = wakeful.wakePattern ∧ (wakeful.rail 0).locked = false ∧
    wakeful.moduleReach = true ∧
    ({ wakeful with power := { wakeful.power with exiting := some 3 } } : State).wakeEnabled 1 = true ∧
    ({ wakeful with power := { wakeful.power with exiting := some 3 } } : State).wakeEnabled 0 = true := by decide +kernel

theorem wit_Cluster : State.reset.power.cluster = .first ∧ 2 ≤ State.reset.part.dies ∧
    ({ State.reset with part := .cn1b08 } : State).part.dies = 1 ∧ State.reset.host.deviceFault = none ∧
    (powered (fun p => { p with cluster := .taking })).power.cluster = .taking ∧
    FMap.wf (fun _ => (none : Option JEntry)) (powered (fun p => { p with cluster := .taking })).journal = true ∧
    (powered (fun p => { p with cluster := .taking })).hostUp = true := by decide +kernel

/-- The image that a sag draws up. -/
def draftImage : FreeImage :=
  { count := 1, part := .cn4b32, features := [0, 0, 0, 0, 0, 0, 0, 0], lifecycle := 2
    steps := [{ func := 0, state := 0, step := 4, attempt := 0, lastValid := true, lastStep := 4, seed := 9 }], tensors := []
    polders := [], journal := [0, 0, 0, 0], log := [], pair := 0, valid := true, consumed := false }

theorem wit_Sag : State.reset.power.phase = .run ∧ 3 < State.reset.part.stackCount ∧ 3 < 8 * State.reset.part.dies := by
  decide +kernel

theorem wit_Save : let s := { powered (fun p => { p with phase := .saving }) with resume := { draft := some draftImage } }
    s.power.phase = .saving ∧ s.resume.draft = some draftImage := by decide +kernel

theorem wit_NorCopy :
    let s := { powered (fun p => { p with phase := .off, iluny := { p.iluny with input := false } }) with
      resume := { sram := some draftImage } }
    s.power.phase = .off ∧ s.power.iluny.input = false ∧ s.resume.sram = some draftImage ∧ draftImage.valid = true ∧
      draftImage.consumed = false ∧ s.moduleReach = true ∧
      ({ s with pkg := .b, power := { s.power with mgmt := false } } : State).moduleReach = false := by decide +kernel

/-- Iluny in power-on reset, with an image in one place or none. -/
def starting (r : ResumeState) : State := { powered (fun p => { p with iluny := { p.iluny with ready := false } }) with resume := r }

theorem wit_Ready : (starting {}).power.iluny.ready = false ∧ (starting {}).searchable.search = none ∧
    (starting { sram := some draftImage }).searchable.search = some 0 ∧
    (starting { nor0 := some draftImage }).searchable.search = some 1 := by decide +kernel

theorem wit_PowerUp :
    (powered (fun p => { p with iluny := { p.iluny with input := false } })).power.iluny.input = false ∧
    (let s := powered (fun p => { p with phase := .off })
     s.power.phase = .off ∧ s.power.iluny.ready = true ∧ s.power.iluny.mated = true ∧ s.power.iluny.input = true ∧
       s.power.iluny.stopped = false ∧ (s.rail 0).locked = false) ∧
    (powered (fun p => { p with iluny := { p.iluny with stopped := true } })).power.iluny.stopped = true ∧
    State.reset.power.iluny.overvolt = false ∧
    (powered (fun p => { p with iluny := { p.iluny with overvolt := true } })).power.iluny.overvolt = true := by decide +kernel

/-- A package of a CN4-P64 in reset under PERST#. -/
def heldReset : State := { powered (fun p => { p with perst := true, phase := .held }) with part := .cn4p64 }

theorem wit_Perst : heldReset.power.perst = true ∧ heldReset.power.phase = .held ∧ heldReset.railsUp = true ∧
    heldReset.part = .cn4p64 ∧ State.reset.hostLink = true ∧
    FMap.wf (fun _ => (none : Option Tensor)) (held up).tensors = true := by decide +kernel

theorem wit_Resume : ∀ c ∈ [1, 2],
    let s := { ((State.reset.setReg ⟨.faultCtl, 0, 0⟩ (BitVec.ofNat 64 (2 * c))).setReg ⟨.resumeStat, 0, 0⟩ 0xA0000000) with
      resume := { sram := some draftImage, found := some 0 } }
    s.offeredImage = some draftImage ∧ s.regF .faultCtl 0 2 1 = c ∧ (draftImage.steps.map (fun e => e.func)).Nodup := by
  decide +kernel

/-- Package A or B of a CN4-P64 with the pair feature confirmed and FAULT_CTL.MIRROR set. -/
def paired (p : Pkg) : State := { (confirmed (up.setReg ⟨.faultCtl, 0, 0⟩ 1) 4) with part := .cn4p64, pkg := p }

theorem wit_Pair : ∀ p ∈ [Pkg.a, .b], let s := paired p
    s.part = .cn4p64 ∧ s.hostUp = true ∧ getBit (s.reg ⟨.faultCtl, 0, 0⟩) 0 = true ∧ s.feature 2 = true ∧
      s.regF .pairStat 0 30 29 = 0 ∧ s.courseRuns = false ∧ s.power.phase = .run ∧ s.host.deviceFault = none := by decide +kernel

theorem wit_Forward : let s := { (paired .b).setReg ⟨.pairStat, 0, 0⟩ 0x80000000 with pkg := .b }
    s.mirror = true ∧ s.malformed { seq := 0, func := 0, ring := 0, bytes := fitBytes 128 fenceBytes, forwarded := true } = none := by
  decide +kernel

/-! ## Witnesses of security -/

/-- Connection 0 in a phase of its negotiation, with sessions. -/
def spdmState (phase : Nat) (qs : List (Nat × Session)) : State :=
  { confirmed State.reset 0x100 with secure := { State.reset.secure with
      phases := (if phase = 0 then [] else [(0, phase), (1, phase)]), sessions := qs.map (fun q => (q.1, some q.2)) } }

theorem wit_Spdm : ∀ p, p < 4 → (spdmState p []).connUp 0 = true ∧ (spdmState p []).spdmPhase 0 = p := by decide +kernel

/-- So many sessions of the MCTP connection. -/
def full (n : Nat) : List (Nat × Session) := (List.range n).map (fun i => (i, { conn := 0 }))

theorem wit_Spdm_sessions : (spdmState 3 []).spdm 0 = none ∧
    (∀ m, m < 4 → ((spdmState 3 (full 4)).spdm m).isSome = true) ∧
    (spdmState 3 ((full 4).filter (fun q => q.1 ≠ 2))).spdm 2 = none := by decide +kernel

theorem wit_Spdm_finish : ∀ b, let s := spdmState 3 [(2, { conn := 1, finished := b })]
    s.spdm 2 = some { conn := 1, finished := b } ∧ s.connUp 1 = true ∧ s.feature 8 = true := by decide +kernel

theorem wit_Ide : let s := { State.reset with secure := { State.reset.secure with ide := [(1, { up := true, ranges := [(0, 9)] })] } }
    FMap.get (fun _ => ({} : IdeStream)) s.secure.ide 1 = { up := true, ranges := [(0, 9)] } := by decide +kernel

theorem wit_Lifecycle : let s := spdmState 3 [(1, { conn := 0, finished := true })]
    s.spdm 1 = some { conn := 0, finished := true } ∧ s.connUp 0 = true ∧ s.power.phase = .run ∧ s.secure.lifecycle = 2 ∧
      s.secure.polders = [] := by decide +kernel

/-! ## Witnesses of the network -/

/-- A mesh of this device, 0, and a peer, 1. -/
def twoMesh : Mesh :=
  { axes := [2, 0, 0, 0], self := 0
    entries := [{ device := 0, nodeId := 0, localRank := 0, coord := [0, 0, 0, 0] }, { device := 1, nodeId := 1, localRank := 0, coord := [1, 0, 0, 0] }] }

/-- An open session whose next PSN is 7, and the header of its next packet. -/
def openSession : DnSession := { isOpen := true, version := 1, rxId := 5, txId := 9, rxNext := 7, granted := 8192 }
def nextHdr : DnHdr := { ver := 1, session := 5, psn := 7, ackPsn := 3, credit := 1 }

/-- Port 0 has a link and the session with peer 1 is given. -/
def netUp (q : DnSession) : State :=
  { ((held State.reset).setReg ⟨.portCtl, 0, 0⟩ 1).setReg ⟨.portStat, 0, 0⟩ 1 with
    mesh := some twoMesh, net := { State.reset.net with sessions := [(1, q)] } }

/-- A tile, and the exchange instance that course 3 runs on channel 0. -/
def tile0 : Tile := { hdr := { tensor := 1, index := 0 }, elems := [(0, 0x3F800000)] }
def instanceState : State := { netUp openSession with
  courses := [running 3 1]
  net := { (netUp openSession).net with channels := [(0, { count := 1, current := some { step := 0, course := 3, station := 1, port := 0 } })] } }

theorem wit_Data_frag : (netUp openSession).passes 0 1 nextHdr .frag = true ∧ (netUp openSession).inTurn 1 nextHdr = true := by
  decide +kernel

theorem wit_Data_part : instanceState.passes 0 1 nextHdr (.part 3 1 0 false { x := tile0 }) = true ∧
    instanceState.inTurn 1 nextHdr = true ∧ instanceState.course 3 = some (running 3 1) ∧
    staleEpoch (running 3 1).epoch nextHdr.epoch = false ∧ nextHdr.attempt = (running 3 1).attempt := by decide +kernel

/-- The expert work of course 3: a DISPATCH of two experts of tensor 20 and a grouped MATMUL, with a request to peer 1. -/
def expertKey : ExpertKey := { operand := 20, expert := 1, course := 3, station := 1 }
def expertCourse : Course :=
  { id := 3, desc := copyCourse 3 1, ctx := true, started := true
    stations := [{ id := 0, typ := stRoute, inPorts := 1, outPorts := 1, params := block 32 [(8, 4, 2), (12, 4, 64), (16, 3, 20)] },
      { id := 1, typ := stMatmul, inPorts := 2, outPorts := 1, params := block 16 [(0, 1, 2)] }]
    streams := [{ id := 1, tensor := 1, prod := 0, prodPort := 0, cons := 1, consPort := 0 },
      { id := 2, tensor := 20, prod := 0xFFFFF, prodPort := 0, cons := 1, consPort := 1 },
      { id := 3, tensor := 2, prod := 1, prodPort := 0, cons := 0xFFFFF, consPort := 0 }] }
def expertState (r : ExpertReq) (cs : List Course) (q : DnSession) : State :=
  { (netUp q).setTensor 20 (some { desc := parseDesc (block 128 [(0, 3, 20), (4, 1, 2), (9, 1, 1), (16, 8, 128), (24, 8, 64)]) 0 }) with
    courses := cs, net := { (netUp q).net with requests := [r] } }
def expertReq (shipped : Bool) (denied : List Bool) : ExpertReq :=
  { key := expertKey, owner := 1, shipped := shipped, sent := true, denied := denied }

theorem wit_Data_expert : ∀ m ∈ [NetMsg.block expertKey tile0, .answer expertKey tile0],
    let s := expertState (expertReq false []) [expertCourse] openSession
    s.passes 0 1 nextHdr m = true ∧ s.inTurn 1 nextHdr = true ∧ s.answerStale expertKey nextHdr = false ∧
      s.request expertKey = some (expertReq false []) ∧ (expertReq false []).owner = 1 ∧ (expertReq false []).done = false := by
  decide +kernel

theorem wit_Data_rows : let s := netUp openSession
    s.passes 0 1 nextHdr (.rows expertKey tile0) = true ∧ s.inTurn 1 nextHdr = true ∧
      ∀ w ∈ s.net.served, s.course w.key.course = none := by decide +kernel

theorem wit_Data_stale : let s := netUp openSession
    s.passes 0 1 nextHdr (.block expertKey tile0) = true ∧ s.answerStale expertKey nextHdr = true ∧
      s.knownCourse 3 = s.course 3 := by decide +kernel

/-- Course 3 has completed at attempt 1: its copy stands. -/
theorem wit_Data_lower : let s := { netUp openSession with copies := [{ expertCourse with attempt := 1 }] }
    s.passes 0 1 nextHdr (.block expertKey tile0) = true ∧ s.inTurn 1 nextHdr = true ∧
      (s.knownCourse 3).map (fun c => decide (nextHdr.attempt < c.attempt) && !staleEpoch c.epoch nextHdr.epoch) = some true := by
  decide +kernel

theorem wit_Duplicates : ∀ p ∈ [6, 9], let s := netUp openSession
    s.passes 0 1 { nextHdr with psn := p } (.rows expertKey tile0) = true ∧
      psnBefore p (s.session 1).rxNext = decide (p = 6) ∧ (s.session 1).held = [] ∧ s.portSends 0 = true := by decide +kernel

theorem wit_Duplicates_mute : let s := (netUp openSession).setReg ⟨.portCtl, 0, 0⟩ 0x101
    let u := { s with net := { s.net with sas := [{ port := 0, sub := 0, transmit := false, sc := 0, an := 0, ssci := 0, salt := [], key := [] }] } }
    u.passes 0 1 { nextHdr with psn := 6 } (.rows expertKey tile0) = true ∧ u.portSends 0 = false := by decide +kernel

/-- A packet that waits for its acknowledgement. -/
def txPacket (psn retries : Nat) : TxPacket := { port := 0, retries := retries, hdr := { ver := 1, session := 9, psn := psn }, msg := .cancel expertKey }

theorem wit_Plain : ∀ m ∈ [NetMsg.ack, .credit (some (3, 1, 0)), .credit none, .nak 4, .openReq 1, .closeReq, .reply 2 4],
    let s := netUp { openSession with unacked := [txPacket 4 0] }
    s.passes 0 1 nextHdr m = true ∧ (s.session 1).queue = [] ∧ 1 ∈ s.peers := by decide +kernel

theorem wit_Plain_nak : (netUp openSession).sendPort false (some 0) = some 0 ∧
    ([txPacket 4 0].filter (fun (x : TxPacket) => !psnBefore x.hdr.psn nextHdr.ackPsn)).find? (fun x => decide (x.hdr.psn = 4))
      = some (txPacket 4 0) := by decide +kernel

theorem wit_Plain_openAck : (netUp {}).passes 0 1 { ver := 1, session := 9, credit := 64 } (.openAck 1) = true ∧
    1 ∈ (netUp {}).peers ∧ ((netUp {}).session 1).isOpen = false := by decide +kernel

/-- The step course of step 4 runs, with its session. -/
def roundState : State := { inStep (netUp openSession) .opened with courses := [stepping] }

theorem wit_Rounds : let n : StepName := { func := 0, course := 3, step := 4, attempt := 1 }
    roundState.passes 0 1 nextHdr (.stepDone { func := 0, course := 3, step := 4, attempt := 0, final := true }) = true ∧
      roundState.passes 0 1 nextHdr (.repeatStep n) = true ∧ roundState.passes 0 1 nextHdr (.giveUp n) = true ∧
      roundState.passes 0 1 nextHdr .frag = true ∧
      roundState.inTurn 1 nextHdr = true ∧ roundState.stepIs 0 4 = true ∧ (roundState.stepM 0).state ≠ .failed ∧
      roundState.stepCourse n = some stepping ∧ stepping.attempt < 1 ∧
      beatenBy (peerOrder false 1) (some { stop := true, master := 1, requester := 2, ring := 0 }) = some 2 := by
  decide +kernel

theorem wit_Fetch_served : let s := expertState (expertReq false []) [expertCourse] { openSession with isOpen := false }
    s.inTurn 1 nextHdr = true ∧ s.passes 0 1 nextHdr (.fetch expertKey) = true ∧ (s.tensor 20).isSome = true ∧
      s.cancelledWork 1 3 nextHdr.epoch = false ∧ (s.session 1).isOpen = false ∧ s.sendRefused [20] = none := by decide +kernel

/-- The same with tensor 20 in a polder whose port sends are refused. -/
def guardedExpert : State :=
  let s := (expertState (expertReq false []) [expertCourse] { openSession with isOpen := false }).createPolder polderBody
  s.setTensor 20 (some { desc := { (parseDesc (block 128 [(0, 3, 20), (4, 1, 2), (9, 1, 1), (16, 8, 128), (24, 8, 64)]) 0) with polder := 2 } })

theorem wit_Fetch_denied : (guardedExpert.sendRefused [20]).isSome = true ∧
    guardedExpert.passes 0 1 nextHdr (.fetch expertKey) = true := by decide +kernel

theorem wit_Expert : ∀ m ∈ [NetMsg.ship expertKey, .answerEnd expertKey, .cancel expertKey, .deny expertKey],
    let s := expertState (expertReq true []) [expertCourse] openSession
    s.passes 0 1 nextHdr m = true ∧ s.inTurn 1 nextHdr = true ∧ s.cancelledWork 1 3 nextHdr.epoch = false ∧
      s.answerStale expertKey nextHdr = false := by decide +kernel

theorem wit_Deny : ∀ ds ∈ [[], [false]], let r := expertReq true ds
    let s := expertState r [expertCourse] openSession
    s.request expertKey = some r ∧ r.owner = 1 ∧ r.done = false ∧ r.shipped = true ∧ s.course 3 = some expertCourse ∧
      (expertCourse.station 1).all (fun st => decide (expertCourse.groupOf st = some (2, 64))) = true ∧
      (expertCourse.station 1).isSome = true ∧ expertCourse.halt = none ∧ r.answers = [] := by decide +kernel

theorem wit_Deny_late : let r := { expertReq true [] with answers := [{}] }
    let s := expertState r [expertCourse] openSession
    s.request expertKey = some r ∧ r.owner = 1 ∧ r.done = false ∧ r.shipped = true ∧ r.answers ≠ [] := by decide +kernel

theorem wit_Violation : ∀ p ∈ [(1, { nextHdr with ver := 3 }), (2, { nextHdr with psn := 20000 }), (3, { nextHdr with len := 2000 }),
      (5, { nextHdr with psn := 2 ^ 32 - 20000 })],
    let s := netUp { openSession with granted := 1000 }
    s.hostUp = true ∧ s.portTakes 0 = true ∧ 0 < s.part.ports ∧ s.mute = false ∧ s.portSends 0 = true ∧
      s.brokenBy 1 p.2 .frag = some p.1 ∧ FMap.get (fun _ => 0) s.net.window 0 + 1 ≤ s.net.limit := by decide +kernel

/-- The bytes of a NAK of version 2 (Table 13.4), with 4 payload bytes; then one with a reserved bit set, one of TYPE 0, one whose
LEN is not its UDP length, and a CTRL with a reserved subtype. -/
def nakBytes (b0 b1 len : Nat) (load : List Nat) : List Byte :=
  toLe 1 b0 ++ toLe 1 b1 ++ toLe 2 0 ++ toLe 4 5 ++ toLe 4 7 ++ toLe 4 3 ++ toLe 6 0 ++ toLe 2 len ++ toLe 8 0 ++ load.map (BitVec.ofNat 8)

theorem test_malformed_bytes : malformedBytes (nakBytes 0x23 0 4 [4, 0, 0, 0]) = false ∧
    malformedBytes (nakBytes 0x23 0x40 4 [4, 0, 0, 0]) = true ∧ malformedBytes (nakBytes 0x20 0 4 [4, 0, 0, 0]) = true ∧
    malformedBytes (nakBytes 0x23 0 5 [4, 0, 0, 0]) = true ∧ malformedBytes (nakBytes 0x28 0 1 [0x15]) = true ∧
    headerBytes { nextHdr with ver := 2, session := 5, psn := 7, ackPsn := 3, credit := 0, len := 4 } 3 ++ toLe 4 4
      = nakBytes 0x23 0 4 [4, 0, 0, 0] := by decide +kernel

theorem wit_Violation_bytes : nakBytes 0x20 0 4 [4, 0, 0, 0] ≠ [] ∧ (netUp openSession).portTakes 0 = true := by decide +kernel

theorem wit_Violation_isolates : let s := { netUp openSession with net := { (netUp openSession).net with window := [(0, 1024)] } }
    s.net.limit < FMap.get (fun _ => 0) s.net.window 0 + 1 := by decide +kernel

/-- A port that asks for MACsec, with a receive association whose next packet number is 5. -/
def macState : State :=
  { (netUp openSession).setReg ⟨.portCtl, 0, 0⟩ 0x101 with
    net := { State.reset.net with sas := [{ port := 0, sub := 0, transmit := false, sc := 1, an := 2, ssci := 0, salt := [], key := [], pn := 5 }] } }

theorem wit_Frames : macState.portUp 0 = true ∧ macState.macsecReq 0 = true ∧ (netUp openSession).portUp 0 = true ∧
    (netUp openSession).macsecReq 0 = false ∧ (macState.macsecSa 0 0 ⟨1, 2, 5, true⟩).map (fun a => a.pn) = some 5 ∧
    (macState.passMacsec 0 0 (some ⟨1, 2, 5, true⟩)).isSome = true ∧ (macState.passMacsec 0 0 (some ⟨1, 2, 4, true⟩)).isNone = true ∧
    (macState.passMacsec 0 0 (some ⟨1, 2, 5, false⟩)).isNone = true ∧ (macState.passMacsec 0 0 none).isNone = true := by
  decide +kernel

theorem wit_Timers : let s := netUp { openSession with unacked := [txPacket 4 0, txPacket 5 7], held := [({ nextHdr with psn := 9 }, .frag)], sinceAck := 2 }
    s.hostUp = true ∧ (s.session 1).unacked.find? (fun x => decide (x.hdr.psn = 4)) = some (txPacket 4 0) ∧
      (s.session 1).unacked.find? (fun x => decide (x.hdr.psn = 5)) = some (txPacket 5 7) ∧
      s.sendPort (s.guardedMsg (txPacket 4 0).msg) (some 0) = some 0 ∧ s.sendPort false none = some 0 ∧ s.mute = false ∧
      0 < (s.session 1).sinceAck ∧ (s.session 1).held ≠ [] := by decide +kernel

theorem wit_LinkUp : let s := State.reset.setReg ⟨.portCtl, 0, 0⟩ 1
    0 < s.part.ports ∧ 0 < modeSubPorts (s.regF .portCtl 0 7 4) ∧ getBit (s.reg ⟨.portCtl, 0, 0⟩) 0 = true ∧
      s.net.noRefclk.contains (0 / 4) = false ∧ s.hostUp = true := by decide +kernel

theorem wit_LinkDown : let q := { openSession with unacked := [txPacket 4 0] }
    let s := ((netUp q).setReg ⟨.portCtl, 1, 0⟩ 1).setReg ⟨.portStat, 1, 0⟩ 1
    s.regF .portStat 0 7 0 = 1 ∧ (1 : Nat).testBit 0 = true ∧ s.net.sessions = [(1, q)] ∧
      (s.setLinks 0 0).sendPort ((s.setLinks 0 0).guardedMsg (txPacket 4 0).msg) (some 0) = some 1 ∧
      (∀ q ∈ (netUp openSession).net.sessions, q.2.unacked = []) := by decide +kernel

theorem wit_GroupApply : let p : PendCommit := { groups := [0, 5], snap := levelled.snapshot 0 [0, 5] }
    let s := levelled.setPend 0 (some p)
    s.pendCommit 0 = some p ∧ p.groups.contains 0 = true ∧ eventGroup 0 = false ∧ p.groups.contains 5 = true ∧ eventGroup 5 = false ∧
      p.groups.filter (fun g => g ≠ 5) ≠ [] ∧ s.lateBusy 0 0 p.snap = [] ∧
      ((up.setPend 0 (some p)).lateBusy 0 0 (FMap.set regDefault [] (Reg.key ⟨.sqBase, 0, 0⟩) 0x1000)) ≠ [] ∧
      s.keyReg (Reg.key ⟨.portCtl, 0, 0⟩) = some ⟨.portCtl, 0, 0⟩ ∧ RegKind.portCtl.group = some 5 := by decide +kernel

/-- A queue pair bound to tensor 2, on an open port: between messages, and within a WRITE and a SEND. -/
def qpair (m : Option Bool) : RoceQp := { qp := 6, tensor := 2, remote := 11, key := 5, psn := 40, next := 64, message := m }
def roceState (m : Option Bool) : State := { netUp openSession with net := { (netUp openSession).net with qps := [qpair m] } }

theorem wit_Roce : ∀ m ∈ [none, some true, some false], let s := roceState m
    s.hostUp = true ∧ s.portTakes 0 = true ∧ s.portSends 0 = true ∧ 0 < s.part.ports ∧
    s.roceQp 6 = some (qpair m) ∧ (qpair m).psn < 2 ^ 24 ∧ (s.tensor 2).isSome = true ∧ s.mayLand 2 = true ∧
    (s.tensor 2).all (fun x => decide (64 + 8 ≤ s.halfBytes x.desc) && (s.polder x.desc.polder).isNone) = true ∧
    ((qpair m).psn + 2 ^ 24 - 39) % 2 ^ 24 ≤ 2 ^ 23 ∧ FMap.get (fun _ => 0) s.net.window 0 < s.net.limit := by
  decide +kernel

/-! ## Witnesses of the life of a task -/

/-- A tile of tensor `id` with some values. -/
def tileOf (id k : Nat) (vs : List (Nat × Nat)) : Tile := { hdr := { tensor := id, index := k }, elems := vs }

/-- A course of one station, whose input ports carry tensors with tiles and whose output ports carry tensors. -/
def solo (typ : Nat) (params : List Byte) (ins : List (Nat × List Tile)) (outs : List Nat) : Course :=
  { id := 3, desc := copyCourse 3 1, ctx := true, started := true
    stations := [{ id := 0, typ := typ, inPorts := ins.length, outPorts := outs.length, params := params }]
    streams := (List.range ins.length).map (fun i => { id := i, tensor := (ins.getD i (0, [])).1, prod := 0xFFFFF, prodPort := 0
                                                       cons := 0, consPort := i, tiles := (ins.getD i (0, [])).2 })
      ++ (List.range outs.length).map (fun i => { id := 8 + i, tensor := outs.getD i 0, prod := 0, prodPort := i, cons := 0xFFFFF, consPort := 0 }) }

/-- An entry of station 0's task on tile 0. -/
def entry0 : JEntry := { course := 3, station := 0, tile := 0, engine := 4 }

/-- The state with a course, and an entry in slot 0 of the journal. -/
def tasked (c : Course) (e : JEntry) : State := { held up with courses := [c], journal := [(0, some e)] }

/-- An order for the LOAD of the copying course. -/
def order0 (journal : Bool) (context : Option Nat) (ce : Nat) : TaskOrder :=
  { course := 3, station := 0, tile := 0, engine := 4, core := 0, index := 0, slot := 0, line := some 5, journal := journal, context := context, ce := ce
    ready := (List.range 8).map (fun k => { course := 3, station := 0, tile := k }) }

/-- The copying course ready to issue. -/
def issuable : State := { held up with courses := [running 3 1] }

theorem wit_Issue : ∀ o ∈ [order0 false none 0, order0 false none 2, order0 true none 0, order0 false (some 0) 0],
    issuable.course 3 = some (running 3 1) ∧ ((running 3 1).station 0).isSome = true ∧
    ((running 3 1).station 0).all (fun st =>
      issuable.mayIssue ⟨looseKey, issuable.entryOf (running 3 1) st o, running 3 1, st⟩ o) = true ∧
    ((running 3 1).station 1).all (fun st =>
      !issuable.mayIssue ⟨looseKey, issuable.entryOf (running 3 1) st o, running 3 1, st⟩ { o with station := 1 }) = true ∧
    (∃ y ∈ (running 3 1).streams, y.id = 0) ∧
    ((running 3 1).station 0).all (fun st => decide ((issuable.core 0).allot = issuable.taskPolder (running 3 1) st)) = true := by
  decide +kernel

theorem wit_Move : issuable.issuing = true ∧ (running 3 1).active = true ∧ issuable.coreOpen 5 = true ∧
    ((running 3 1).station 0).all (fun st => decide ((running 3 1).livePin st = none) && issuable.atBoundary (running 3 1) st
      && (running 3 1).queuesFit st 5) = true := by decide +kernel

/-- A stream of a copying course may be buffered in a core, in a die, or on a queue of the core where both its stations are. -/
theorem wit_Buffers : ∀ b ∈ [bufferOf 0 0 0, bufferOf 1 5 0, bufferOf 2 1 0, bufferOf 3 0 2],
    (running 3 1).streams.all (fun x => issuable.bufferFits (running 3 1) x b) = true ∧ (running 3 1).streams ≠ [] := by
  decide +kernel

/-- Core 0 has been hot for 100 windows and charged station 0. -/
def hotState : State := issuable.setCore 0 { hotWindows := 100, moveWindows := 100, energy := [(chargeKey 3 0, 9)] }

theorem wit_ThermalMove : hotState.issuing = true ∧ 100 ≤ (hotState.core 0).hotWindows ∧ 100 ≤ (hotState.core 0).moveWindows ∧
    (hotState.core 0).energy = [(chargeKey 3 0, 9)] ∧
    ((running 3 1).station 0).all (fun st => hotState.moveTarget st 0 1 && hotState.atBoundary (running 3 1) st
      && decide ((running 3 1).livePin st = none) && (running 3 1).queuesFit st 1 && decide (st.place.core ≠ 1)) = true ∧
    (∀ n, n < hotState.part.cores → hotState.sensorTemp (coreSensor 1) ≤ hotState.sensorTemp (coreSensor n)) := by decide +kernel

theorem wit_Retire : ∀ p, let e := { entry0 with finished := true, poisoned := p, flags := 5, engine := 1 }
    (tasked (running 3 1) e).pulseCome e = true ∧ (running 3 1).unsent e = false ∧ (running 3 1).running = true ∧ (tasked (running 3 1) e).entry 0 = some e ∧ (tasked (running 3 1) e).course 3 = some (running 3 1) ∧ e.state = .issued ∧
      (running 3 1).active = true ∧ (tasked (running 3 1) e).issuing = true ∧ (tasked (running 3 1) e).net.served = [] ∧
      (∀ st ∈ (running 3 1).stations, isProduct st.typ = false ∧ ((tasked (running 3 1) e).core st.place.core).thermal ≠ .hold) ∧ e.flagReg.isSome = true ∧ entry0.flagReg = none := by
  decide +kernel

/-- A task whose event line has a count and whose transfer has pulsed it. -/
theorem wit_Retire_pulse : let e := { entry0 with finished := true, line := some 70, landed := true }
    let s := (tasked (running 3 1) e).setCore 0 { lines := [(6, 2)] }
    s.entry 0 = some e ∧ s.pulseCome e = true ∧ (tasked (running 3 1) e).pulseCome e = false := by decide +kernel

/-- The copying course whose stream holds tile 0, which the STORE has taken or not. -/
def streaming (taken : Bool) : Course :=
  { running 3 1 with
    stations := (running 3 1).stations.map (fun st => { st with done := if taken then [0] else [] })
    streams := (running 3 1).streams.map (fun x => { x with tiles := [tileOf 1 0 [(0, 0x3F800000)]] }) }

theorem wit_EntryRetire : ∀ b, let s := tasked (streaming b) { entry0 with state := .done }
    (streaming b).streams.all (fun x => (s.reached (streaming b) x 0 == b) && !x.completion && decide (x.prod = 0 ∧ x.prodPort = 0)) = true ∧
      (streaming b).streams ≠ [] := by decide +kernel

/-- The copying course halted by a corrupt context of its stream. -/
def corruptCourse : Course :=
  { running 3 1 with
    halt := some { status := 0x0012, detail := 0, id := 0, stream := true }
    streams := (running 3 1).streams.map (fun x => { x with state := .corrupt }) }

theorem wit_Replay : ∀ q ∈ [(0, running 3 1), (3, running 3 1), (1, corruptCourse)],
    let s := tasked q.2 { entry0 with state := .abandoned, attempt := q.1 }
    s.issuing = true ∧ (q.2.station 0).isSome = true ∧ q.2.revived.active = true ∧
      (q.2.station 0).all (fun st => s.mayRerun q.2 st { entry0 with state := .abandoned, attempt := q.1 } 4 2 1 && !s.copyBroken q.2 st 0) = true ∧
      q.2.id = entry0.course ∧ corruptCourse.corrupted = true := by decide +kernel

theorem wit_Hang : ∀ hs ∈ [[], [100, 200]], let s := (tasked (running 3 1) entry0).setCore 0 { hangs := hs }
    s.issuing = true ∧ (s.core 0).idle = false ∧ (s.heldOn 0).any (fun e => decide (e.engine = 4 ∧ e.index = 0)) = true ∧
      FMap.wf (fun _ => (none : Option JEntry)) s.journal = true ∧ 0 < s.part.cores ∧ s.coreRetired 0 = false ∧
      (s.core 0).hangs = hs ∧ 300 < 100 + 2 ^ 30 ∧
      (∀ c ∈ s.courses, ∀ x ∈ c.streams, x.buffer = .maker) := by decide +kernel

theorem wit_Dma_done : let e := { entry0 with line := some 70, finished := true }
    (tasked (running 3 1) e).entry 0 = some e ∧ e.finished = true ∧ e.landed = false ∧
      FMap.get (fun _ => 0) ((tasked (running 3 1) e).core 0).lines (70 % 64) ≠ 65535 := by decide +kernel

theorem wit_Dma_error : ∀ sys, entry0.state = .issued ∧
    { entry0 with core := 1, index := 2, sys := some (1, 2) }.usesChannel sys 1 2 = true ∧ busCauseOk sys false 5 = true ∧
    busCauseOk true true 3 = false ∧ busCauseOk true false 3 = true ∧
    (running 3 1).halt = none ∧
    (dmaRegs sys 1 2).1.key ≠ (dmaRegs sys 1 2).2.key ∧ (dmaRegs sys 1 2).1.key ≠ Reg.key ⟨.errlogStat, 0, 0⟩ ∧
    (dmaRegs sys 1 2).2.key ≠ Reg.key ⟨.errlogStat, 0, 0⟩ := by decide +kernel

/-- A stream's tile that stands nowhere in the stacks, and the stream's space on stack 1. -/
def spillCourse : Course :=
  { streaming false with streams := (streaming false).streams.map (fun x => { x with space := some ⟨[1, 3], 0x4000, 0x8000⟩ }) }

theorem wit_Spill : let s := { held (zeroed []) with courses := [spillCourse] }
    s.course 3 = some spillCourse ∧ spillCourse.active = true ∧ spillCourse.streams.length = 1 ∧
      spillCourse.streams.all (fun x => !x.queued && x.id == 0 && x.spilled.isEmpty && x.state != .halted
        && ((x.tiles ++ x.waiting).find? (fun y => decide (y.hdr.index = 0))).any (fun t =>
          !s.sameAsHome t && !s.homeSlotFree spillCourse x t && s.canSpill spillCourse x t) && (s.tensor x.tensor).isSome
        && (x.space.map Space.stackIds) == some [1, 3]) = true ∧ s.spillReady (s.slotAt 3 0 0) = true ∧
      FMap.wf (fun _ => ({} : Core)) s.cores = true ∧ s.tensors.all (fun kv => kv.2.all (fun t => decide (t.desc.polder = 0))) = true := by
  decide +kernel

/-- The same tile in the data part of DM of die 1, and a word of it that cannot be corrected. -/
def spillDm : State :=
  { held (zeroed []) with
    courses := [spillCourse], dm := [(1, { slots := [{ course := 3, stream := 0, tile := 0, base := 0, bytes := 2048, written := true }] })] }

theorem wit_Spill_error : spillDm.slotAt 3 0 0 = some (false, 1) ∧ spillDm.spillReady (some (false, 1)) = true ∧
    spillCourse.streams.all (fun x => (x.tiles ++ x.waiting).all (fun t => !spillDm.sameAsHome t)) = true ∧
    ((spillDm.noteSramErr (some (false, 1)) { ue := 2 }).reg ⟨.sramErr, 1, 0⟩).toNat = 2 * 2 ^ 16 := by decide +kernel

/-- The tile of tensor 2 as its home on stacks 0 and 1 has it. -/
theorem wit_Spill_same : let t : Tensor := { desc := parseDesc (descOf 2 1) 0, stackIds := [0, 1], bytes := 65536 }
    ((held up).setTensor 2 (some t)).sameAsHome (t.current 2 0) = true := by decide +kernel

/-- An ALL_REDUCE of tensor 11 into tensor 12, each one tile of 4 × 4, on axis 0 of a mesh, with EVERY_N. -/
def smallDesc (id : Nat) (fields : List (Nat × Nat × Nat)) : TensorDesc :=
  parseDesc (block 128 ([(0, 3, id), (4, 1, 2), (9, 1, 1), (16, 8, 4), (24, 8, 4)] ++ fields)) 0
def smallTile : Tile := let x := tileOf 11 0 [(0, 0x3F800000)]
  { x with hdr := { x.hdr with extRows := 3, extCols := 3 } }
def exchanger (every step : Nat) (acc : Nat) : Course :=
  { solo stExchange (block 16 [(2, 1, 1), (6, 1, every), (12, 3, acc)]) [(11, [smallTile])] [12] with stepMode := true, step := step }
def exchangeState (m : Mesh) (c : Course) (chans : FMap XChan) : State :=
  { (((held up).setTensor 11 (some { desc := smallDesc 11 [] })).setTensor 12 (some { desc := smallDesc 12 [] })).setTensor 13
      (some { desc := parseDesc (block 128 [(0, 3, 13), (4, 1, 3), (9, 1, 2), (16, 8, 2), (24, 8, 4), (32, 8, 4)]) 0 }) with
    courses := [c], mesh := some m, net := { up.net with channels := chans } }

/-- A mesh of one device. -/
def oneMesh : Mesh := { axes := [1, 0, 0, 0], self := 0, entries := [{ device := 0, nodeId := 0, localRank := 0, coord := [0, 0, 0, 0] }] }

theorem wit_Exchange_starts : let s := exchangeState twoMesh (exchanger 1 4 0) []
    (s.looseTask 3 0 stExchange).isSome = true ∧ (s.looseTask 3 0 stExchange).all (fun t =>
      !t.st.done.contains 0 && decide (0 < t.st.inPorts) && decide (s.exchangeBad t = none) && t.exchangeStep && decide (t.st.p 3 1 = 0) && (s.readStop t).isNone
        && decide ((s.chan (t.st.p 5 1)).current = none) && (s.heldTiles (s.descOf (t.inId 0))).all (fun k => (t.tile? 0 k).isSome)
        && decide ((s.poldersOf [t.inId 0]).findSome? (fun p => (s.egressCause p false .portSend).map (fun c => (p, c))) = none)
        && !(s.startInstance t 0 (s.participants (t.st.p 2 1))).xReady t 0 (s.participants (t.st.p 2 1))) = true := by decide +kernel

theorem wit_Exchange_combines :
    let s := exchangeState oneMesh (exchanger 1 4 0) [(0, { count := 1, current := some { step := 4, course := 3, station := 0, port := 0 } })]
    (s.looseTask 3 0 stExchange).isSome = true ∧ (s.looseTask 3 0 stExchange).all (fun t =>
      let ps := s.participants (t.st.p 2 1)
      decide (s.exchangeBad t = none) && t.exchangeStep && decide ((s.chan (t.st.p 5 1)).current = some (t.xkey 0))
        && s.xReady t 0 ps && decide (s.xChunks t 0 = [0])
        && (match s.xChunk t 0 0 ps with
          | .ok _ => true
          | .error _ => false)
        && decide (s.wardenTask t (some ps.length) (fun _ => false) = none)) = true ∧
      ∀ id ∈ [1, 2, 11, 12, 13], s.needsProbe (exchanger 1 4 0) id = false := by decide +kernel

theorem wit_Exchange_accumulates : let s := exchangeState oneMesh (exchanger 3 4 13) []
    (s.looseTask 3 0 stExchange).isSome = true ∧ (s.looseTask 3 0 stExchange).all (fun t =>
      decide (s.exchangeBad t = none) && !t.exchangeStep && decide (s.oldPeer (s.participants (t.st.p 2 1)) = none)
        && (s.heldTiles (s.descOf (t.inId 0))).all (fun k => (t.tile? 0 k).isSome)
        && decide (s.wardenTask t none (fun _ => false) = none) && (s.tensor 13).all (fun a => a.view.isNone)) = true := by decide +kernel

theorem wit_Fence : ∀ b, let c := { solo stFence [] [(11, [])] [] with
      streams := (solo stFence [] [(11, [])] []).streams.map (fun x => { x with state := if b then .drained else .opened }) }
    let s := exchangeState oneMesh c []
    (s.looseTask 3 0 stFence).isSome = true ∧ ((s.closeUp 3).course 3).isSome = true ∧
      ((s.closeUp 3).course 3).all (fun c => (c.station 0).all (fun st => st.id == 0 && c.inputsDrained st == b)) = true := by
  decide +kernel

/-- A step course with a REDUCE into tensor 14 whose one task has run in probe form. -/
def probing : Course :=
  { stepping with
    stations := stepping.stations ++ [{ id := 9, typ := stReduce, inPorts := 1, outPorts := 1, probed := [0] }]
    streams := stepping.streams ++ [{ id := 9, tensor := 14, prod := 9, prodPort := 0, cons := 1, consPort := 0 }] }

/-- Tensor 14 of FP8 with an outer scale, sharded or not. -/
def probeState (m : Mesh) (shard : Nat) : State :=
  { (exchangeState m probing []).setTensor 14 (some { desc := smallDesc 14 [(5, 1, 3), (80, 4, shard)] }) with courses := [probing] }

theorem wit_Probe : let s := probeState oneMesh 0
    s.course 3 = some probing ∧ probing.active = true ∧ s.issuing = true ∧ s.needsProbe probing 14 = true ∧
      s.probeRan probing 14 = true ∧ s.shardedAway 14 = false := by decide +kernel

theorem wit_Probe_sharded : let s := probeState twoMesh 17
    s.needsProbe probing 14 = true ∧ s.probeRan probing 14 = true ∧ s.shardedAway 14 = true ∧ s.peers ≠ [] ∧
      s.peerProbes probing 14 = none ∧ probing.probeSent.contains 14 = false := by decide +kernel

/-! ## Witnesses of station tasks -/

/-- A task runs: its conditions, as they can be computed. -/
theorem runs_of {s : State} {t : Task} {agg : Option Nat} {part : Nat → Bool}
    (h : (decide (s.task t.j t.st.typ = some t) && (s.readStop t).isNone && (s.wardenTask t agg part).isNone
      && (!t.c.stepMode || s.tensors.all (fun kv => kv.2.all (fun x => !x.desc.outerScaled)))) = true) : s.runs t agg part := by
  simp only [Bool.and_eq_true, decide_eq_true_eq, Option.isNone_iff_eq_none, Bool.or_eq_true] at h
  refine ⟨h.1.1.1, h.1.1.2, h.1.2, fun id => ?_⟩
  cases h.2 with
  | inl h => exact s.needsProbe_plain (by simpa using h) id
  | inr h => exact s.needsProbe_unscaled t.c h id

/-- A description of a format and shape. -/
def shaped (fmt : Nat) (dims : List Nat) (polder : Nat := 0) : TensorDesc :=
  { rank := dims.length, format := fmt, polder := polder, shape := dims ++ List.replicate (8 - dims.length) 0, shard := List.replicate 8 0, pool := 4 }

/-- FP32 values 1 and 2 at the first two positions. -/
def twoVals : FMap Nat := [(0, 0x3F800000), (1, 0x40000000)]

/-- The bench: 21 to 23 FP32 4 × 4, 24 sparse 4 × 4, 25 a list of one tile, 26 FP32 of one tile, 27 the dispatch layout, 28 a routing
record, 29 gate logits, 30 and 31 rank-1 FP32 in a PRIVATE polder, 32 a MASTER of two slices, 33 UINT32 4 × 4, 34 sparse 4 × 4. -/
def bench (c : Course) (e : JEntry) : State :=
  { up with
    courses := [c], journal := [(0, some e)]
    secure := { up.secure with polders := [(3, some { body := block 64 [(0, 1, 3), (1, 1, 2), (8, 4, 0x3F800000), (12, 4, 0x3F800000)], count := 1, c2 := 0x3F800000 })] }
    tensors := ([(21, shaped 0 [4, 4]), (22, shaped 0 [4, 4]), (23, shaped 0 [4, 4]), (24, shaped 0x10 [4, 4]), (25, shaped 9 [1, 2]),
      (26, shaped 0 [1, 64, 64]), (27, shaped 0 [64, 4]), (28, shaped 9 [4, 6]), (29, shaped 0 [4, 1]), (30, shaped 0 [4] 3), (31, shaped 0 [4] 3),
      (32, shaped 0 [2, 4, 4]), (33, shaped 9 [4, 4]), (34, shaped 0x10 [4, 4])] : List (Nat × TensorDesc)).map (fun q =>
        (q.1, some { desc := q.2, half0 := if q.1 = 21 then [(0, tileOf 21 0 twoVals)] else [] })) }

/-- The task of a course's station 0 on tile 0, run by an engine. -/
def task0 (c : Course) (engine : Nat) : Task :=
  ⟨0, { entry0 with engine := engine }, c, c.stations.headD { id := 0, typ := 0, inPorts := 0, outPorts := 0 }⟩
def benchOf (c : Course) (engine : Nat) : State := bench c { entry0 with engine := engine }

/-- LOAD from tensor 21, from a host image, and FILL. -/
def loadCourse (fields : List (Nat × Nat × Nat)) : Course := solo stLoad (block 40 ((8, 3, 0xFAC688) :: fields)) [] [22]

theorem wit_Load : ∀ f ∈ [[(4, 3, 21)], [(0, 1, 1), (32, 8, 64)], [(0, 1, 2), (12, 4, 0x3F800000)]],
    let c := loadCourse f
    (benchOf c 4).runs (task0 c 4) none (fun _ => false) ∧ (benchOf c 4).loadBad (task0 c 4) = none ∧
      ((benchOf c 4).loadTiles c (task0 c 4).st).contains 0 = true := by
  intro f hf
  simp only [List.mem_cons, List.not_mem_nil, or_false] at hf
  rcases hf with rfl | rfl | rfl <;> exact ⟨runs_of (by decide +kernel), by decide +kernel, by decide +kernel⟩

theorem wit_Load_host : let c := loadCourse [(0, 1, 1), (32, 8, 64)]
    (benchOf c 4).ideCause ((benchOf c 4).polderOf ((task0 c 4).outId 0)) 64 4096 = none ∧
      (match (benchOf c 4).hostTile (task0 c 4) 0 [0] 0 [1, 2] with
        | .ok x => !x.hdr.longSum
        | .error _ => false) = true := by decide +kernel

theorem wit_Load_bad : let c := loadCourse [(0, 1, 3)]
    (benchOf c 4).runs (task0 c 4) none (fun _ => false) ∧ (benchOf c 4).loadBad (task0 c 4) = some 0 :=
  ⟨runs_of (by decide +kernel), by decide +kernel⟩

/-- GATHER from tensor 32 into tensor 26 by a list of one entry. -/
def gatherCourse (n : Nat) : Course := solo stGather (block 16 [(0, 3, 32)]) [(25, [tileOf 25 0 [(0, n)]])] [26]

theorem wit_Gather : ∀ n ∈ [1, 9], let c := gatherCourse n
    (benchOf c 4).runs (task0 c 4) none (fun _ => false) ∧ (benchOf c 4).gatherBad (task0 c 4) = none ∧
      (task0 c 4).ready (listNeeds 0 1) = true ∧
      entryBad ((benchOf c 4).descOf 32).tileCount ((benchOf c 4).holds ((benchOf c 4).descOf 32)) ((task0 c 4).listEntry 0 0)
        = decide (n = 9) ∧
      ((benchOf c 4).readTile 32 1 0).hdr.longSum = false := by
  intro n hn
  simp only [List.mem_cons, List.not_mem_nil, or_false] at hn
  rcases hn with rfl | rfl <;>
    exact ⟨runs_of (by decide +kernel), by decide +kernel, by decide +kernel, by decide +kernel, by decide +kernel⟩

/-- STORE in a mode, of a tile into a tensor. -/
def storeCourse (mode id : Nat) (x : Tile) : Course :=
  solo stStore (block 24 ([(0, 1, mode)] ++ if mode = 0 then [] else [(8, 8, 0x1000)])) [(id, [x])] []
def blockOf (id : Nat) : Tile := { hdr := { tensor := id, format := 0x10 }, form := bfEmpty }

theorem wit_Store : ∀ q ∈ [(0, 22, tileOf 22 0 twoVals), (1, 22, tileOf 22 0 twoVals), (1, 24, blockOf 24), (2, 22, tileOf 22 0 twoVals)],
    let c := storeCourse q.1 q.2.1 q.2.2
    (benchOf c 4).runs (task0 c 4) none (fun _ => false) ∧ (benchOf c 4).storeBad (task0 c 4) = none ∧
      ((task0 c 4).tile? 0 0 = some q.2.2 ∧ (benchOf c 4).copyHolds (task0 c 4) = false ∧
        storeFits ((benchOf c 4).descOf q.2.1) q.2.2 = true ∧ (benchOf c 4).hostDenial (task0 c 4) q.2.1 = none ∧
        (benchOf c 4).lastStore (task0 c 4) = true ∧ (benchOf c 4).poisons c q.2.2 = false ∧
        (match (benchOf c 4).storedTile (task0 c 4) q.2.1 (q.2.2.poisoned false) with
          | .ok y => !y.lenient
          | .error _ => false) = true) := by
  intro q hq
  simp only [List.mem_cons, List.not_mem_nil, or_false] at hq
  rcases hq with rfl | rfl | rfl | rfl <;> exact ⟨runs_of (by decide +kernel), by decide +kernel, by decide +kernel⟩

/-- SCATTER_ACC of the one tile of tensor 26 into tile 1 of tensor 32. -/
def scatterCourse (mode : Nat) : Course :=
  { solo stScatter (block 16 [(0, 1, mode), (2, 3, 32)]) [(26, [tileOf 26 0 twoVals]), (25, [tileOf 25 0 [(0, 1)]])] [] with }
def scatterTask (mode : Nat) : Task := { task0 (scatterCourse mode) 4 with e := { entry0 with tile := 1 } }

theorem wit_Scatter : ∀ m ∈ [0, 2],
    let s := bench (scatterCourse m) { entry0 with tile := 1 }
    s.runs (scatterTask m) none (fun _ => false) ∧ s.scatterBad (scatterTask m) = none ∧ (s.tensor 32).isSome = true ∧
      (scatterTask m).ready ((scatterTask m).scatterNeeds 1) = true ∧
      entryBad (s.descOf 32).tileCount (fun _ => true) ((scatterTask m).listEntry 1 0) = false ∧
      (scatterTask m).namedBy 1 1 = [0] ∧ s.holds (s.descOf 32) 1 = true := by
  intro m hm
  simp only [List.mem_cons, List.not_mem_nil, or_false] at hm
  rcases hm with rfl | rfl <;> exact ⟨runs_of (by decide +kernel), by decide +kernel⟩

/-- The row products on 4 × 4 operands. -/
def rowCourse (typ : Nat) : Course :=
  solo typ (block 16 [])
    [if typ = stSpsp then (34, [blockOf 34]) else (21, [tileOf 21 0 twoVals]),
     if typ = stMatmul then (22, [tileOf 22 0 twoVals]) else (24, [blockOf 24])] [23]

theorem wit_RowProducts : ∀ typ ∈ [stMatmul, stSpmm, stSpmmT, stSpsp], let c := rowCourse typ
    let s := benchOf c 0
    let t := task0 c 0
    s.runs t none (fun _ => false) ∧ (if typ = stMatmul then s.matmulBad t else s.spmmBad t) = none ∧ t.ready (s.rowNeeds t) = true ∧
      s.answered t (s.rowTask t) = true ∧ s.remoteBad (s.taskRequest t (s.rowTask t)) = none ∧
      s.shippedValues t (s.rowTask t) = none ∧ s.bankReady t = true ∧ t.e.reachCount = 0 ∧
      (s.rowTask t).part = false := by
  intro typ h
  simp only [List.mem_cons, List.not_mem_nil, or_false] at h
  rcases h with rfl | rfl | rfl | rfl <;> exact ⟨runs_of (by decide +kernel), by decide +kernel⟩

/-- With the norms of its result, and as a part that is the whole reduction or one that leaves reach 0 missing. -/
theorem wit_RowProducts_norm :
    let c := solo stMatmul (block 16 [(1, 1, 1)]) [(21, [tileOf 21 0 twoVals]), (22, [tileOf 22 0 twoVals])] [23, 29]
    let s := benchOf c 0
    let t := task0 c 0
    s.runs t none (fun _ => false) ∧ s.matmulBad t = none ∧ t.ready (s.rowNeeds t) = true ∧ (s.rowTask t).p.norm ≠ 0 ∧
      s.answered t (s.rowTask t) = true ∧ s.bankReady t = true :=
  ⟨runs_of (by decide +kernel), by decide +kernel⟩

/-- A grouped MATMUL whose one expert was shipped to its owner, and the owner's answer. -/
theorem wit_RowProducts_shipped :
    let c0 := solo stMatmul (block 16 [(0, 1, 2)]) [(21, [tileOf 21 0 twoVals]), (22, [tileOf 22 0 twoVals])] [23]
    let c := { c0 with stations := c0.stations ++
      [{ id := 1, typ := stRoute, inPorts := 1, outPorts := 1, params := block 32 [(8, 4, 1), (12, 4, 4), (16, 3, 22)] }] }
    let r : ExpertReq := { key := { operand := 22, expert := 0, course := 3, station := 0 }, owner := 1, shipped := true, sent := true
                           answers := [tileOf 23 0 twoVals], done := true }
    let s := { benchOf c 0 with net := { (benchOf c 0).net with requests := [r] } }
    let t := task0 c 0
    let w := s.rowTask t
    s.runs t none (fun _ => false) ∧ s.matmulBad t = none ∧ t.ready (s.rowNeeds t) = true ∧ s.answered t w = true ∧
      s.remoteBad (s.taskRequest t w) = none ∧ (s.shippedValues t w).isSome = true ∧ s.wardenTask t none (fun _ => false) = none :=
  ⟨runs_of (by decide +kernel), by decide +kernel⟩

theorem wit_RowProducts_part : ∀ first ∈ [0, 5], let c := rowCourse stMatmul
    let e := { entry0 with engine := 0, reachFirst := first, reachCount := 1 }
    let s := bench c e
    let t : Task := { task0 c 0 with e := e }
    let w := s.rowTask t
    let mine := s.reachTiles t false (s.partSums t w).1 []
    s.runs t none (fun _ => false) ∧ s.matmulBad t = none ∧ t.ready (s.rowNeeds t) = true ∧ s.answered t w = true ∧
      s.bankReady t = true ∧ w.joined (s.allSums t mine) = decide (first = 0) ∧ w.part = false := by
  intro first h
  simp only [List.mem_cons, List.not_mem_nil, or_false] at h
  rcases h with rfl | rfl <;> exact ⟨runs_of (by decide +kernel), by decide +kernel⟩

theorem wit_RowProducts_bad : let c := { rowCourse stMatmul with
      stations := (rowCourse stMatmul).stations.map (fun st => { st with params := [8] }) }
    (benchOf c 0).runs (task0 c 0) none (fun _ => false) ∧ (benchOf c 0).matmulBad (task0 c 0) = some 0 :=
  ⟨runs_of (by decide +kernel), by decide +kernel⟩

/-- The blocks of an SPSP task pass through the MU of its engine. -/
theorem wit_RowProducts_mu : (benchOf (rowCourse stSpsp) 0).usesMu (task0 (rowCourse stSpsp) 0) 0 = true ∧
    (benchOf (rowCourse stSpsp) 0).usesMu (task0 (rowCourse stSpsp) 0) 1 = false := by decide +kernel

theorem wit_Splits : (0 : Nat) < 4096 := by decide

/-- SDDMM over the mask of tensor 24, with candidates of tensor 33's list or without. -/
def sddmmCourse : Course := solo stSddmm (block 16 [(4, 3, 24)]) [(21, [tileOf 21 0 twoVals]), (22, [tileOf 22 0 twoVals])] [34]
def listDesc : TensorDesc := shaped 9 [2]
def candCourse (n : Nat) : Course :=
  solo stSddmm (block 16 [(4, 3, 24)]) [(21, [tileOf 21 0 twoVals]), (22, [tileOf 22 0 twoVals]), (35, [tileOf 35 0 [(0, 3), (1, n)]])] [34, 34]
def candState (n : Nat) : State := { (benchOf (candCourse n) 0).setTensor 35 (some { desc := listDesc }) with pending := [] }

theorem wit_Sddmm : (benchOf sddmmCourse 0).runs (task0 sddmmCourse 0) none (fun _ => false) ∧
    (benchOf sddmmCourse 0).sddmmBad (task0 sddmmCourse 0) = none ∧
    (task0 sddmmCourse 0).ready ((benchOf sddmmCourse 0).sddmmNeeds (task0 sddmmCourse 0)) = true ∧
    (benchOf sddmmCourse 0).maskReady (task0 sddmmCourse 0) = true ∧ (benchOf sddmmCourse 0).shippedMask (task0 sddmmCourse 0) = none ∧ (benchOf sddmmCourse 0).bankReady (task0 sddmmCourse 0) = true ∧
    (benchOf sddmmCourse 0).remoteBad ((benchOf sddmmCourse 0).maskRequest (task0 sddmmCourse 0)) = none := ⟨runs_of (by decide +kernel), by decide +kernel⟩

theorem wit_Sddmm_candidates : ∀ n ∈ [6, 16], let t := task0 (candCourse n) 0
    (candState n).runs t none (fun _ => false) ∧ (candState n).sddmmBad t = none ∧ t.ready ((candState n).sddmmNeeds t) = true ∧
      (listValues (t.tiles 2)).any (fun y => decide (((candState n).descOf (t.outId 0)).elemCount ≤ y)) = decide (n = 16) := by
  intro n h
  simp only [List.mem_cons, List.not_mem_nil, or_false] at h
  rcases h with rfl | rfl <;> exact ⟨runs_of (by decide +kernel), by decide +kernel⟩

/-- A VEC that loads its tile and stores it. -/
def vecWord (opc pass d a : Nat) : Nat := opc * 2 ^ 58 + pass * 2 ^ 53 + 127 * 2 ^ 46 + d * 2 ^ 40 + a * 2 ^ 34
def vecCourse (passes : Nat) : Course :=
  solo stVec (block 144 [(1, 1, passes), (2, 1, 2), (4, 2, 2)] ++ toLe 8 (vecWord 0x0E 1 1 0) ++ toLe 8 (vecWord 0x0F 1 0 1))
    [(21, [tileOf 21 0 twoVals])] [22]

theorem wit_Vec : let t := task0 (vecCourse 1) 1
    (benchOf (vecCourse 1) 1).runs t none (fun _ => false) ∧ (benchOf (vecCourse 1) 1).vecBad t = none ∧
      t.ready ((benchOf (vecCourse 1) 1).vecNeeds t) = true ∧
      ((benchOf (vecCourse 1) 1).vecRun t).outs.all (fun o => !o.2.hdr.longSum) = true ∧
      (benchOf (vecCourse 0) 1).vecBad (task0 (vecCourse 0) 1) = some 1 := ⟨runs_of (by decide +kernel), by decide +kernel⟩

/-- ATTEND of 4 × 4 queries, keys and values. -/
def attendCourse (opt : Nat) : Course := solo stAttend (block 16 [(0, 1, opt), (4, 4, 0x3F000000)])
  [(21, [tileOf 21 0 twoVals]), (22, [tileOf 22 0 twoVals]), (23, [tileOf 23 0 twoVals])] [23]

theorem wit_Attend : let t := task0 (attendCourse 0) 0
    (benchOf (attendCourse 0) 0).runs t none (fun _ => false) ∧ (benchOf (attendCourse 0) 0).attendBad t = none ∧
      t.ready ((benchOf (attendCourse 0) 0).attendNeeds t) = true ∧
      t.maskBad 3 ((benchOf (attendCourse 0) 0).descOf (t.inId 3)).colOrder = none ∧ (benchOf (attendCourse 0) 0).attendBanks t = true ∧
      (benchOf (attendCourse 8) 0).attendBad (task0 (attendCourse 8) 0) = some 0 := ⟨runs_of (by decide +kernel), by decide +kernel⟩

/-- REDUCE of rows, a sum or a largest value, into a column. -/
def reduceCourse (kind : Nat) : Course := solo stReduce (block 16 [(0, 1, kind), (1, 1, 1), (3, 1, 1)]) [(21, [tileOf 21 0 twoVals])] [29]

theorem wit_Reduce : ∀ k ∈ [0, 3], let t := task0 (reduceCourse k) 1
    (benchOf (reduceCourse k) 1).runs t (reduceAgg k ((benchOf (reduceCourse k) 1).reduceElems t false)) (fun _ => false) ∧
      (benchOf (reduceCourse k) 1).reduceBad t = none ∧ t.ready ((benchOf (reduceCourse k) 1).reduceNeeds t) = true ∧ (t.st.p 5 1).testBit 0 = false ∧
      (benchOf (reduceCourse k) 1).shardedDim ((benchOf (reduceCourse k) 1).descOf (t.inId 0)) ((benchOf (reduceCourse k) 1).reduceDim t) = false := by
  intro k h
  simp only [List.mem_cons, List.not_mem_nil, or_false] at h
  rcases h with rfl | rfl <;> exact ⟨runs_of (by decide +kernel), by decide +kernel⟩

theorem wit_Reduce_bad : (benchOf (reduceCourse 9) 1).runs (task0 (reduceCourse 9) 1) none (fun _ => false) ∧
    (benchOf (reduceCourse 9) 1).reduceBad (task0 (reduceCourse 9) 1) = some 0 := ⟨runs_of (by decide +kernel), by decide +kernel⟩

/-- ROUTE of four tokens and one expert of capacity 64. -/
def routeFields (mode opt : Nat) : List Byte := block 48 [(0, 1, mode), (2, 1, 1), (4, 1, 1), (5, 1, opt), (8, 4, 1), (12, 4, 64)]
def dispatchCourse : Course := solo stRoute (routeFields 0 0) [(29, [tileOf 29 0 twoVals]), (21, [tileOf 21 0 twoVals])] [27, 28]

theorem wit_Dispatch : let t := task0 dispatchCourse 1
    (benchOf dispatchCourse 1).runs t none (fun _ => false) ∧ t.ready ((benchOf dispatchCourse 1).routeNeeds t) = true ∧
      (benchOf dispatchCourse 1).routeBad t = none := ⟨runs_of (by decide +kernel), by decide +kernel⟩

/-- COMBINE and REDISPATCH read a routing record: each token's slot and weight, or a slot beyond the layout. -/
def recordTile (slot : Nat) : Tile :=
  let es : FMap Nat := (List.range 4).flatMap (fun r =>
    [(64 * r + 1, slot + r), (64 * r + 2, 0x3F800000), (64 * r + 3, 0xFFFFFFFF), (64 * r + 4, 0xFFFFFFFF)])
  { hdr := { tensor := 28, format := 9, extRows := 3, extCols := 5 }, elems := es }
def routeCourse (mode slot : Nat) : Course :=
  if mode = 1 then solo stRoute (routeFields 1 0) [(27, [tileOf 27 0 twoVals]), (28, [recordTile slot])] [22, 28]
  else solo stRoute (routeFields 2 0) [(21, [tileOf 21 0 twoVals]), (28, [recordTile slot])] [27, 28]

def picksOf (mode slot : Nat) : Except (Nat × Nat) (List (Nat × List (Option Pick))) :=
  let t := task0 (routeCourse mode slot) 1
  let s := benchOf (routeCourse mode slot) 1
  s.readPicks t t.st.route (s.descOf (if mode = 1 then t.outId 0 else t.inId 0))

theorem wit_Route : ∀ q ∈ [(1, 0), (1, 99), (2, 0), (2, 99)], let t := task0 (routeCourse q.1 q.2) 1
    let s := benchOf (routeCourse q.1 q.2) 1
    s.runs t none (fun _ => false) ∧ t.ready (s.routeNeeds t) = true ∧ s.routeBad t = none ∧
      (∀ o ∈ t.passRecord, o.2.hdr.longSum = false) ∧
      (match picksOf q.1 q.2 with
        | .ok _ => decide (q.2 = 0)
        | .error _ => decide (q.2 = 99)) = true ∧ t.st.route.weighted = false := by
  intro q h
  simp only [List.mem_cons, List.not_mem_nil, or_false] at h
  rcases h with rfl | rfl | rfl | rfl <;> exact ⟨runs_of (by decide +kernel), by decide +kernel⟩

/-- UPDATE by momentum of tensor 32, and CLIP. -/
def updateCourse (step : Bool) (g : Nat) : Course :=
  { solo stUpdate (block 64 [(4, 3, 32), (20, 4, 0x3DCCCCCD), (24, 4, 0x3F666666), (56, 4, 0x3F800000)])
      [(21, [{ hdr := { tensor := 21, extRows := 3, extCols := 3 }, elems := [(0, g)] }])] [] with stepMode := step, step := 4 }

theorem wit_Update : ∀ q ∈ [(false, 0x3F800000), (true, 0x3F800000), (true, 0x7FC00000)], let t := task0 (updateCourse q.1 q.2) 2
    let s := benchOf (updateCourse q.1 q.2) 2
    s.runs t none (fun _ => false) ∧ s.updateBad t = none ∧ t.ready (s.updateNeeds t) = true ∧
      (s.sliceTiles (s.descOf 32)).contains 0 = true ∧ s.masksAgree t 32 0 = true ∧
      (t.c.stepMode && (t.c.veto || s.gradVeto t 32)) = decide (q.2 = 0x7FC00000) ∧
      (s.tensor 32).all (fun a => !a.desc.sparse && a.view.isNone) = true ∧ t.st.p 8 3 = 0 ∧ (t.st.hyper 0).opt ≠ 4 := by
  intro q h
  simp only [List.mem_cons, List.not_mem_nil, or_false] at h
  rcases h with rfl | rfl | rfl <;> exact ⟨runs_of (by decide +kernel), by decide +kernel⟩

def clipCourse : Course := solo stUpdate (block 64 [(0, 1, 5), (40, 4, 0x3F800000)]) [(30, [tileOf 30 0 twoVals])] [31]

theorem wit_Clip : (benchOf clipCourse 2).runs (task0 clipCourse 2) none (fun _ => false) ∧
    (benchOf clipCourse 2).clipBad (task0 clipCourse 2) = none ∧ (task0 clipCourse 2).tile? 0 0 = some (tileOf 30 0 twoVals) :=
  ⟨runs_of (by decide +kernel), by decide +kernel⟩

/-- RNG of words or numbers, and GAUGE. -/
def rngCourse (form id : Nat) : Course := solo stRng (block 8 [(0, 1, form)]) [] [id]
def gaugeCourse : Course := solo stGauge (block 8 []) [(21, [tileOf 21 0 twoVals])] [22]

theorem wit_Rng : ∀ q ∈ [(0, 33), (1, 22), (2, 22)], let c := rngCourse q.1 q.2
    (benchOf c 1).runs (task0 c 1) none (fun _ => false) ∧ (task0 c 1).st.params.length = 8 ∧ (task0 c 1).st.p 1 1 ≤ 1 ∧
      (task0 c 1).st.zero 2 8 = true ∧ ((benchOf c 1).descOf ((task0 c 1).outId 0)).sparse = false ∧
      ((benchOf c 1).descOf ((task0 c 1).outId 0)).format = (if q.1 = 0 then 9 else 0) := by
  intro q h
  simp only [List.mem_cons, List.not_mem_nil, or_false] at h
  rcases h with rfl | rfl | rfl <;> exact ⟨runs_of (by decide +kernel), by decide +kernel⟩

theorem wit_Gauge : (benchOf gaugeCourse 1).runs (task0 gaugeCourse 1) none (fun _ => false) ∧
    (task0 gaugeCourse 1).st.zero 2 8 = true ∧ (task0 gaugeCourse 1).tile? 0 0 = some (tileOf 21 0 twoVals) :=
  ⟨runs_of (by decide +kernel), by decide +kernel⟩

/-- HIST over tensor 24 by its own values, one unit for the whole tensor. -/
def histCourse : Course := solo stHist (block 16 [(4, 3, 24)]) [(21, [tileOf 21 0 twoVals])] [33]

theorem wit_Hist : let t := task0 histCourse 2
    (benchOf histCourse 2).runs t none (fun _ => false) ∧ (benchOf histCourse 2).histBad t = none ∧
      t.ready ((benchOf histCourse 2).histNeeds t) = true ∧
      ((benchOf histCourse 2).maskUnits ((benchOf histCourse 2).descOf 24) t.st.histJob.scope).contains 0 = true ∧
      (benchOf histCourse 2).otherSlice t t.st.histJob = none ∧
      ((benchOf histCourse 2).unitEntries t t.st.histJob 0 (some 0)).1.length < 2 ^ 32 ∧ t.st.histJob.scope ≠ 2 := by
  exact ⟨runs_of (by decide +kernel), by decide +kernel⟩

/-- REGROW of one position of tensor 24 by the scores of tensor 21, and PRUNE behind a HIST of the same job, vetoed or not. -/
def regrowCourse (veto : Bool) : Course :=
  { solo stRegrow (block 32 [(1, 1, 1), (8, 4, 1), (12, 3, 24)]) [(21, [{ tileOf 21 0 twoVals with hdr := { tensor := 21, extRows := 3, extCols := 3 } }])] [] with
    stepMode := true, step := 4, veto := veto }
def pruneCourse (veto : Bool) : Course :=
  let c := solo stPrune (block 32 [(1, 1, 0), (8, 4, 1), (12, 3, 24)]) [(33, [{ hdr := { tensor := 33, format := 9 }, elems := [] }])] []
  { c with
    stepMode := true, step := 4, veto := veto
    stations := c.stations ++ [{ id := 1, typ := stHist, inPorts := 1, outPorts := 1, params := block 16 [(4, 3, 24)] }]
    streams := c.streams.map (fun x => { x with prod := 1 }) }

theorem wit_Masks : ∀ c ∈ [regrowCourse false, regrowCourse true, pruneCourse false, pruneCourse true],
    let t := task0 c 2
    let s := benchOf c 2
    let m := t.st.maskJob
    s.runs t none (fun _ => false) ∧ s.maskBad t = none ∧ s.scoreBeyond t m = none ∧ t.ready (s.maskNeeds t) = true ∧
      (s.maskUnits (s.descOf m.target) m.scope).contains 0 = true ∧ s.pruneDone t = true ∧
      s.companionDiffers t m (s.unitTiles (s.descOf m.target) m.scope 0) = none ∧
      s.recountOk t m (s.unitEntries t m 0 t.st.scorePort).1 = true ∧ t.st.done.contains 0 = false ∧
      s.maskPoison t m (s.unitTiles (s.descOf m.target) m.scope 0) = false := by
  intro c h
  simp only [List.mem_cons, List.not_mem_nil, or_false] at h
  rcases h with rfl | rfl | rfl | rfl <;> exact ⟨runs_of (by decide +kernel), by decide +kernel⟩

/-- REGROW whose writes had landed before its replay, and one that reads a poisoned tile. -/
def landedCourse : Course :=
  { regrowCourse false with stations := (regrowCourse false).stations.map (fun st => { st with landed := [(0, 6)] }) }
def poisonCourse : Course :=
  { regrowCourse false with streams := (regrowCourse false).streams.map (fun x =>
      { x with tiles := x.tiles.map (fun (y : Tile) => { y with hdr := { y.hdr with poison := true } }) }) }

theorem wit_Masks_landed : FMap.get (fun _ => 0) (task0 landedCourse 2).st.landed 0 = 5 + 1 ∧
    ∀ q ∈ [(landedCourse, false), (poisonCourse, true)], let t := task0 q.1 2
      let s := benchOf q.1 2
      s.runs t none (fun _ => false) ∧
        s.maskPoison t t.st.maskJob (s.unitTiles (s.descOf t.st.maskJob.target) t.st.maskJob.scope 0) = q.2 := by
  refine ⟨by decide +kernel, fun q h => ?_⟩
  simp only [List.mem_cons, List.not_mem_nil, or_false] at h
  rcases h with rfl | rfl <;> exact ⟨runs_of (by decide +kernel), by decide +kernel⟩

theorem wit_Masks_writes : let t := task0 (regrowCourse false) 2
    let s := benchOf (regrowCourse false) 2
    let m := t.st.maskJob
    (s.unitTiles (s.descOf m.target) m.scope 0).all (fun k =>
      match s.maskWrites t m k (selectedIn (s.descOf m.target) k
          (selectUnit (s.unitEntries t m 0 t.st.scorePort).1 (s.selectCount t m 0) m.prune)) with
      | .ok _ => true
      | .error _ => false) = true := by decide +kernel

theorem wit_Gather_bad : let c := solo stGather (block 8 [(0, 3, 32)]) [(25, [tileOf 25 0 [(0, 1)]])] [26]
    (benchOf c 4).runs (task0 c 4) none (fun _ => false) ∧ ((benchOf c 4).gatherBad (task0 c 4)).any (fun w => w != 0x100) = true :=
  ⟨runs_of (by decide +kernel), by decide +kernel⟩

/-- A LOAD of a host image whose one block has a reserved form. -/
theorem wit_Load_violation : let c := solo stLoad (block 40 [(8, 3, 0xFAC688), (0, 1, 1), (32, 8, 64)]) [] [24]
    (benchOf c 4).loadBad (task0 c 4) = none ∧
      (match (benchOf c 4).hostTile (task0 c 4) 0 [0] 0 (List.replicate 64 255) with
        | .ok _ => false
        | .error _ => true) = true := by decide +kernel

/-! ## Witnesses of vector engines -/

/-- VE 1 of core 5 with two registers of context 1 written, an input tile of three rows, an output port, and a step of 128 elements. -/
def veCtx1 : VeCtx := { v := [(1, List.replicate 128 0x3F800000), (2, List.replicate 128 0xC0000000)], mks := [(1, List.replicate 256 true)] }
def veState (outs : List ConvSpec) (wide : Bool) : State :=
  up.setVe 5 1 { ctxs := [(1, veCtx1)], inputs := [{ hdr := { extRows := 2, extCols := 3 }, elems := twoVals }], outSpecs := outs, seed := 7, wide := wide }
def veOut : ConvSpec := { desc := shaped 0 [4, 4], tensor := 22 }

theorem get_all {α : Type} {d : Nat → α} {P : α → Prop} (h : ∀ k, P (d k)) :
    ∀ m : FMap α, (∀ x ∈ m, P x.2) → ∀ k, P (FMap.get d m k)
  | [], _, k => h k
  | x :: m, hm, k => by
    simp only [FMap.get]
    split
    · exact hm x (by simp)
    · exact get_all h m (fun y hy => hm y (by simp [hy])) k

theorem full_veCtx1 : veCtx1.full :=
  ⟨get_all (P := fun (l : List Nat) => l.length = 128) (fun _ => by simp only [zeroLanes, List.length_replicate]) _
      (by intro x hx; simp only [veCtx1, List.mem_cons, List.not_mem_nil, or_false] at hx; rcases hx with rfl | rfl <;> exact List.length_replicate ..),
    get_all (P := fun (l : List Bool) => l.length = 256) (fun _ => by simp only [zeroMask, List.length_replicate]) _
      (by intro x hx; simp only [veCtx1, List.mem_cons, List.not_mem_nil, or_false] at hx; rcases hx with rfl; exact List.length_replicate ..)⟩

/-- Lengths at both ends of their range, 32-bit and 16-bit. -/
theorem wit_Lanes : ∀ i ∈ ([{ vl := 1, d := 3, a := 1, b := 2 }, { typ := 1, vl := 128, d := 1, a := 1, b := 2 }] : List VeIns),
    (((veState [] (i.typ == 1)).veRun 5 1).ctx 1) = veCtx1 ∧ 1 ≤ i.vl ∧ i.vl ≤ 128 := by decide +kernel

theorem wit_Ports : ((veState [veOut] false).veRun 5 1).ctx 1 = veCtx1 ∧ ((veState [veOut] false).veRun 5 1).inputs[0]?.isSome = true ∧
    ((veState [veOut] false).veRun 5 1).outSpecs[0]? = some veOut ∧ ((veState [veOut] false).veRun 5 1).inputs[4 % 4]?.isSome = true := by
  decide +kernel

/-- VE 1 of core 5 with ports bound to queue 2, which holds a tile at its front, or nothing; and the context's step the tile's last. -/
def veQueued (filled : Bool) : State :=
  let v := (veState [veOut] false).veRun 5 1
  let s := (veState [veOut] false).setVe 5 1 { v with inQueues := [some 2], outQueues := [some 2], inCtx := [{}], ctxs := [(1, { veCtx1 with step := 31 })], tile := 3 }
  if filled then s.setQueue 5 2 (({} : TileQueue).push ((tileOf 21 3 twoVals).segments false)) else s

theorem wit_Queues : (∀ f ∈ [true, false], (veQueued f).veExists 5 1 = true ∧ ((veQueued f).veRun 5 1).inQueues.getD (0 % 4) none = some 2 ∧
      ((veQueued f).veRun 5 1).lastStep 1 = true ∧ 0 % 4 < ((veQueued f).veRun 5 1).outSpecs.length ∧
      (veQueued f).veWaits 5 1 0 = !f ∧ ((veQueued f).queue 5 2).frontWords.isSome = f ∧
      ((veQueued f).queue 5 2).roomFor 2 = !f) ∧
    ((veQueued true).queue 5 2).frontIndex = some 3 ∧ ((veQueued true).veRun 5 1).inputs.length = 1 ∧
    (veState [veOut] false).veWaits 5 1 0 = false ∧
    (((veOpStq 1 { vl := 1, a := 1 } ((veQueued false).veRun 5 1)).output 0 0 0).1.segments false).length = 2 := by
  decide +kernel

/-- RED over all lanes, by rows, from a slot and into a slot. -/
theorem wit_Red : ∀ q ∈ [(3, 128), (16 + 5, 128), (256 + 8, 7), (32, 128)], let v := (veState [] false).veRun 5 1
    let i : VeIns := { vl := q.2, d := 3, a := 1, imm := q.1 }
    v.ctx 1 = veCtx1 ∧ (redKindOf (i.imm % 16)).isSome = true ∧ i.typ = 0 ∧
      ((i.imm.testBit 8, i.imm.testBit 5, i.imm.testBit 4) = (false, false, false) ∨
        ((i.imm.testBit 8, i.imm.testBit 5, i.imm.testBit 4) = (false, false, true) ∧ veActive i ≤ 64 * v.stepRows) ∨
        i.imm.testBit 8 = true ∨
        ((i.imm.testBit 8, i.imm.testBit 5) = (false, true) ∧ v.inputs.head?.isSome = true ∧ v.outSpecs = [] ∧
          0 < v.stepRows ∧ v.stepRows * veCtx1.step + 0 < (v.inputs.headD {}).rows)) := by decide +kernel

/-- VE 1 of core 5 exists and VE 8 does not; the context's step is the tile's last, or not. -/
theorem wit_Ve : up.veExists 5 1 = true ∧ up.veExists 5 8 = false ∧ ((veState [veOut] false).veRun 5 1).lastStep 1 = false ∧
    (({ (veState [veOut] false).veRun 5 1 with ctxs := [(1, { veCtx1 with step := 31 })] } : VeRun)).lastStep 1 = true ∧
    ({ veCtx1 with step := 31 } : VeCtx).full ∧ (veState [veOut] false).veExists 5 1 = true :=
  ⟨by decide +kernel, by decide +kernel, by decide +kernel, by decide +kernel, ⟨full_veCtx1.1, full_veCtx1.2⟩, by decide +kernel⟩

/-! ## Witnesses of tile queues and matrix engines -/

/-- Queue 3 of core 5 in a state. -/
def queued (x : TileQueue) : State := up.setQueue 5 3 x
def fp32Bank (state : TqState) (words read : Nat) (second : Bool) : TqBank :=
  { state := state, header := [0, 0], words := List.replicate words 9, length := 1024, read := read, second := second }
def fp16Header : Nat × Nat := (0, 2 ^ 12)

theorem wit_Queue_fill : (queued {}).queueOk 5 3 = true ∧ (queued {}).queue 5 3 = {} ∧
    segmentWords [fp16Header.1 % 2 ^ 64, fp16Header.2 % 2 ^ 64] = some 1024 ∧ (({} : TileQueue).bank false).state = .empty ∧
    segmentWords [0 % 2 ^ 64, 31 * 2 ^ 12 % 2 ^ 64] = none := by decide +kernel

theorem wit_Queue_stall : let x : TileQueue := { bank0 := fp32Bank .full 1024 0 false }
    (queued x).queueOk 5 3 = true ∧ (queued x).queue 5 3 = x ∧ (x.bank x.fill).state ≠ .empty ∧
      (x.bank x.take).state = .full ∧ (x.bank x.take).read = 0 ∧ (x.bank x.take).words.length = (x.bank x.take).length ∧
      (x.bank x.take).header = [0, 0] ∧ 0 < (x.bank x.take).length := by decide +kernel

theorem wit_Queue_badHeader : let x : TileQueue := { bank0 := { fp32Bank .full 1024 0 false with header := [0, 2 ^ 12] } }
    (queued x).queueOk 5 3 = true ∧ (queued x).queue 5 3 = x ∧ 5 < up.part.cores ∧ (x.bank x.take).state = .full ∧
      twoSegments (x.bank x.take).header = false ∧ oddBits 4 = true := by decide +kernel

theorem wit_Queue_drop : ∀ x ∈ ([{ bank0 := fp32Bank .reading 1024 5 true, take := false },
      { bank0 := fp32Bank .reading 1024 5 false, bank1 := fp32Bank .full 1024 0 true }, {}] : List TileQueue),
    (queued x).queueOk 5 3 = true ∧ (queued x).queue 5 3 = x ∧ 17 % 16 = 1 ∧
      ((x.bank x.take).state = .reading ∧ (x.bank x.take).second = true ∨
        (x.bank x.take).state = .reading ∧ twoSegments (x.bank x.take).header = true ∧ (x.bank x.take).second = false ∧
          (x.bank (!x.take)).state = .full ∨
        (x.bank x.take).state ≠ .reading) := by decide +kernel

theorem wit_Queue_reserved : (2 ≤ 2 % 16) ∧ (2 ≤ 31 % 16) := by decide

/-- A queue that carries a stream. -/
theorem wit_Queue_streams : ({ up with courses := [{ running 3 1 with streams := (running 3 1).streams.map (fun (x : Stream) =>
    { x with buffer := .queue 5 3 }) }] } : State).queueStreams 5 3 ≠ [] ∧ (queued {}).queueStreams 5 3 = [] := by decide +kernel

/-- A MATMUL of 4 × 64 by 64 × 4 on ME 0 of core 0, and its engine. -/
def longCourse : Course := solo stMatmul (block 16 []) [(36, [tileOf 36 0 twoVals]), (27, [tileOf 27 0 twoVals])] [23]
def engined (m : Me) : State :=
  let s := (benchOf longCourse 0).setTensor 36 (some { desc := shaped 0 [4, 64] })
  s.setCore 0 { s.core 0 with mes := FMap.set (fun _ => {}) (s.core 0).mes 0 m }
def engineTask : Task := task0 longCourse 0

/-- What every statement about a bank's slabs asks of the engine's task. -/
def adding (s : State) : Bool :=
  s.meTask 0 0 0 == some engineTask && (s.productStop engineTask).isNone && s.productReady engineTask &&
    decide ((s.bankJob engineTask).cells.map (fun c => c.2)).Nodup

theorem wit_Engine_starts : let s := engined {}
    let m := (({} : Me)).closeWindows
    adding s = true ∧ (s.core 0).me 0 = {} ∧ m.bankOf 0 = none ∧ (m.bank m.nextB).state = .idle ∧
      (s.bankJob engineTask).slabs.length = 2 ∧ m.faultTimes = [] := by decide +kernel

theorem wit_Engine_adds : let m : Me := { bankA := { state := .acc, slab := 1, task := 0 }, nextB := true }
    let s := engined m
    adding s = true ∧ (s.core 0).me 0 = m ∧ m.closeWindows.bankOf 0 = some false ∧ (m.closeWindows.bank false).state = .acc ∧
      (m.closeWindows.bank false).slab < (s.bankJob engineTask).slabs.length := by decide +kernel

/-- A bank that folds or drains, whose output stream lies on no queue, or on a queue without room. -/
theorem wit_Engine_folds : ∀ st ∈ [BankState.fold, BankState.drain],
    let m : Me := { bankA := { state := st, slab := 2, last := true, task := 0, acc := [(0, 5)] }, nextB := true }
    let s := engined m
    let w := s.rowTask engineTask
    s.meTask 0 0 0 = some engineTask ∧ (s.core 0).me 0 = m ∧ (m.closeWindows.bank false).task = 0 ∧
      (m.closeWindows.bank false).state = st ∧ s.heldBack engineTask = false ∧ engineTask.e.reachCount = 0 ∧
      s.wardenTask engineTask none (fun id =>
        (s.rowTile engineTask w ((m.bank false).results (s.oneReach engineTask) (s.bankJob engineTask)).1).1.hdr.longSum
          && decide (engineTask.outId 0 = id)) = none ∧ engineTask.c.stepMode = false := by decide +kernel

/-- A draining bank of ME 0 of core 0, in a state with a task on it. -/
def draining (s : State) : State :=
  s.setCore 0 { s.core 0 with mes := FMap.set (fun _ => {}) (s.core 0).mes 0 { bankA := { state := .drain, last := true, task := 0 } } }

/-- A drain of a part that leaves reach 0 missing, and of an SDDMM. -/
theorem wit_Engine_parts :
    let e := { entry0 with engine := 0, reachFirst := 5, reachCount := 1 }
    let s := draining (bench (rowCourse stMatmul) e)
    let t : Task := { task0 (rowCourse stMatmul) 0 with e := e }
    let k := ((s.core 0).me 0).bank false
    let u := draining (benchOf sddmmCourse 0)
    let v := task0 sddmmCourse 0
    s.meTask 0 0 0 = some t ∧ k.state = .drain ∧ s.heldBack t = false ∧ t.st.typ ≠ stSddmm ∧ t.e.reachCount ≠ 0 ∧
      (s.rowTask t).joined (s.allSums t (s.reachTiles t (k.poisoned || s.productPoison t || t.e.poisoned)
        (k.reachSums (s.bankJob t) t.e.reachFirst t.e.reachCount) [])) = false ∧
      u.meTask 0 0 0 = some v ∧ (((u.core 0).me 0).bank false).state = .drain ∧ u.heldBack v = false ∧ v.st.typ = stSddmm ∧
      (u.tensor (v.st.p 4 3)).isSome = true ∧ u.wardenTask v none (fun _ => false) = none := by decide +kernel

/-- The same with its output on queue 1 of core 0, whose banks are full. -/
def fullQueue : State :=
  let c := { longCourse with streams := longCourse.streams.map (fun (x : Stream) =>
    if x.prod = 0 then { x with buffer := .queue 0 1 } else x) }
  let s := { engined { bankA := { state := .drain, slab := 2, last := true, task := 0 } } with courses := [c] }
  s.setQueue 0 1 { bank0 := fp32Bank .full 1024 0 false, bank1 := fp32Bank .full 1024 0 true }

theorem wit_Engine_waits : ((fullQueue.course 3).map (fun c => fullQueue.meTask 0 0 0 == some { engineTask with c := c }
    && fullQueue.heldBack { engineTask with c := c })) = some true := by decide +kernel

/-! ## Witnesses of the block as a whole -/

theorem wit_Fused : ∃ t, step { State.reset with pending := [.lifecycleTransition 1 true true] } = .next t ∧
    { State.reset with pending := [Instr.lifecycleTransition 1 true true] }.fusesOk = true := ⟨_, rfl, by decide⟩

theorem wit_Keeps : Memory.wf State.reset = true ∧ State.reset.tablesOk = true ∧ logOk State.reset.log ∧
    ∃ t, step State.reset = .next t := ⟨by decide, by decide, by unfold logOk; decide, _, rfl⟩

/-! ## Worked examples of the spec -/

/-- Example 2.1: a tile header. -/
theorem test_tile_header :
    ({ tensor := 1, index := 6149, format := 3, scaleBlk := 2, gen := 7, epoch := 2 } : TileHdr).toNat
      = 0x0000002000743FFF * 2 ^ 64 + 0x0000001805000001 := by decide +kernel

/-- Example 3.1: a block of E2M1 under the default and the round-up rule. -/
theorem test_block_scales : (fmtOf 7).map (fun f => [false, true].map (fun up =>
      let r := convertBlock f up (([0x41500000, 0x3F333333, 0xC039999A] ++ List.replicate 29 0).map (fun w => (val32 w, .nearest)))
      (r.1, r.2.1.take 4, r.2.2)))
    = some [(0x80, [7, 1, 0xB, 0], flInx ||| flUnf), (0x81, [5, 0, 9, 0], flInx ||| flUnf)] := by decide +kernel

/-- Example 3.2: 1.3 rounded stochastically to E5M2. -/
theorem test_stochastic : (fmtOf 4).map (fun f => [0x20000000, 0x9E3779B9].map (fun w => f.convert (.stochastic w) false (val32 0x3FA66666)))
    = some [(0x3E, flInx), (0x3D, flInx)] := by decide +kernel

/-- Example 3.3: FP32 to E4M3. -/
theorem test_convert_e4m3 : (fmtOf 3).map (fun f => [0x3F880000, 0x3F980000, 0x43E80000, 0x43E88000, 0x3B000000, 0x3A800000, 0x80000000,
      0x7F800000, 0xFFC01234].map (fun w => f.convert .nearest false (val32 w)))
    = some [(0x38, flInx), (0x3A, flInx), (0x7E, flInx), (0x7E, flOvf ||| flInx), (1, 0), (0, flUnf ||| flInx), (0x80, 0),
        (0x7E, flOvf ||| flInx), (0x7F, 0)] := by decide +kernel

/-- Example 4.1: three windows, one skipped. -/
theorem test_reference_order : (fmtOf 3).map (fun f =>
      let at' (k : Nat) : Nat × Nat := match k with
        | 0 => (0x7E, 0x7E) | 1 => (0x30, 8) | 2 => (0x30, 8) | 40 => (0x7F, 0) | 64 => (0xB8, 0x7E) | _ => (0, 0)
      refSum 32 4096 ((List.range 96).map (fun k => mkTerm (f.decode (at' k).1) (f.decode (at' k).2))) none none)
    = some (0x48439001, 0) := by decide +kernel

/-- Example 4.2: a reach length changes the bits. -/
theorem test_reaches :
    let ts := (List.range 768).map (fun k =>
      if k = 0 then mkTerm (val32 0x45800000) (val32 0x45800000)
      else if k = 256 ∨ k = 512 then mkTerm valOne valOne else none)
    refSum 1 256 ts none none = (0x4B800001, 0) ∧ refSum 1 4096 ts none none = (0x4B800000, flInx) := by decide +kernel

/-- Example 4.3: an overflow and a NaN in different windows. -/
theorem test_mixed_dot : (fmtOf 3).map (fun f =>
      let x (k : Nat) : Val := scaledVal f (match k with | 0 => 0x7E | 40 => 0x7F | 70 => 0x38 | _ => 0) (if k < 32 then 0xFE else 0x7F)
      let y (k : Nat) : Val := scaledVal f (match k with | 0 => 0x7E | 40 => 0x38 | 70 => 0x38 | _ => 0) 0x7F
      refSum 32 4096 ((List.range 96).map (fun k => mkTerm (x k) (y k))) none none)
    = some (0x7FC00000, flOvf ||| flInx) := by decide +kernel

/-- Example 6.1: the data of a TS-E block and its index entry. -/
def sparseDesc (form vf blk : Nat) : TensorDesc := { shaped form [64, 64] with valueFormat := vf, scaleBlk := blk }
def sparseBlock : Tile × Flags :=
  let vs : List (Nat × Nat) := [(3, 0x3F000000), (40, 0x3FA00000), (71, 0xC0000000), (97, 0), (383, 0x40400000), (4032, 0xBF400000)]
  ({ desc := sparseDesc 0x10 3 2 } : ConvSpec).block ⟨bfE, vs.map (fun v => (v.1, (false, v.1 == 97))), false⟩ 0 (fun _ => .nearest)
    (fun p => val32 (FMap.get (fun _ => 0) vs p))

theorem test_sparse_block : ((sparseDesc 0x10 3 2).blockData sparseBlock.1).map (fun b => b.toNat)
      = [3, 0, 0x28, 0, 0x47, 0, 0x61, 0x10, 0x7F, 1, 0xC0, 0x0F] ++ List.replicate 52 0
        ++ [0x76, 0x77, 0x78, 0x7F, 0x78, 0x76, 0, 0, 0x78, 0x7A, 0xF8, 0, 0x7C, 0xFC] ++ List.replicate 50 0 ∧
    sparseBlock.1.entry 18 = 0x12000031 := by decide +kernel

/-- Example 6.2: repacking with hysteresis. -/
theorem test_repack : [(bfE, 3000), (bfE, 3100), (bfD, 2900), (bfD, 2800)].map (fun q =>
      let form := repackForm bfE 3 q.1 q.2 4096 false
      (form, blockSize form q.2 128 8)) = [(bfE, 9152), (bfD, 4736), (bfD, 4736), (bfE, 8576)] := by decide +kernel

/-- Example 6.3: an N:M block, and what a group with too many values does. -/
theorem test_nm_block :
    let mask (ps : List Nat) : MaskMap := ps.map (fun p => (p, (false, false)))
    (match layoutBlock (sparseDesc 0x12 3 0) 64 64 0 false (mask [1, 3, 4, 12, 14]) with
      | .ok l => (packCodes 2 ((l.pos.take 8).map (fun q => q.1 % 4))).map (fun b => b.toNat) == [0x4D, 0x84]
          && l.form == 3 && decide (l.pos.length = 2048)
      | .error _ => false) = true ∧
    (match layoutBlock (sparseDesc 0x12 3 0) 64 64 0 false (mask [1, 3, 4, 12, 13, 14]) with
      | .ok _ => 0
      | .error c => c) = 6 := by decide +kernel

/-- Example 8.1: an initial value. -/
theorem test_initial_value : mul32 0x3C000000 (uniformOf 0x9E3779B9) = (0x3AF1BBCC, 0) := by decide +kernel

/-- Example 9.2: the counter of a regrowth score. -/
theorem test_counter : philoxCounter 2 (4185316 / 4) 1200 .regrowth = ⟨0x000FF739, 0xB0200000, 4, 0x200⟩ := by decide +kernel

/-- Example 9.3: the weir over four steps of an E4M3 tensor, and its thousandth clean step. -/
theorem test_weir :
    let run (r : ScaleRec) (a : Nat) (o : Bool) : ScaleRec := weirDecide 3 r { seen := true, amax := a, ovf := o } false
    let r0 : ScaleRec := { s := 0x3F800000, h := 0x43960000 :: List.replicate 15 0, valid := true, clean := 998 }
    let r1 := run r0 0x439B0000 false
    let r2 := run r1 0x447A0000 true
    let r3 := run r2 0x43E10000 false
    let r4 := (List.range 15).foldl (fun r _ => run r 0x43A00000 false) r3
    [r1, r2, r3, r4, run { r4 with clean := 999, h := List.replicate 16 0x43A00000 } 0x43A00000 false].map (fun r => (r.s, r.clean))
      = [(0x3F800000, 999), (0x40800000, 0), (0x40800000, 1), (0x40800000, 16), (0x40000000, 0)] := by decide +kernel

/-- Example 10.1: a permute past VL. -/
theorem test_permute :
    let s := up.setVe 0 0 { ctxs := [(0, { v := [(1, [0x3F800000, 0x40000000, 0x40400000, 0x40800000] ++ List.replicate 124 0),
      (2, [3, 0, 4, 0xFFFFFFFF] ++ List.replicate 124 0), (3, List.replicate 128 0xBF800000)] })] }
    [0, 1].map (fun imm => match exec (.vePerm 0 0 0 { vl := 4, d := 4, a := 1, b := 2, c := 3, imm := imm }) s with
      | .next u => ((((u.veRun 0 0).ctx 0).reg 4).take 5, (u.veRun 0 0).flags)
      | _ => ([], 0)) = [([0x40800000, 0x3F800000, 0, 0, 0], flRange), ([0x40800000, 0x3F800000, 0xBF800000, 0xBF800000, 0], flRange)] := by
  decide +kernel

/-- Example 11.1: slots under two orders of panels; example 11.3: collisions in list order. -/
theorem test_layout : slotOf false 5 16 0 3 10 = 66 ∧ slotOf true 5 16 0 3 10 = 53 ∧ elemBlock false 2 8 60 = 17 ∧
    chainSum [0x3F800000, 0x4B800000, 0x3F800000, 0x3F800000] = (0x4B800002, flInx) := by decide +kernel

/-- Example 13.1: eight partials in two nodes; as eight nodes they give another value. -/
def exMesh (node : Nat → Nat) : List MeshEntry :=
  (List.range 8).map (fun d => { device := d, nodeId := node d, localRank := d % 4, coord := [d, 0, 0, 0] })
def exGot (xs : List (Nat × Nat × Pair)) (leg dev : Nat) : Option XVal :=
  (xs.find? (fun x => x.1 = leg && x.2.1 = dev)).map (fun x => ⟨[x.2.2], 0, 0⟩)
def exTurn (ps : List MeshEntry) (me own : Nat) (xs : List (Nat × Nat × Pair)) : Option (Nat × Nat × List Pair) :=
  (turnOf false ps me (exGot xs) (.ofValues [own] 0 0)).map (fun r => (r.leg, r.dst, r.v.pairs))

theorem test_exchange_order :
    exTurn (exMesh (fun d => d / 4)) 0 0x4B800000 [(0, 1, ⟨0x3F800000, 0⟩), (0, 2, ⟨0x40000000, 0⟩)]
      = some (legBetween, 4, [⟨0x4B800002, 0⟩]) ∧
    exTurn (exMesh (fun d => d / 4)) 4 0xCB800000 [(0, 5, ⟨0x3F800000, 0⟩), (0, 6, ⟨0x40000000, 0⟩), (1, 0, ⟨0x4B800002, 0⟩)]
      = some (legResult, 4, [⟨0x40E00000, 0⟩]) ∧
    exTurn (exMesh id) 7 0x3F800000 [(1, 6, ⟨0x40000000, 0x40400000⟩)] = some (legResult, 7, [⟨0x40C00000, 0⟩]) ∧
    exTurn (exMesh id) 7 0x3F800000 [] = none := by decide +kernel

/-- Example 13.2: the hops of four participants, with a rescale in the distribution leg. -/
def exHop (f : Fmt) (me own code : Nat) : Option XCoded :=
  (turnOf false ((exMesh id).take 4) me (fun leg d => if leg = legBetween ∧ d + 1 = me then some (decodeBlock f 0 127 [code]) else none)
    (.ofValues [own] (agreedScale f 4 [prepassByte [0x42F00000], prepassByte [0x42EC0000]]) 0)).map (fun r => r.v.encode f)

theorem test_exchange_rescale : (fmtOf 3).all (fun f =>
    decide (exHop f 0 0x42F00000 0 = some ⟨[0x6F], 0x7F, false, 0⟩) && decide (exHop f 1 0x42EC0000 0x6F = some ⟨[0x77], 0x7F, false, flInx⟩)
      && decide (exHop f 2 0x42E80000 0x77 = some ⟨[0x7B], 0x7F, false, flInx⟩)
      && (exHop f 3 0x42E80000 0x7B).all (fun e => decide (e = ⟨[0x77], 0x80, true, flInx⟩)
        && decide ((decodeBlock f 0 e.scale e.codes).pairs = [⟨0x43F00000, 0⟩]))) = true := by decide +kernel

/-- Example 14.2: capacity under both overflow modes. -/
def exRouting (residual : Bool) : Picking :=
  selectExperts { topk := 2, residual := residual, depth := 3, norm := false, weighted := false, stats := false, experts := 5, cap := 64 } 0
    ((List.range 65).map (fun t => (t, candidates [0x3F000000, 0x3F000000, 0x80000000, 0, 0x7FC00000])))

theorem test_capacity :
    ((exRouting false).of 64).map (fun p => p.map (fun q => (q.expert, q.row, q.score))) = [some (1, 64, 0x3F000000), some (2, 129, 0x80000000)] ∧
    (exRouting false).fallbacks = 3 ∧ (exRouting false).passed = 0 ∧
    [0, 1, 2, 3].map (FMap.get (fun _ => 0) (exRouting false).loads) = [64, 64, 2, 0] ∧
    ((exRouting true).of 64).map (fun p => p.isSome) = [false, false] ∧ (exRouting true).passed = 2 ∧ (exRouting true).fallbacks = 0 := by
  decide +kernel

/-- Example 16.1: the core allowance at 2.4 kW, the voltages of two steps, and the energies that they project. -/
theorem test_levee : stepMv 19 = 790 ∧ stepMv 18 = 775 ∧
    (up.setLevee (fun l => { l with nonCore := 8300 })).coreAllowance / 1000000 = 14412 ∧
    14412 < scaleEnergy 21272000000 790 * 1350 / 1600 / 1000000 ∧ scaleEnergy 21272000000 775 * 1300 / 1600 / 1000000 ≤ 14412 := by
  decide +kernel

/-- Example 16.2: the state chosen at 150 µs, and after a hint of 20 µs from ring 1. -/
def resting (hint max : Nat) : State :=
  let s := ((up.setReg ⟨.sqCtl, 1, 0⟩ 0x80000004).setReg ⟨.sqCtl, 2, 0⟩ 0x80000004)
  let s := (s.setSq 1 { wakeTol := some hint }).setSq 2 { wakeTol := some 0xFFFFFFFF }
  (s.setReg ⟨.wakeTolerance, 0, 0⟩ 150000).setReg ⟨.powerCtl, 0, 0⟩ (setF (up.reg ⟨.powerCtl, 0, 0⟩) 10 8 max)

theorem test_idle_choice : [(500000, 4), (20000, 4), (500000, 1)].map (fun q =>
    ((resting q.1 q.2).enabledRings.length, (resting q.1 q.2).tolerance, (resting q.1 q.2).deepest (resting q.1 q.2).maxState))
    = [(3, 150000, 3), (3, 20000, 2), (3, 150000, 1)] := by decide +kernel

/-- Example 20.1: the offsets of five registers. -/
theorem test_offsets : [(⟨.tqCount, 77, 9⟩ : Reg), ⟨.meStat, 77, 4⟩, ⟨.memUeAddr, 19, 0⟩, ⟨.portCtl, 9, 0⟩, ⟨.sqCtl, 300, 0⟩].map Reg.key
    = [0x1950124, 0x1950220, 0x1820310, 0x1830100, 0x44B10] := by decide +kernel

/-- FIPS 180-4: the digest of "abc"; the check value of CRC-64 with the polynomial of R461 (log entry 84). -/
theorem test_digests : (sha384 ((toLe 3 0x636261))).map (fun b => b.toNat) =
    [0xcb,0x00,0x75,0x3f,0x45,0xa3,0x5e,0x8b,0xb5,0xa0,0x3d,0x69,0x9a,0xc6,0x50,0x07,0x27,0x2c,0x32,0xab,0x0e,0xde,0xd1,0x63,
     0x1a,0x8b,0x60,0x5a,0x43,0xff,0x5b,0xed,0x80,0x86,0x07,0x2b,0xa1,0xe7,0xcc,0x23,0x58,0xba,0xec,0xa1,0x34,0xc8,0x25,0xa7] ∧
    (crc64 ([0x31,0x32,0x33,0x34,0x35,0x36,0x37,0x38,0x39].map (BitVec.ofNat 8))).toNat = 0x6C40DF5F0B497347 := by decide +kernel

/-- FIPS 197, 4.2 and 5.1.1: a product of bytes and a substitution (log entry 84). -/
theorem test_cipher_tables : aesMul 0x57 0x83 = 0xC1 ∧ aesSbox 0x53 = 0xED ∧ aesInvSbox 0xED = 0x53 := by decide +kernel

/-- R287: FP6 has 32 cells in a word, and element (33, 40) lies in bank 73 mod 64, the second word group, cell 1; R288: every column
touches every bank once, and byte 2,080 of linear CM lies in bank 1. -/
theorem test_tile_image : cellPlace 5 10 33 40 = (9, 11, 1) ∧ [3, 5, 1, 0].map imageGroups = [2, 2, 4, 8] ∧
    ((List.range 64).map (fun r => (cellPlace 0 0 r 7).1)).Nodup ∧ cmBank 2080 = 1 := by decide +kernel

/-- Table 1.6: bits 3:0 of a command word pick the command; bits 31:4 are ignored. -/
theorem test_queue_commands : [0xFFFFFFF0, 0x11, 0x22].map (fun w => tqCommandOf 3 4 w false)
    = [.tqNop 3 4 0xFFFFFFF0, .tqDropRemainder 3 4 0x11 false, .tqReservedCommand 3 4 0x22] := by decide

end Sys2Proof.Tests
end

section
/-! SUPPORT. TENSOR_RELEASE and its deferred effect (R79, R301): what removing a tensor leaves alone, what each branch of a release
does, and why a course that names a tensor whose release waits fails check 0x15. -/

namespace Sys2Proof.Machine

/-! ## Removing a tensor -/

/-- Rewriting stacks one after another changes the stacks alone. -/
theorem State.foldl_setStack_frame (f : State → Nat → Stack) (ns : List Nat) (s : State) :
    ns.foldl (fun s n => s.setStack n (f s n)) s
      = { s with stackTab := (ns.foldl (fun s n => s.setStack n (f s n)) s).stackTab } := by
  induction ns generalizing s with
  | nil => rfl
  | cons n ns ih => exact ih (s.setStack n (f s n))

/-- Clearing a home's marks changes the stacks alone. -/
theorem State.clearMarks_frame (s : State) (t : Tensor) :
    s.clearMarks t = { s with stackTab := (s.clearMarks t).stackTab } :=
  State.foldl_setStack_frame _ t.stackIds s

@[simp] theorem State.clearMarks_tensor (s : State) (t : Tensor) (id : Nat) : (s.clearMarks t).tensor id = s.tensor id := by
  rw [s.clearMarks_frame t]; rfl

@[simp] theorem State.tensor_dropTensor (s : State) (id : Nat) : (s.dropTensor id).tensor id = none := by
  unfold State.dropTensor
  split
  · assumption
  · exact State.tensor_setTensor ..

/-- Every other tensor stands when one is removed. -/
theorem State.tensor_dropTensor_ne (s : State) {id j : Nat} (h : j ≠ id) : (s.dropTensor id).tensor j = s.tensor j := by
  unfold State.dropTensor
  split
  · rfl
  · rw [State.tensor_setTensor_ne _ _ h, State.clearMarks_tensor]

/-- Removing a tensor changes the tensors and the stacks alone. -/
theorem State.dropTensor_frame (s : State) (id : Nat) :
    s.dropTensor id = { s with tensors := (s.dropTensor id).tensors, stackTab := (s.dropTensor id).stackTab } := by
  unfold State.dropTensor
  split
  · rfl
  · next t _ =>
    rw [s.clearMarks_frame t]
    rfl

/-! ## The branches of a release -/

/-- Marking a descriptor leaves the tensors alone. -/
@[simp] theorem State.markActed_tensor (s : State) (d : Desc) (id : Nat) : (s.markActed d).tensor id = s.tensor id := rfl

/-- What a course names must stay. -/
theorem State.releaseHeld_of_namedByCourse {s : State} {id : Nat} (h : s.namedByCourse id = true) :
    s.releaseHeld id = true := by
  unfold State.releaseHeld; rw [h]; rfl

/-- A due TENSOR_RELEASE is released, deferred or refused. -/
theorem exec_tensorRelease_of_due {s : State} {ring : Nat} {d : Desc} (h : s.dueDesc ring 0x03 = some d) :
    exec (.tensorRelease ring) s = .next (s.releaseTensor d) := by
  change execTensorRelease ring s = _
  unfold execTensorRelease; rw [h]

/-- The release of an id that is not defined for the function is refused. -/
theorem State.releaseTensor_of_undefined {s : State} {d : Desc} (h : s.usable d.func (d.field 16 3) = none) :
    s.releaseTensor d = s.completeStatus d 0x0002 0x15 (d.field 16 3) := by
  unfold State.releaseTensor; dsimp only; rw [h]

/-- The release of a tensor that must stay is noted on it, and its descriptor stays in flight. -/
theorem State.releaseTensor_of_held {s : State} {d : Desc} {t : Tensor} (h : s.usable d.func (d.field 16 3) = some t)
    (hh : s.releaseHeld (d.field 16 3) = true) :
    s.releaseTensor d = (s.setTensor (d.field 16 3) (some { t with releasing := some d })).markActed d := by
  unfold State.releaseTensor; dsimp only; rw [h]; exact if_pos hh

/-- The release of a tensor that nothing holds removes it. -/
theorem State.releaseTensor_of_free {s : State} {d : Desc} {t : Tensor} (h : s.usable d.func (d.field 16 3) = some t)
    (hh : s.releaseHeld (d.field 16 3) = false) :
    s.releaseTensor d = (s.dropTensor (d.field 16 3)).completeStatus d 0x0000 := by
  unfold State.releaseTensor; dsimp only; rw [h]; exact if_neg (by simp [hh])

/-- A deferred release waits for what holds the tensor, then removes it and completes. -/
theorem exec_tensorReleaseDeferred {s : State} {id : Nat} {t : Tensor} {d : Desc} (ht : s.tensor id = some t)
    (hd : t.releasing = some d) :
    exec (.tensorReleaseDeferred id) s
      = if s.releaseHeld id then .next s else .next ((s.dropTensor id).completeStatus d 0x0000) := by
  change execTensorReleaseDeferred id s = _
  unfold execTensorReleaseDeferred; rw [ht]; dsimp only; rw [hd]

/-! ## Courses that name a tensor whose release waits -/

/-- A tensor whose release waits is usable for no function. -/
theorem State.usable_of_releasing {s : State} {id : Nat} {t : Tensor} (ht : s.tensor id = some t)
    (hr : t.releasing.isSome = true) (func : Nat) : s.usable func id = none := by
  have hne : t.releasing ≠ none := Option.isSome_iff_ne_none.1 hr
  unfold State.usable; rw [ht]; exact if_neg (fun h => hne h.2)

/-- The release of a tensor that carries a release descriptor waits. -/
theorem State.releaseDue_of_releasing {s : State} {id : Nat} {t : Tensor} (ht : s.tensor id = some t)
    (hr : t.releasing.isSome = true) : s.releaseDue id = true := by
  unfold State.releaseDue; rw [ht]; exact hr

/-- A stream of a tensor that is not usable fails check 0x15. -/
theorem State.check15_of_stream {s : State} {func : Nat} {c : Course} {x : Stream} (hx : x ∈ c.streams)
    (h : s.usable func x.tensor = none) : (s.check15 func c).isSome = true := by
  unfold State.check15
  rw [Option.orElse_eq_orElse, Option.orElse_eq_or, Option.isSome_or, Option.isSome_map, Bool.or_eq_true]
  left
  rw [List.find?_isSome]
  exact ⟨x, hx, by rw [h]⟩

/-- A station whose parameters name a tensor with a waiting release fails check 0x15. -/
theorem State.check15_of_station {s : State} {c : Course} {q : Station} {id : Nat} (hq : q ∈ c.stations)
    (hid : id ∈ stationNames q) (h : s.releaseDue id = true) (func : Nat) : (s.check15 func c).isSome = true := by
  unfold State.check15
  rw [Option.orElse_eq_orElse, Option.orElse_eq_or, Option.isSome_or, Option.isSome_map, Option.isSome_map, Bool.or_eq_true]
  right
  rw [List.find?_isSome]
  exact ⟨q, hq, List.any_eq_true.2 ⟨id, hid, h⟩⟩

end Sys2Proof.Machine

open Sys2Proof Sys2Proof.Machine

/-- Settles O11, by the branches of a release: a held one only notes the descriptor on the tensor, which makes the tensor unusable
and its release due for check 0x15; a free one is `dropTensor`, at once or when the deferred release finds the tensor free. -/
theorem tensorReleaseIsDeferred : Obligations.TensorReleaseIsDeferred := by
  unfold Obligations.TensorReleaseIsDeferred
  refine ⟨?_, ?_⟩
  · rintro s ring _ d hdue rfl
    rw [exec_tensorRelease_of_due hdue]
    refine ⟨fun t ht hnamed => ?deferred, fun hnone => ?undefined, fun t ht hfree => ?free⟩
    case deferred =>
      rw [State.releaseTensor_of_held ht (State.releaseHeld_of_namedByCourse hnamed)]
      have hnoted : ((s.setTensor (d.field 16 3) (some { t with releasing := some d })).markActed d).tensor (d.field 16 3)
          = some { t with releasing := some d } := by simp
      refine ⟨_, rfl, rfl, rfl, hnoted, fun j hj => ?_, ?_, ?_, rfl⟩
      · rw [State.markActed_tensor, State.tensor_setTensor_ne _ _ hj]
      · rintro c x hx hxt
        exact State.check15_of_stream hx (hxt ▸ State.usable_of_releasing hnoted rfl d.func)
      · rintro c q hq hid
        exact State.check15_of_station hq hid (State.releaseDue_of_releasing hnoted rfl) d.func
    case undefined => rw [State.releaseTensor_of_undefined hnone]
    case free =>
      rw [State.releaseTensor_of_free ht hfree]
      exact ⟨_, s.tensor_dropTensor _, fun j hj => s.tensor_dropTensor_ne hj, s.dropTensor_frame _, rfl⟩
  · intro s id t d ht hd
    rw [exec_tensorReleaseDeferred ht hd]
    refine ⟨fun hheld => if_pos hheld, fun hfree => ?_⟩
    rw [if_neg (by simp [hfree])]
    exact ⟨_, s.tensor_dropTensor _, fun j hj => s.tensor_dropTensor_ne hj, s.dropTensor_frame _, rfl⟩

end

section
/-! SUPPORT. The evaluation of a feature set (R411, R412): which offending bit it names, and what FEATURES_CTL reads after a refusal. -/

namespace Sys2Proof.Machine

/-! ## The conflict of bits 2 and 7 -/

/-- The conflict is what a set is refused for, once every bit up to 7 that it accepts is offered: no lower bit offends. -/
theorem featureFault_of_conflict {p : Part} {ws : List Nat} (h2 : featureBit ws 2 = true) (h7 : featureBit ws 7 = true)
    (hoff : ∀ b, b ≤ 7 → featureBit ws b = true → (offeredFeatures p).testBit b = true) :
    featureFault p ws = some (7, 2) := by
  have hbits : List.range 256 = List.range 7 ++ 7 :: List.range' 8 248 := by
    rw [List.range_eq_range', List.range_eq_range']
    exact (List.range'_append_1 (s := 0) (m := 7) (n := 249)).symm
  unfold featureFault
  refine List.findSome?_eq_some_iff.2 ⟨_, 7, _, hbits, ?names7, fun b hb => ?lower⟩
  case names7 => simp [h7, h2, hoff 7 (Nat.le_refl 7) h7]
  case lower =>
    have hlt : b < 7 := List.mem_range.1 hb
    by_cases haccepted : featureBit ws b = true
    · simp [haccepted, hoff b (by omega) haccepted, Nat.ne_of_lt hlt]
    · simp [haccepted]

/-! ## A refusal in FEATURES_CTL -/

/-- FEATURES_CTL after a refusal: FEATURES_OK 0, DONE 1, FIRST_BAD and KIND of the offending bit. -/
def refusedCtl (v : Long) (b kind : Nat) : Long := setF (setF (setBit (setBit v 0 false) 1 true) 15 8 b) 17 16 kind

@[simp] theorem getF_refusedCtl_kind (v : Long) (b kind : Nat) : getF (refusedCtl v b kind) 17 16 = kind % 4 :=
  getF_setF_same _ _ _ _ (by decide)

@[simp] theorem getF_refusedCtl_firstBad (v : Long) (b kind : Nat) : getF (refusedCtl v b kind) 15 8 = b % 256 :=
  (getF_setF_ne _ _ _ _ _ _ (by decide)).trans (getF_setF_same _ _ _ _ (by decide))

@[simp] theorem getBit_refusedCtl_featuresOk (v : Long) (b kind : Nat) : getBit (refusedCtl v b kind) 0 = false := by
  unfold refusedCtl
  rw [getBit_setF_ne _ _ _ _ _ (by decide), getBit_setF_ne _ _ _ _ _ (by decide), getBit_setBit_ne _ _ _ _ (by decide),
    getBit_setBit_same _ _ _ (by decide)]

@[simp] theorem getBit_refusedCtl_done (v : Long) (b kind : Nat) : getBit (refusedCtl v b kind) 1 = true := by
  unfold refusedCtl
  rw [getBit_setF_ne _ _ _ _ _ (by decide), getBit_setF_ne _ _ _ _ _ (by decide), getBit_setBit_same _ _ _ (by decide)]

/-! ## The evaluation -/

/-- A set that FEATURES_OK took is evaluated. -/
theorem exec_featuresEvaluate_of_taken {s : State} {ws : List Nat} (h : s.host.features = some ws) :
    exec .featuresEvaluate s = .next (s.evaluateFeatures ws) := by
  change execFeaturesEvaluate s = _
  unfold execFeaturesEvaluate; rw [h]

/-- A set with an offending bit is refused in FEATURES_CTL. -/
theorem State.evaluateFeatures_featuresCtl_of_fault {s : State} {ws : List Nat} {b kind : Nat}
    (h : featureFault s.part ws = some (b, kind)) :
    (s.evaluateFeatures ws).reg ⟨.featuresCtl, 0, 0⟩ = refusedCtl (s.reg ⟨.featuresCtl, 0, 0⟩) b kind := by
  unfold State.evaluateFeatures
  dsimp only
  rw [h]
  exact State.reg_setReg ..

/-- While FEATURES_OK reads 0 no set is confirmed. -/
theorem State.featuresConfirmed_of_not_ok {s : State} (h : getBit (s.reg ⟨.featuresCtl, 0, 0⟩) 0 = false) :
    s.featuresConfirmed = false := by
  unfold State.featuresConfirmed; dsimp only; rw [h]; rfl

end Sys2Proof.Machine

open Sys2Proof Sys2Proof.Machine

/-- Settles O8: in a set of offered bits the conflict of bit 7 is the one fault, and the evaluation refuses the set with it. -/
theorem conflictingFeaturesAreRefused : Obligations.ConflictingFeaturesAreRefused := by
  unfold Obligations.ConflictingFeaturesAreRefused
  intro s ws htaken h2 h7 hoff
  have hfault : featureFault s.part ws = some (7, 2) := featureFault_of_conflict h2 h7 (fun b hb => hoff b (by omega))
  have hctl := State.evaluateFeatures_featuresCtl_of_fault hfault
  have hok : getBit ((s.evaluateFeatures ws).reg ⟨.featuresCtl, 0, 0⟩) 0 = false := by simp [hctl]
  exact ⟨_, exec_featuresEvaluate_of_taken htaken, by simp [hctl], by simp [hctl], hok, by simp [hctl],
    State.featuresConfirmed_of_not_ok hok⟩

end

section
/-! SUPPORT. The transition to RETURNED (R491): what a request within an SPDM session does, what a reset of the package leaves of
its state, and what the retired package keeps. -/

namespace Sys2Proof.Machine

/-! ## What rails and voltage orders touch -/

/-- From s to t only the power state and what leaves the package differ. -/
def State.PowerOnly (s t : State) : Prop := ∃ p o, t = { s with power := p, out := o }

theorem State.PowerOnly.refl (s : State) : s.PowerOnly s := ⟨s.power, s.out, rfl⟩

theorem State.PowerOnly.trans {s t u : State} (h : s.PowerOnly t) (g : t.PowerOnly u) : s.PowerOnly u := by
  obtain ⟨_, _, rfl⟩ := h
  obtain ⟨p, o, rfl⟩ := g
  exact ⟨p, o, rfl⟩

theorem State.foldl_powerOnly {α : Type} (f : State → α → State) (hf : ∀ (s : State) a, s.PowerOnly (f s a)) (xs : List α)
    (s : State) : s.PowerOnly (xs.foldl f s) := by
  induction xs generalizing s with
  | nil => exact .refl s
  | cons x xs ih => exact (hf s x).trans (ih (f s x))

theorem State.answer_powerOnly (s : State) (conn : Nat) (r : SpdmReply) : s.PowerOnly (s.answer conn r) := ⟨s.power, _, rfl⟩

theorem State.sendMv_powerOnly (s : State) (die mv : Nat) : s.PowerOnly (s.sendMv die mv) := by
  unfold State.sendMv
  split
  · exact ⟨s.power, _, rfl⟩
  · split
    · exact ⟨s.power, _, rfl⟩
    · exact .refl s

theorem State.orderMv_powerOnly (s : State) (die mv : Nat) : s.PowerOnly (s.orderMv die mv) := by
  unfold State.orderMv
  dsimp only
  split
  · exact .refl s
  · exact .trans ⟨_, s.out, rfl⟩ (State.sendMv_powerOnly _ die mv)

theorem State.leaveReset_powerOnly (s : State) : s.PowerOnly s.leaveReset := by
  unfold State.leaveReset
  split
  · exact ⟨_, s.out, rfl⟩
  · exact .refl s

/-! ## The reset of the package -/

/-- A reset gives the package's logic its reset values, but for the registers that it keeps, the fence, and the rails. -/
theorem State.packageReset_frame (s : State) : ∃ g f, State.PowerOnly
    { s.freshPackage with regs := g, host := { s.freshPackage.host with deviceFault := f } } s.packageReset := by
  unfold State.packageReset
  refine ⟨_, _, .trans ⟨_, s.freshPackage.out, rfl⟩ (State.foldl_powerOnly _ (fun u d => ?order) _ _)⟩
  case order =>
    split
    · exact u.orderMv_powerOnly d 700
    · exact .refl u

/-! ## Requests within a session -/

/-- A request in an established session on a connection that is up takes its effect. -/
theorem State.inSession_of_established {s : State} {n : Nat} {q : Session} (hq : s.spdm n = some q) (hfin : q.finished = true)
    (hup : s.connUp q.conn = true) (f : State → Session → State) : s.inSession n f = .next (f s q) := by
  unfold State.inSession; simp [hq, hfin, hup]

/-- What a request in a session can come to: nothing, an error, or its effect in an established session. -/
theorem State.inSession_cases (s : State) (n : Nat) (f : State → Session → State) :
    s.inSession n f = .next s ∨ (∃ c, s.inSession n f = .next (s.answer c (.error .unexpectedRequest))) ∨
      ∃ q, s.spdm n = some q ∧ q.finished = true ∧ s.inSession n f = .next (f s q) := by
  unfold State.inSession
  split
  · exact .inl rfl
  · next q hq =>
    split
    · exact .inl rfl
    · split
      · next hfin => exact .inr (.inr ⟨q, hq, hfin, rfl⟩)
      · exact .inr (.inl ⟨q.conn, rfl⟩)

/-! ## The transition -/

/-- A token that may be accepted retires the package. -/
theorem exec_lifecycleTransition_of_accepted {s : State} {n : Nat} {q : Session} (hq : s.spdm n = some q)
    (hfin : q.finished = true) (hup : s.connUp q.conn = true) (hmctp : q.conn = 0) (hprod : s.secure.lifecycle = 2)
    (hnone : s.secure.polders = []) (hsave : s.power.phase ≠ .saving) :
    exec (.lifecycleTransition n true true) s = .next (s.retire.answer 0 .tokenAccepted) := by
  change execLifecycleTransition n true true s = _
  unfold execLifecycleTransition
  rw [State.inSession_of_established hq hfin hup]
  simp [hmctp, hprod, hnone, hsave]

/-- A token that fails one of the conditions of R491 is answered with InvalidRequest. -/
theorem exec_lifecycleTransition_of_refused {s : State} {n : Nat} {q : Session} (hq : s.spdm n = some q)
    (hfin : q.finished = true) (hup : s.connUp q.conn = true) {g w : Bool}
    (hbad : q.conn ≠ 0 ∨ g = false ∨ w = false ∨ s.secure.lifecycle ≠ 2 ∨ s.secure.polders ≠ []) :
    exec (.lifecycleTransition n g w) s = .next (s.answer q.conn (.error .invalidRequest)) := by
  change execLifecycleTransition n g w s = _
  unfold execLifecycleTransition
  rw [State.inSession_of_established hq hfin hup, if_neg]
  rintro ⟨hmctp, hgenuine, hmine, hprod, hnone, -⟩
  simp [hmctp, hgenuine, hmine, hprod, List.isEmpty_iff.1 hnone] at hbad

/-- Outside PRODUCTION a token does nothing, or is answered with an error. -/
theorem exec_lifecycleTransition_of_not_production {s : State} (hprod : s.secure.lifecycle ≠ 2) (n : Nat) (g w : Bool) :
    exec (.lifecycleTransition n g w) s = .next s ∨
      ∃ c e, exec (.lifecycleTransition n g w) s = .next (s.emit (.spdm c (.error e))) := by
  change execLifecycleTransition n g w s = _ ∨ ∃ c e, execLifecycleTransition n g w s = _
  unfold execLifecycleTransition
  rcases s.inSession_cases n _ with hno | ⟨c, hunexpected⟩ | ⟨q, -, -, heffect⟩
  · exact .inl hno
  · exact .inr ⟨c, _, hunexpected⟩
  · exact .inr ⟨q.conn, _, heffect.trans (by rw [if_neg (by simp [hprod])]; rfl)⟩

/-- Without the sealing key no saved polder comes back. -/
theorem State.restorePolder_of_not_sealed {s : State} (h : s.secure.sealed = false) (e : Nat × List Byte) :
    s.restorePolder e = s := by
  unfold State.restorePolder; simp [h]

/-! ## The retired package -/

/-- What stands in a package that has been retired under power: the fuse is blown, and the sealing key, the NOR slots and the
logic's work are gone. -/
structure State.Retired (t : State) : Prop where
  lifecycle : t.secure.lifecycle = 3
  sealed : t.secure.sealed = false
  nor0 : t.resume.nor0 = none
  nor1 : t.resume.nor1 = none
  courses : t.courses = []
  tensors : t.tensors = []
  stackTab : t.stackTab = []
  inflight : t.host.inflight = []

/-- Retirement is seen neither in the power state nor in what leaves the package. -/
theorem State.PowerOnly.retired {s t : State} (h : s.PowerOnly t) (hs : s.Retired) : t.Retired := by
  obtain ⟨_, _, rfl⟩ := h
  exact ⟨hs.lifecycle, hs.sealed, hs.nor0, hs.nor1, hs.courses, hs.tensors, hs.stackTab, hs.inflight⟩

/-- The reset of a package whose fuse, key and slots are gone retires it. -/
theorem State.retired_packageReset {s : State} (hlife : s.secure.lifecycle = 3) (hseal : s.secure.sealed = false)
    (hnor0 : s.resume.nor0 = none) (hnor1 : s.resume.nor1 = none) : s.packageReset.Retired := by
  obtain ⟨_, _, h⟩ := s.packageReset_frame
  exact h.retired ⟨hlife, hseal, hnor0, hnor1, rfl, rfl, rfl, rfl⟩

/-- The transition under power leaves a retired package. -/
theorem State.retired_retire {s : State} (h : s.power.phase = .run ∨ s.power.phase = .held) : s.retire.Retired := by
  unfold State.retire
  dsimp only
  rw [if_pos (by simpa using h)]
  exact (State.leaveReset_powerOnly _).retired (State.retired_packageReset rfl rfl rfl rfl)

end Sys2Proof.Machine

open Sys2Proof Sys2Proof.Machine

/-- Settles O32: an accepted token leaves a retired package, whose lifecycle state then refuses every further token and whose
missing key unwraps no handle. -/
theorem lifecycleTransitionIsFinal : Obligations.LifecycleTransitionIsFinal := by
  unfold Obligations.LifecycleTransitionIsFinal
  intro s n q hq hfin hup hphase
  refine ⟨fun hmctp hprod hnone => ?accepted, fun g w hbad => exec_lifecycleTransition_of_refused hq hfin hup hbad⟩
  case accepted =>
    have hsave : s.power.phase ≠ .saving := by rcases hphase with h | h <;> simp [h]
    have hret : (s.retire.answer 0 .tokenAccepted).Retired :=
      (State.answer_powerOnly _ _ _).retired (State.retired_retire hphase)
    exact ⟨_, exec_lifecycleTransition_of_accepted hq hfin hup hmctp hprod hnone hsave, hret.lifecycle, hret.sealed,
      State.restorePolder_of_not_sealed hret.sealed, hret.nor0, hret.nor1, hret.courses, hret.tensors, hret.stackTab,
      hret.inflight, ⟨_, rfl⟩, exec_lifecycleTransition_of_not_production (by simp [hret.lifecycle])⟩

end
